-- ==== Sys2Proof/Word.lean ====
section
/-! DEFINITION. The machine's words: lane values, memory bytes and the 96-bit instruction slot. -/

namespace Sys2Proof

/-- One byte of memory (R25). -/
abbrev Byte := BitVec 8

/-- One 32-bit vector register of one lane (R101). -/
abbrev Word := BitVec 32

/-- A 64-bit value: a uniform register, an address, a program counter (R53, R194). -/
abbrev DWord := BitVec 64

/-- The widest operand of one lane: a quad of four registers (R108); narrower operands are zero-extended. -/
abbrev LaneVal := BitVec 128

/-- One instruction slot of a fetch line (R48). -/
abbrev Slot := BitVec 96

/-- One value for each of the 32 lanes of a group (R14). -/
abbrev Lanes (α : Type) := Vector α 32

/-- The same value in every lane. -/
def Lanes.all {α : Type} (x : α) : Lanes α := Vector.replicate 32 x

/-- Lane values by lane number. -/
def Lanes.mk {α : Type} (f : Nat → α) : Lanes α := Vector.ofFn fun l => f l.val

/-- The value of lane `l`, or `d` beyond lane 31. -/
def Lanes.at {α : Type} (v : Lanes α) (l : Nat) (d : α) : α := v.toArray.getD l d

/-- Change the value of lane `l`; nothing beyond lane 31. -/
def Lanes.put {α : Type} (v : Lanes α) (l : Nat) (x : α) : Lanes α := v.setIfInBounds l x

end Sys2Proof
end

