-- ==== Sys2Proof/Machine/Bits.lean ====
section
/-! DEFINITION. Bit-field, sign-extension and saturation helpers used by the lane computations (R25, R27, R109). -/

namespace Sys2Proof.Machine

/-- Bits [hi:lo] of a natural number. -/
def bitsOf (x hi lo : Nat) : Nat := (x >>> lo) % 2 ^ (hi + 1 - lo)

/-- The value of the low `w` bits of `x` as a two's-complement integer (R27). -/
def signed (w x : Nat) : Int :=
  let y := x % 2 ^ w
  if y < 2 ^ (w - 1) then (y : Int) else (y : Int) - (2 ^ w : Nat)

/-- The low `w` bits of an integer. -/
def wrap (w : Nat) (x : Int) : Nat := (x % ((2 ^ w : Nat) : Int)).toNat

/-- Read `w` bits as a signed or a natural number (R27, R109). -/
def intVal (sg : Bool) (w x : Nat) : Int := if sg then signed w x else ((x % 2 ^ w : Nat) : Int)

/-- The least and the greatest value of an integer type (R27). -/
def intMin (sg : Bool) (w : Nat) : Int := if sg then -((2 ^ (w - 1) : Nat) : Int) else 0
@[inherit_doc intMin] def intMax (sg : Bool) (w : Nat) : Int :=
  if sg then ((2 ^ (w - 1) : Nat) : Int) - 1 else ((2 ^ w : Nat) : Int) - 1

/-- SAT of R26: clamp into [lo, hi], and whether clamping changed the value. -/
def clamp (x lo hi : Int) : Int × Bool :=
  if x < lo then (lo, true) else if hi < x then (hi, true) else (x, false)

/-- The number of ones among the low `n` bits. -/
def popCount : Nat → Nat → Nat
  | 0, _ => 0
  | n + 1, x => x % 2 + popCount n (x / 2)

/-- The number of bits of `x`: 0 for 0, else ⌊log2 x⌋ + 1. -/
def bitLen (x : Nat) : Nat := if x = 0 then 0 else Nat.log2 x + 1

/-- The low `n` bits of `x` in reverse order. -/
def bitRev : Nat → Nat → Nat
  | 0, _ => 0
  | n + 1, x => (x % 2) * 2 ^ n + bitRev n (x / 2)

/-- Byte `k` of a value. -/
def byteOf (x k : Nat) : Nat := (x >>> (8 * k)) % 256

/-- The bytes of a value, least significant first (R25). -/
def toBytes (n x : Nat) : List Byte := (List.range n).map fun k => BitVec.ofNat 8 (byteOf x k)

/-- The value of little-endian bytes (R25). -/
def ofBytes : List Byte → Nat
  | [] => 0
  | b :: bs => b.toNat + 256 * ofBytes bs

/-- Replace bits [lo + w − 1 : lo] of `x` by the low `w` bits of `y`. -/
def setField (x lo w y : Nat) : Nat :=
  (x >>> (lo + w)) <<< (lo + w) + (y % 2 ^ w) <<< lo + x % 2 ^ lo

/-- A Boolean as a number. -/
def b2n (b : Bool) : Nat := if b then 1 else 0

/-- Look-up of R110: bit 7 − (4a + 2b + c) of an eight-bit table. -/
def lut3 (lut : Nat) (a b c : Bool) : Bool := lut.testBit (7 - (4 * b2n a + 2 * b2n b + b2n c))

/-- R110 over 32 bits. -/
def lop3 (lut a b c : Nat) : Nat :=
  (List.range 32).foldl (fun r i => r + b2n (lut3 lut (a.testBit i) (b.testBit i) (c.testBit i)) * 2 ^ i) 0

end Sys2Proof.Machine
end

