-- ==== Sys2Proof/Machine/Float.lean ====
section
/-! DEFINITION. Number formats, exact values and rounding (R28 to R32, R37 to R42): every floating-point result of the
machine is an exact value delivered by `rnd`. -/

namespace Sys2Proof.Machine

/-- FPSTAT events (R40): bit 0 NV, 1 DZ, 2 OF, 3 UF, 4 NX, 5 IS. -/
abbrev Flags := BitVec 6

def flNV : Flags := 1
def flDZ : Flags := 2
def flOF : Flags := 4
def flUF : Flags := 8
def flNX : Flags := 16
def flIS : Flags := 32

/-- A flag raised when a condition holds. -/
def flIf (c : Bool) (f : Flags) : Flags := if c then f else 0

/-- Rounding modes (R37). -/
inductive RM where
  | rne | rz | ru | rd | rna
  deriving DecidableEq, Repr

/-- R37: codes 5 to 7 name no mode. -/
def RM.ofCode : Nat → Option RM
  | 0 => some .rne
  | 1 => some .rz
  | 2 => some .ru
  | 3 => some .rd
  | 4 => some .rna
  | _ => none

/-- The rounding mode of a code that check 6 of R79 has admitted. -/
def RM.get (c : Nat) : RM := (RM.ofCode c).getD .rne

/-- The NaN codes of a format (R28). -/
inductive NanKind where
  | ieee | e4m3 | none
  deriving DecidableEq, Repr

/-- A floating-point format (R28): width, exponent bits, mantissa bits, bias and special codes. -/
structure Fmt where
  w : Nat
  eb : Nat
  mb : Nat
  bias : Nat
  nan : NanKind
  deriving DecidableEq, Repr

def fmtF64 : Fmt := ⟨64, 11, 52, 1023, .ieee⟩
def fmtF32 : Fmt := ⟨32, 8, 23, 127, .ieee⟩
def fmtF16 : Fmt := ⟨16, 5, 10, 15, .ieee⟩
def fmtBF16 : Fmt := ⟨16, 8, 7, 127, .ieee⟩
def fmtE5M2 : Fmt := ⟨8, 5, 2, 15, .ieee⟩
def fmtE4M3 : Fmt := ⟨8, 4, 3, 7, .e4m3⟩
def fmtE3M2 : Fmt := ⟨6, 3, 2, 3, .none⟩
def fmtE2M1 : Fmt := ⟨4, 2, 1, 1, .none⟩

/-- Only the IEEE-like formats have infinities (R28). -/
def Fmt.hasInf (f : Fmt) : Bool := f.nan == .ieee

/-- The exponent of the smallest normal number. -/
def Fmt.emin (f : Fmt) : Int := 1 - (f.bias : Int)

/-- The exponent of the spacing of subnormals. -/
def Fmt.sub (f : Fmt) : Int := f.emin - (f.mb : Int)

/-- The largest finite code with sign 0 (R29). -/
def Fmt.largest (f : Fmt) : Nat :=
  match f.nan with
  | .ieee => (2 ^ f.eb - 1) * 2 ^ f.mb - 1
  | .e4m3 => 2 ^ (f.eb + f.mb) - 2
  | .none => 2 ^ (f.eb + f.mb) - 1

/-- The default NaN, or +0 in a format without NaN (R29, R30). -/
def Fmt.nanCode (f : Fmt) : Nat :=
  match f.nan with
  | .ieee => (2 ^ f.eb - 1) * 2 ^ f.mb + 2 ^ (f.mb - 1)
  | .e4m3 => 2 ^ (f.eb + f.mb) - 1
  | .none => 0

/-- The +∞ code of a format that has one. -/
def Fmt.infCode (f : Fmt) : Nat := (2 ^ f.eb - 1) * 2 ^ f.mb

/-- Put a sign on a magnitude code. -/
def Fmt.sign (f : Fmt) (neg : Bool) (mag : Nat) : Nat := mag + b2n neg * 2 ^ (f.w - 1)

/-- An exact dyadic number m · 2^e. -/
structure Dy where
  m : Int
  e : Int
  deriving DecidableEq, Repr

/-- The value 2^k as a natural number, for k ≥ 0. -/
def pow2 (k : Int) : Nat := 2 ^ k.toNat

/-- Exact sum (EXACT_SUM of R26). -/
def Dy.add (a b : Dy) : Dy :=
  let e := min a.e b.e
  ⟨a.m * pow2 (a.e - e) + b.m * pow2 (b.e - e), e⟩

def Dy.mul (a b : Dy) : Dy := ⟨a.m * b.m, a.e + b.e⟩
def Dy.neg (a : Dy) : Dy := ⟨-a.m, a.e⟩
def Dy.zero : Dy := ⟨0, 0⟩
def Dy.ofInt (x : Int) : Dy := ⟨x, 0⟩

/-- Exact comparison: the sign of a − b. -/
def Dy.cmp (a b : Dy) : Ordering := compare (a.add b.neg).m 0

/-- ⌊a⌋. -/
def Dy.floor (a : Dy) : Int := if 0 ≤ a.e then a.m * pow2 a.e else a.m / (pow2 (-a.e) : Int)

/-- A floating-point operand: a NaN (signalling or quiet), an infinity, a zero with its sign, or an exact nonzero value. -/
inductive FV where
  | nan (sig : Bool)
  | inf (neg : Bool)
  | zero (neg : Bool)
  | num (v : Dy)
  deriving DecidableEq, Repr

/-- The value of a code (R28, R30, R32). -/
def Fmt.val (f : Fmt) (c : Nat) : FV :=
  let m := c % 2 ^ f.mb
  let e := (c / 2 ^ f.mb) % 2 ^ f.eb
  let neg := c.testBit (f.w - 1)
  let sg (x : Nat) : Int := if neg then -(x : Int) else (x : Int)
  if f.nan == .ieee && e == 2 ^ f.eb - 1 then
    if m == 0 then .inf neg else .nan (!m.testBit (f.mb - 1))
  else if f.nan == .e4m3 && e == 2 ^ f.eb - 1 && m == 2 ^ f.mb - 1 then .nan false
  else if e == 0 then
    if m == 0 then .zero neg else .num ⟨sg m, f.sub⟩
  else .num ⟨sg (m + 2 ^ f.mb), (e : Int) - f.bias - f.mb⟩

/-- Whether a code is a nonzero subnormal. -/
def Fmt.isSub (f : Fmt) (c : Nat) : Bool :=
  (c / 2 ^ f.mb) % 2 ^ f.eb == 0 && c % 2 ^ f.mb != 0

def FV.isNan : FV → Bool
  | .nan _ => true
  | _ => false

def FV.isSig : FV → Bool
  | .nan s => s
  | _ => false

def FV.isInf : FV → Bool
  | .inf _ => true
  | _ => false

def FV.isZero : FV → Bool
  | .zero _ => true
  | _ => false

/-- The sign of a value that is no NaN. -/
def FV.neg : FV → Bool
  | .nan _ => false
  | .inf n => n
  | .zero n => n
  | .num v => v.m < 0

/-- The exact value of a finite operand (0 for the others). -/
def FV.dy : FV → Dy
  | .num v => v
  | _ => Dy.zero

/-- An exact real result before rounding: the magnitude lies at m · 2^e, or strictly between m · 2^e and (m + 1) · 2^e where
`sticky` holds. -/
inductive XR where
  | nan
  | inf (neg : Bool)
  | zero (neg : Bool)
  | val (neg : Bool) (m : Nat) (e : Int) (sticky : Bool)
  deriving DecidableEq, Repr

/-- A dyadic result; `z` is the sign of an exact zero. -/
def XR.ofDy (v : Dy) (z : Bool) : XR :=
  if v.m = 0 then .zero z else .val (v.m < 0) v.m.natAbs v.e false

/-- Whether a magnitude with integer part `n`, and the given relation of its remainder to one half, rounds up (R37). -/
def roundsUp (mode : RM) (neg : Bool) (n : Nat) (rem : Bool) (half : Ordering) : Bool :=
  match mode with
  | .rne => half == .gt || (half == .eq && n % 2 == 1)
  | .rna => half != .lt
  | .rz => false
  | .ru => rem && !neg
  | .rd => rem && neg

/-- Round the magnitude m · 2^e (plus sticky) to a multiple n · 2^q: `n` and whether it is inexact. -/
def roundAt (mode : RM) (neg : Bool) (m : Nat) (e : Int) (sticky : Bool) (q : Int) : Nat × Bool :=
  if q ≤ e then
    let n := m * pow2 (e - q)
    (n + b2n (roundsUp mode neg n sticky .lt), sticky)
  else
    let k := (q - e).toNat
    if bitLen m + 1 < k then
      let rem := m != 0 || sticky
      (b2n (roundsUp mode neg 0 rem .lt), rem)
    else
      let n := m >>> k
      let r := m % 2 ^ k
      let h := 2 ^ (k - 1)
      let half : Ordering := if r < h then .lt else if h < r || sticky then .gt else .eq
      let rem := r != 0 || sticky
      (n + b2n (roundsUp mode neg n rem half), rem)

/-- The overflow result of R38. -/
def overflowCode (f : Fmt) (mode : RM) (sat neg : Bool) : Nat :=
  let towardsInf : Bool :=
    match mode with
    | .rne => true
    | .rna => true
    | .rz => false
    | .ru => !neg
    | .rd => neg
  if sat || f.nan == .none || !towardsInf then f.sign neg f.largest
  else match f.nan with
    | .ieee => f.sign neg f.infCode
    | _ => f.nanCode

/-- The code of n · 2^q, where n · 2^q is a value of the format. -/
def Fmt.codeOf (f : Fmt) (neg : Bool) (n : Nat) (q : Int) : Nat :=
  if n = 0 then f.sign neg 0
  else
    let t : Int := (Nat.log2 n : Int) + q
    if t < f.emin then f.sign neg (n * pow2 (q - f.sub))
    else
      let m := if (f.mb : Int) ≤ Nat.log2 n then n >>> (Nat.log2 n - f.mb) else n * pow2 ((f.mb : Int) - Nat.log2 n)
      f.sign neg (m - 2 ^ f.mb + (t + f.bias).toNat * 2 ^ f.mb)

/-- Whether n · 2^q exceeds the largest finite value (R38). -/
def Fmt.exceeds (f : Fmt) (n : Nat) (q : Int) : Bool :=
  match f.val f.largest with
  | .num v =>
    let t : Int := (bitLen n : Int) + q
    let tl : Int := (bitLen v.m.natAbs : Int) + v.e
    if t < tl then false else if tl < t then true else Dy.cmp ⟨n, q⟩ v == .gt
  | _ => false

/-- RND of R26: deliver an exact result in a format, with its flags (R30, R38, R39). The exponent range is unbounded
above and gradual below; UF goes with an inexact delivered result below the smallest normal (log entry 12). -/
def rnd (f : Fmt) (mode : RM) (sat : Bool) : XR → Nat × Flags
  | .nan => (f.nanCode, flIf (f.nan == .none) flNV)
  | .inf neg => if f.hasInf then (f.sign neg f.infCode, 0) else (f.sign neg f.largest, flNV)
  | .zero neg => (f.sign neg 0, 0)
  | .val neg m e sticky =>
    let q := max ((bitLen m : Int) + e - 1 - f.mb) f.sub
    let (n, x) := roundAt mode neg m e sticky q
    if f.exceeds n q then (overflowCode f mode sat neg, flOF ||| flNX)
    else (f.codeOf neg n q, flIf x (if (bitLen n : Int) + q - 1 < f.emin then flUF ||| flNX else flNX))

/-- `.FTZ` on an operand (R39): a subnormal reads as a zero of the same sign. -/
def ftzIn (f : Fmt) (ftz : Bool) (c : Nat) : Nat :=
  if ftz && f.isSub c then f.sign (c.testBit (f.w - 1)) 0 else c

/-- `.FTZ` on a rounded result (R39). -/
def ftzOut (f : Fmt) (ftz : Bool) (r : Nat × Flags) : Nat × Flags :=
  if ftz && f.isSub r.1 then (f.sign (r.1.testBit (f.w - 1)) 0, r.2 ||| flUF ||| flNX) else r

/-- The sign of an exact zero sum of operands that are not both zeros of one sign (R31). -/
def zeroSumNeg (mode : RM) : Bool := mode == .rd

/-- Exact sum of two operands (R30, R31). -/
def xadd (mode : RM) (a b : FV) : XR × Flags :=
  let fl := flIf (a.isSig || b.isSig) flNV
  match a, b with
  | .nan _, _ => (.nan, fl)
  | _, .nan _ => (.nan, fl)
  | .inf x, .inf y => if x == y then (.inf x, fl) else (.nan, flNV)
  | .inf x, _ => (.inf x, fl)
  | _, .inf y => (.inf y, fl)
  | .zero x, .zero y => (.zero (if x == y then x else zeroSumNeg mode), fl)
  | a, b => (XR.ofDy (a.dy.add b.dy) (zeroSumNeg mode), fl)

/-- Exact product of two operands, again as an operand (R30, R31). -/
def fvMul (a b : FV) : FV × Flags :=
  let fl := flIf (a.isSig || b.isSig) flNV
  let neg := a.neg != b.neg
  match a, b with
  | .nan _, _ => (.nan false, fl)
  | _, .nan _ => (.nan false, fl)
  | .inf _, .zero _ => (.nan false, flNV)
  | .zero _, .inf _ => (.nan false, flNV)
  | .inf _, _ => (.inf neg, fl)
  | _, .inf _ => (.inf neg, fl)
  | .zero _, _ => (.zero neg, fl)
  | _, .zero _ => (.zero neg, fl)
  | .num x, .num y => (.num (x.mul y), fl)

/-- An operand as an exact result. -/
def FV.toXR : FV → XR
  | .nan _ => .nan
  | .inf n => .inf n
  | .zero n => .zero n
  | .num v => XR.ofDy v false

/-- A exact real quotient to at least `bits` significant bits. -/
def xquot (bits : Nat) (neg : Bool) (a b : Dy) : XR :=
  let ma := a.m.natAbs
  let mb := b.m.natAbs
  let s := bits + bitLen mb + 2 - bitLen ma
  let n := ma * 2 ^ s
  .val neg (n / mb) (a.e - b.e - s) (n % mb != 0)

/-- The integer square root by bits, from bit `k − 1` down. -/
def isqrtBits : Nat → Nat → Nat → Nat
  | 0, _, r => r
  | k + 1, x, r => if (r + 2 ^ k) * (r + 2 ^ k) ≤ x then isqrtBits k x (r + 2 ^ k) else isqrtBits k x r

/-- ⌊√x⌋. -/
def isqrt (x : Nat) : Nat := isqrtBits (bitLen x / 2 + 1) x 0

/-- The square root of a positive value to at least `bits` significant bits. -/
def xsqrt (bits : Nat) (v : Dy) : XR :=
  let s0 := 2 * bits + 4
  let s := if (v.e - (s0 : Int)) % 2 = 0 then s0 else s0 + 1
  let n := v.m.natAbs * 2 ^ s
  let r := isqrt n
  .val false r ((v.e - s) / 2) (r * r != n)

/-- R42: round to an integer in a mode; the flag says inexact. -/
def dyToInt (mode : RM) (v : Dy) : Int × Bool :=
  let neg := v.m < 0
  let (n, x) := roundAt mode neg v.m.natAbs v.e false 0
  (if neg then -(n : Int) else (n : Int), x)

/-- R42, floating point to integer. -/
def fvToInt (mode : RM) (sg : Bool) (w : Nat) (v : FV) : Nat × Flags :=
  match v with
  | .nan _ => (0, flNV)
  | .inf neg => (wrap w (if neg then intMin sg w else intMax sg w), flNV)
  | .zero _ => (0, 0)
  | .num d =>
    if 2 + (w : Int) < (bitLen d.m.natAbs : Int) + d.e then
      (wrap w (if d.m < 0 then intMin sg w else intMax sg w), flNV)
    else
      let (n, x) := dyToInt mode d
      let (c, out) := clamp n (intMin sg w) (intMax sg w)
      (wrap w c, if out then flNV else flIf x flNX)

/-- R42, integer to floating point. -/
def intToFmt (f : Fmt) (mode : RM) (sat : Bool) (x : Int) : Nat × Flags :=
  rnd f mode sat (XR.ofDy (Dy.ofInt x) false)

end Sys2Proof.Machine
end

