-- ==== Sys2Proof/Syntax.lean ====
section
/-! DEFINITION. Instructions as data: operand fields, the four slot formats, and `Instr` with one constructor for each
row of the opcode table (R55 to R63, R90 to R96). -/

namespace Sys2Proof

/-- A predicate field: number and negate (R55). -/
structure Pred where
  neg : Bool
  num : BitVec 3
  deriving DecidableEq, Repr

/-- A source operand field (R60, R61); `fe` is OPND.FE, `dead` OPND.DEAD. -/
inductive Src where
  | file (n : BitVec 8) (fe dead : Bool)
  | cuff (k : BitVec 3) (fe dead : Bool)
  | brim (y : Bool) (fe : Bool)
  | uni (n : BitVec 6)
  | const (k : BitVec 6)
  | loopq (k : BitVec 3) (fe : Bool)
  | zero
  deriving DecidableEq, Repr

/-- The field of an unused source: all bits zero (R59). -/
def Src.unused : Src := .file 0 false false

/-- A destination field (R63). -/
structure Dst where
  index : BitVec 8
  nf : Bool
  cw : Bool
  cslot : BitVec 3
  deriving DecidableEq, Repr

/-- The field of an unused destination: all bits zero (R59). -/
def Dst.unused : Dst := ⟨0, false, false, 0⟩

/-- Format RRR (R57). -/
structure RRR where
  pred : Pred
  dst : Dst
  sa : Src
  sb : Src
  sc : Src
  mod : BitVec 31
  deriving DecidableEq, Repr

/-- Format RI (R57). -/
structure RI where
  pred : Pred
  dst : Dst
  sa : Src
  sb : Src
  mod : BitVec 11
  imm : Word
  deriving DecidableEq, Repr

/-- Format M (R57). -/
structure MF where
  pred : Pred
  dst : Dst
  sa : Src
  sb : Src
  mod : BitVec 11
  off : Word
  deriving DecidableEq, Repr

/-- Format B (R57). -/
structure BF where
  pred : Pred
  dst : Dst
  sa : Src
  slot : BitVec 3
  line : BitVec 29
  deriving DecidableEq, Repr

/-- Types (R106). -/
inductive Ty where
  | none | i8 | i16 | i32 | i64 | n8 | n16 | n32 | n64 | f64 | f32 | f16 | bf16 | e5m2 | e4m3 | e3m2 | e2m1
  | f16x2 | bf16x2 | x4e2 | x4e4 | x4i8
  deriving DecidableEq, Repr

/-- R106: codes 22 to 31 name no type. -/
def Ty.ofCode : Nat → Option Ty
  | 0 => some .none | 1 => some .i8 | 2 => some .i16 | 3 => some .i32 | 4 => some .i64 | 5 => some .n8
  | 6 => some .n16 | 7 => some .n32 | 8 => some .n64 | 9 => some .f64 | 10 => some .f32 | 11 => some .f16
  | 12 => some .bf16 | 13 => some .e5m2 | 14 => some .e4m3 | 15 => some .e3m2 | 16 => some .e2m1
  | 17 => some .f16x2 | 18 => some .bf16x2 | 19 => some .x4e2 | 20 => some .x4e4 | 21 => some .x4i8
  | _ => Option.none

/-- Integer comparison conditions (R96). -/
inductive Cc where
  | eq | ne | lt | le | gt | ge
  deriving DecidableEq, Repr

/-- Shift kinds (R96). -/
inductive ShiftKind where
  | l | r | ra | rot
  deriving DecidableEq, Repr

/-- Floating comparison conditions (R96). -/
inductive Fcc where
  | eq | ne | lt | le | gt | ge | un | ord
  deriving DecidableEq, Repr

/-- The tests of BRAU (R96). -/
inductive UTest where
  | nz | z
  deriving DecidableEq, Repr

/-- The forms of CSRW (R96). -/
inductive CsrOp where
  | write | set | clr
  deriving DecidableEq, Repr

/-- Atomic operations (R96); RED has no exchange. -/
inductive AtomOp where
  | add | min | max | and | or | xor | exch | inc | dec | fadd
  deriving DecidableEq, Repr

/-- The levels of PREF (R96). -/
inductive PrefLevel where
  | l1 | l2
  deriving DecidableEq, Repr

/-- The fences (R96). -/
inductive FenceKind where
  | rel | acq | ar | sc
  deriving DecidableEq, Repr

/-- Timed and untimed waits (R96). -/
inductive Timed where
  | untimed | timed
  deriving DecidableEq, Repr

/-- The forms of SHFL (R96). -/
inductive ShflKind where
  | idx | up | down | xor
  deriving DecidableEq, Repr

/-- The forms of VOTE (R96). -/
inductive VoteKind where
  | all | any | bal
  deriving DecidableEq, Repr

/-- Inclusive and exclusive scans (R96). -/
inductive ScanKind where
  | inc | exc
  deriving DecidableEq, Repr

/-- The forms of MATCH (R96). -/
inductive MatchKind where
  | any | all
  deriving DecidableEq, Repr

/-- The key masks of ATTN (R96). -/
inductive AttnMask where
  | tree | causal | none
  deriving DecidableEq, Repr

/-- The shapes of COPY (R96). -/
inductive CopyDims where
  | d1 | d2 | d3
  deriving DecidableEq, Repr

/-- A team: its grid's number and its linear index in the grid. -/
structure TeamRef where
  grid : Nat
  lin : Nat
  deriving DecidableEq, Repr

/-- A group of a team. -/
structure GroupRef where
  team : TeamRef
  grp : Nat
  deriving DecidableEq, Repr

/-- A cluster of a partition. -/
structure ClusterRef where
  part : Nat
  idx : Nat
  deriving DecidableEq, Repr

/-- What a barrier timeout watches (R186, R189, R206, R273, R284, R379). -/
inductive WaitRef where
  | serial (g : GroupRef)
  | join (g : GroupRef)
  | team (t : TeamRef) (id : Nat)
  | cluster (t : TeamRef)
  | die (t : TeamRef)
  | grid (t : TeamRef)
  deriving DecidableEq, Repr

/-- The coherence states of a host line (R435). -/
inductive Mesi where
  | m | e | s | i
  deriving DecidableEq, Repr

/-- A CXL.mem request of the host (R394). -/
inductive CxlReq where
  | read (addr : Nat)
  | write (addr : Nat) (data : List Byte)
  deriving DecidableEq, Repr

/-- What an uncorrectable error can be confined to (R414). -/
inductive ErrScope where
  | part (p : Nat)
  | package
  deriving DecidableEq, Repr

/-- One constructor for each row of the opcode table: first the encoded instructions (R90), then the events. -/
inductive Instr where
  /-- `NOP`, opcode 0x00 (R109). -/
  | nop (f : RRR)
  /-- `IADD`, opcode 0x01 (R109). -/
  | iadd (f : RRR)
  /-- `IADDI`, opcode 0x02 (R109). -/
  | iaddi (f : RI)
  /-- `ISUB`, opcode 0x03 (R109). -/
  | isub (f : RRR)
  /-- `IMUL`, opcode 0x04 (R109). -/
  | imul (f : RRR)
  /-- `IMULH`, opcode 0x05 (R109). -/
  | imulh (f : RRR)
  /-- `IMAD`, opcode 0x06 (R109). -/
  | imad (f : RRR)
  /-- `IDIV`, opcode 0x07 (R113). -/
  | idiv (f : RRR)
  /-- `IMIN`, opcode 0x08 (R109). -/
  | imin (f : RRR)
  /-- `IMAX`, opcode 0x09 (R109). -/
  | imax (f : RRR)
  /-- `IABS`, opcode 0x0a (R109). -/
  | iabs (f : RRR)
  /-- `ICMP`, opcode 0x0b (R109). -/
  | icmp (k : Cc) (f : RRR)
  /-- `ICMPI`, opcode 0x0c (R109). -/
  | icmpi (k : Cc) (f : RI)
  /-- `LOP3`, opcode 0x0d (R110). -/
  | lop3 (f : RRR)
  /-- `LOPI`, opcode 0x0e (R110). -/
  | lopi (f : RI)
  /-- `SHF`, opcode 0x0f (R111). -/
  | shf (k : ShiftKind) (f : RRR)
  /-- `SHFI`, opcode 0x10 (R111). -/
  | shfi (k : ShiftKind) (f : RI)
  /-- `BFE`, opcode 0x11 (R112). -/
  | bfe (f : RRR)
  /-- `BFI`, opcode 0x12 (R112). -/
  | bfi (f : RRR)
  /-- `POPC`, opcode 0x13 (R109). -/
  | popc (f : RRR)
  /-- `CLZ`, opcode 0x14 (R109). -/
  | clz (f : RRR)
  /-- `BREV`, opcode 0x15 (R109). -/
  | brev (f : RRR)
  /-- `SEL`, opcode 0x16 (R109). -/
  | sel (f : RRR)
  /-- `MOV`, opcode 0x17 (R109). -/
  | mov (f : RRR)
  /-- `MOVI`, opcode 0x18 (R109). -/
  | movi (f : RI)
  /-- `MOVSR`, opcode 0x19 (R116). -/
  | movsr (f : RI)
  /-- `ADD64`, opcode 0x1a (R109). -/
  | add64 (f : RRR)
  /-- `ADD64I`, opcode 0x1b (R109). -/
  | add64i (f : RI)
  /-- `MAD64`, opcode 0x1c (R109). -/
  | mad64 (f : RRR)
  /-- `LEA`, opcode 0x1d (R109). -/
  | lea (f : RRR)
  /-- `CMP64`, opcode 0x1e (R109). -/
  | cmp64 (k : Cc) (f : RRR)
  /-- `PSET`, opcode 0x1f (R114). -/
  | pset (f : RRR)
  /-- `PMOV`, opcode 0x20 (R114). -/
  | pmov (f : RRR)
  /-- `IDOT4`, opcode 0x21 (R115). -/
  | idot4 (f : RRR)
  /-- `PRMT`, opcode 0x22 (R115). -/
  | prmt (f : RRR)
  /-- `FADD`, opcode 0x30 (R117). -/
  | fadd (f : RRR)
  /-- `FMUL`, opcode 0x31 (R117). -/
  | fmul (f : RRR)
  /-- `FFMA`, opcode 0x32 (R117). -/
  | ffma (f : RRR)
  /-- `FMIN`, opcode 0x33 (R118). -/
  | fmin (f : RRR)
  /-- `FMAX`, opcode 0x34 (R118). -/
  | fmax (f : RRR)
  /-- `FCMP`, opcode 0x35 (R119). -/
  | fcmp (k : Fcc) (f : RRR)
  /-- `FCLASS`, opcode 0x36 (R120). -/
  | fclass (f : RRR)
  /-- `FSCALE`, opcode 0x37 (R117). -/
  | fscale (f : RRR)
  /-- `FRND`, opcode 0x38 (R117). -/
  | frnd (f : RRR)
  /-- `FDIV`, opcode 0x39 (R121). -/
  | fdiv (f : RRR)
  /-- `FSQRT`, opcode 0x3a (R121). -/
  | fsqrt (f : RRR)
  /-- `FRCP`, opcode 0x3b (R124). -/
  | frcp (f : RRR)
  /-- `FRSQ`, opcode 0x3c (R125). -/
  | frsq (f : RRR)
  /-- `FEXP2`, opcode 0x3d (R123). -/
  | fexp2 (f : RRR)
  /-- `FLOG2`, opcode 0x3e (R124). -/
  | flog2 (f : RRR)
  /-- `FSIN`, opcode 0x3f (R126). -/
  | fsin (f : RRR)
  /-- `FCOS`, opcode 0x40 (R126). -/
  | fcos (f : RRR)
  /-- `FTANH`, opcode 0x41 (R127). -/
  | ftanh (f : RRR)
  /-- `CVT`, opcode 0x42 (R128). -/
  | cvt (f : RRR)
  /-- `CVTI`, opcode 0x43 (R128). -/
  | cvti (f : RRR)
  /-- `CVTSR`, opcode 0x44 (R129). -/
  | cvtsr (f : RRR)
  /-- `BXPACK`, opcode 0x45 (R130). -/
  | bxpack (f : RRR)
  /-- `BXUNP`, opcode 0x46 (R130). -/
  | bxunp (f : RRR)
  /-- `FADDI`, opcode 0x47 (R117). -/
  | faddi (f : RI)
  /-- `FMULI`, opcode 0x48 (R117). -/
  | fmuli (f : RI)
  /-- `RNGDRAW`, opcode 0x49 (R132). -/
  | rngdraw (f : RRR)
  /-- `RNGSKIP`, opcode 0x4a (R133). -/
  | rngskip (f : RRR)
  /-- `BRA`, opcode 0x60 (R136). -/
  | bra (f : BF)
  /-- `BRAU`, opcode 0x61 (R138). -/
  | brau (k : UTest) (f : BF)
  /-- `BRX`, opcode 0x62 (R137). -/
  | brx (f : BF)
  /-- `CALL`, opcode 0x63 (R140). -/
  | call (f : BF)
  /-- `CALLX`, opcode 0x64 (R140). -/
  | callx (f : BF)
  /-- `RET`, opcode 0x65 (R140). -/
  | ret (f : BF)
  /-- `LOOPU`, opcode 0x66 (R139). -/
  | loopu (f : BF)
  /-- `EXIT`, opcode 0x67 (R144). -/
  | exit (f : RRR)
  /-- `TRAP`, opcode 0x68 (R145). -/
  | trap (f : RI)
  /-- `TRAPRET`, opcode 0x69 (R221). -/
  | trapret (f : RRR)
  /-- `YIELD`, opcode 0x6a (R146). -/
  | yield (f : RRR)
  /-- `CSRR`, opcode 0x6b (R147). -/
  | csrr (f : RI)
  /-- `CSRW`, opcode 0x6c (R147). -/
  | csrw (k : CsrOp) (f : RI)
  /-- `BKPT`, opcode 0x6d (R145). -/
  | bkpt (f : RI)
  /-- `LD`, opcode 0x80 (R153). -/
  | ld (f : MF)
  /-- `ST`, opcode 0x81 (R153). -/
  | st (f : MF)
  /-- `LDS`, opcode 0x82 (R153). -/
  | lds (f : MF)
  /-- `STS`, opcode 0x83 (R153). -/
  | sts (f : MF)
  /-- `LDU`, opcode 0x84 (R154). -/
  | ldu (f : MF)
  /-- `ATOM`, opcode 0x85 (R155). -/
  | atom (k : AtomOp) (f : MF)
  /-- `RED`, opcode 0x86 (R155). -/
  | red (k : AtomOp) (f : MF)
  /-- `ATOMS`, opcode 0x87 (R155). -/
  | atoms (k : AtomOp) (f : MF)
  /-- `CAS`, opcode 0x88 (R157). -/
  | cas (f : MF)
  /-- `PREF`, opcode 0x89 (R158). -/
  | pref (k : PrefLevel) (f : MF)
  /-- `FENCE`, opcode 0x8a (R305). -/
  | fence (k : FenceKind) (f : MF)
  /-- `RACQ`, opcode 0x8b (R306). -/
  | racq (f : MF)
  /-- `MWAIT`, opcode 0x8c (R307). -/
  | mwait (k : Timed) (f : MF)
  /-- `SHFL`, opcode 0xa0 (R179). -/
  | shfl (k : ShflKind) (f : RRR)
  /-- `VOTE`, opcode 0xa1 (R180). -/
  | vote (k : VoteKind) (f : RRR)
  /-- `SCAN`, opcode 0xa2 (R181). -/
  | scan (k : ScanKind) (f : RRR)
  /-- `GRED`, opcode 0xa3 (R181). -/
  | gred (f : RRR)
  /-- `FMAXI`, opcode 0xa4 (R182). -/
  | fmaxi (f : RRR)
  /-- `FMINI`, opcode 0xa4 minor 1 (R182). -/
  | fmini (f : RRR)
  /-- `SAMPLE`, opcode 0xa5 (R183). -/
  | sample (f : RRR)
  /-- `MATCH`, opcode 0xa6 (R184). -/
  | matchLanes (k : MatchKind) (f : RRR)
  /-- `LSER`, opcode 0xa7 (R185). -/
  | lser (f : RRR)
  /-- `LSEND`, opcode 0xa8 (R185). -/
  | lsend (f : RRR)
  /-- `REHOME`, opcode 0xa9 (R187). -/
  | rehome (f : RRR)
  /-- `LFSRSET`, opcode 0xaa (R188). -/
  | lfsrset (f : RI)
  /-- `GJOIN`, opcode 0xab (R189). -/
  | gjoin (f : RRR)
  /-- `UMOV`, opcode 0xb0 (R196). -/
  | umov (f : RI)
  /-- `UADD`, opcode 0xb1 (R196). -/
  | uadd (f : RI)
  /-- `UMAD`, opcode 0xb2 (R196). -/
  | umad (f : RRR)
  /-- `ULOP3`, opcode 0xb3 (R196). -/
  | ulop3 (f : RRR)
  /-- `USHF`, opcode 0xb4 (R196). -/
  | ushf (f : RI)
  /-- `UCMP`, opcode 0xb5 (R196). -/
  | ucmp (f : RI)
  /-- `UOWN`, opcode 0xb6 (R194). -/
  | uown (f : RI)
  /-- `BAR_SYNC`, opcode 0xb7 minor 0 (R204). -/
  | barSync (f : RI)
  /-- `BAR_ARV`, opcode 0xb7 minor 1 (R204). -/
  | barArv (f : RI)
  /-- `BART`, opcode 0xb8 (R204). -/
  | bart (f : RI)
  /-- `ARRINIT`, opcode 0xb9 (R208). -/
  | arrinit (f : MF)
  /-- `ARRADD`, opcode 0xba (R208). -/
  | arradd (f : MF)
  /-- `ARRWAIT`, opcode 0xbb (R208). -/
  | arrwait (k : Timed) (f : MF)
  /-- `HQINIT`, opcode 0xbc (R211). -/
  | hqinit (f : RI)
  /-- `HQPUSH`, opcode 0xbd (R211). -/
  | hqpush (f : RRR)
  /-- `HQPOP`, opcode 0xbe (R211). -/
  | hqpop (f : RRR)
  /-- `HQALLOW`, opcode 0xbf (R211). -/
  | hqallow (f : RI)
  /-- `LQCFG`, opcode 0xc0 (R213). -/
  | lqcfg (f : RI)
  /-- `BANKMODE`, opcode 0xc1 (R202). -/
  | bankmode (f : RI)
  /-- `ACCALLOC`, opcode 0xc2 (R217). -/
  | accalloc (f : RI)
  /-- `ACCFREE`, opcode 0xc3 (R217). -/
  | accfree (f : RI)
  /-- `AECFG`, opcode 0xc4 (R215). -/
  | aecfg (f : MF)
  /-- `AEGO`, opcode 0xc5 (R215). -/
  | aego (f : RI)
  /-- `AESTOP`, opcode 0xc6 (R215). -/
  | aestop (f : RI)
  /-- `ROLE`, opcode 0xc7 (R201). -/
  | role (f : RI)
  /-- `TMAP`, opcode 0xd0 (R228). -/
  | tmap (f : RRR)
  /-- `TMAPF`, opcode 0xd1 (R228). -/
  | tmapf (f : RI)
  /-- `MQMA`, opcode 0xd2 (R230). -/
  | mqma (f : RRR)
  /-- `MQMAS`, opcode 0xd3 (R232). -/
  | mqmas (f : RRR)
  /-- `MZERO`, opcode 0xd4 (R233). -/
  | mzero (f : RI)
  /-- `MLOAD`, opcode 0xd5 (R235). -/
  | mload (f : MF)
  /-- `MDRAIN`, opcode 0xd6 (R237). -/
  | mdrain (f : MF)
  /-- `MDRAIN_ADD`, opcode 0xd6 minor 1 (R238). -/
  | mdrainAdd (f : MF)
  /-- `MWAITA`, opcode 0xd7 (R233). -/
  | mwaita (f : RI)
  /-- `ATTN`, opcode 0xd8 (R245). -/
  | attn (k : AttnMask) (f : RRR)
  /-- `ATTNF`, opcode 0xd9 (R250). -/
  | attnf (f : RI)
  /-- `HEAPRD`, opcode 0xda (R242). -/
  | heaprd (f : RI)
  /-- `HEAPRD_TOPK`, opcode 0xda minor 1 (R242). -/
  | heaprdTopk (f : RI)
  /-- `HEAPRD_TOPP`, opcode 0xda minor 2 (R242). -/
  | heaprdTopp (f : RI)
  /-- `HEAPCLR`, opcode 0xdb (R241). -/
  | heapclr (f : RI)
  /-- `COPY`, opcode 0xe0 (R265). -/
  | copy (k : CopyDims) (f : MF)
  /-- `GATHER`, opcode 0xe1 (R265). -/
  | gather (f : MF)
  /-- `COPYST`, opcode 0xe2 (R270). -/
  | copyst (f : MF)
  /-- `CBAR`, opcode 0xe3 (R273). -/
  | cbar (f : RI)
  /-- `TLBINV_PAGE`, opcode 0xe4 minor 0 (R259). -/
  | tlbinvPage (f : MF)
  /-- `TLBINV_ASID`, opcode 0xe4 minor 1 (R259). -/
  | tlbinvAsid (f : MF)
  /-- `TLBINV_ALL`, opcode 0xe4 minor 2 (R259). -/
  | tlbinvAll (f : MF)
  /-- `SLOGCTL_QUERY`, opcode 0xe5 minor 0 (R263). -/
  | slogctlQuery (f : RI)
  /-- `SLOGCTL_DRAIN`, opcode 0xe5 minor 1 (R263). -/
  | slogctlDrain (f : RI)
  /-- `DBAR`, opcode 0xe8 (R283). -/
  | dbar (f : RI)
  /-- `TKWAIT`, opcode 0xe9 (R330). -/
  | tkwait (f : RI)
  /-- `TKCOMMIT`, opcode 0xea (R331). -/
  | tkcommit (f : RI)
  /-- `LNCH`, opcode 0xeb (R380). -/
  | lnch (f : MF)
  /-- `LNCH_LAST`, opcode 0xeb minor 1 (R381). -/
  | lnchLast (f : MF)
  /-- `GRIDBAR`, opcode 0xec (R379). -/
  | gridbar (f : RI)
  /-- `DSCALE`, opcode 0xed (R329). -/
  | dscale (f : RI)
  /-- `TTFORK`, opcode 0xf0 (R351). -/
  | ttfork (f : RRR)
  /-- `TTAPPEND`, opcode 0xf1 (R352). -/
  | ttappend (f : RRR)
  /-- `TTPRUNE`, opcode 0xf2 (R353). -/
  | ttprune (f : RRR)
  /-- `TTCOMMIT`, opcode 0xf3 (R354). -/
  | ttcommit (f : RRR)
  /-- `TTWALK`, opcode 0xf4 (R357). -/
  | ttwalk (f : RRR)
  /-- `TTREF_ATTACH`, opcode 0xf5 minor 0 (R355). -/
  | ttrefAttach (f : RRR)
  /-- `TTREF_DETACH`, opcode 0xf5 minor 1 (R355). -/
  | ttrefDetach (f : RRR)
  /-- `TTREF_PIN`, opcode 0xf5 minor 2 (R355). -/
  | ttrefPin (f : RRR)
  /-- `TTREF_UNPIN`, opcode 0xf5 minor 3 (R355). -/
  | ttrefUnpin (f : RRR)
  /-- `TTREF_EVICT`, opcode 0xf5 minor 4 (R355). -/
  | ttrefEvict (f : RRR)
  /-- `TTQUERY_FREE`, opcode 0xf6 minor 0 (R356). -/
  | ttqueryFree (f : RRR)
  /-- `TTQUERY_RESERVE`, opcode 0xf6 minor 1 (R356). -/
  | ttqueryReserve (f : RRR)
  /-- `TTQUERY_STATE`, opcode 0xf6 minor 2 (R356). -/
  | ttqueryState (f : RRR)
  /-- `DETOK`, opcode 0xf7 (R363). -/
  | detok (f : RRR)
  /-- `TOKSTEP`, opcode 0xf8 (R364). -/
  | tokstep (f : RRR)
  /-- `XFPUT`, opcode 0xf9 (R403). -/
  | xfput (f : MF)
  /-- `XFGET`, opcode 0xfa (R403). -/
  | xfget (f : MF)
  /-- `XFWORK`, opcode 0xfb (R403). -/
  | xfwork (f : MF)
  /-- `XFRED`, opcode 0xfc (R407). -/
  | xfred (f : MF)
  /-- `XFSRED`, opcode 0xfd (R408). -/
  | xfsred (f : MF)
  /-- `XFFENCE`, opcode 0xfe (R404). -/
  | xffence (f : RI)
  /-- `LOAD_COMPLETION`: Entry `k` of the group's access queue, a load, performs and returns its data (R161). -/
  | loadCompletion (g : GroupRef) (k : Nat)
  /-- `ACCESS_RETIREMENT`: Entry `k` of the group's access queue performs and retires (R161). -/
  | accessRetirement (g : GroupRef) (k : Nat)
  /-- `TRAP_ENTRY`: The group takes its lowest pending trap cause at an instruction boundary (R100, R218). -/
  | trapEntry (g : GroupRef)
  /-- `BARRIER_TIMEOUT`: The team's timeout has passed since the first arrival of an incomplete phase (R206). -/
  | barrierTimeout (w : WaitRef)
  /-- `ARRWAIT_TIMEOUT`: An untimed ARRWAIT has waited BARTMO.CLK clk (R208). -/
  | arrwaitTimeout (g : GroupRef)
  /-- `BART_TIMEOUT`: A timed barrier wait of one thread expires (R204). -/
  | bartTimeout (g : GroupRef) (lane : Nat)
  /-- `GROUP_WAIT_TIMEOUT`: The timeout of a timed group wait expires (R209). -/
  | groupWaitTimeout (g : GroupRef)
  /-- `HQ_WAIT_TIMEOUT`: A hardware-queue wait passes the barrier timeout (R211). -/
  | hqWaitTimeout (g : GroupRef)
  /-- `ACCALLOC_TIMEOUT`: A waiting accumulator request expires (R217). -/
  | accallocTimeout (g : GroupRef)
  /-- `AE_STREAM_ELEMENT`: The team's address engine fetches the next element of its stream (R216). -/
  | aeStreamElement (t : TeamRef)
  /-- `QUARTER_OP_START`: The matrix engine starts the team's next quarter operation (R231). -/
  | quarterOpStart (t : TeamRef)
  /-- `TILE_TRANSFER_START`: The matrix engine starts the team's next tile transfer (R234). -/
  | tileTransferStart (t : TeamRef)
  /-- `ENGINE_OP_COMPLETION`: The oldest running engine operation of the team completes (R225, R231). -/
  | engineOpCompletion (t : TeamRef)
  /-- `ENGINE_FAULT`: An engine operation of the team meets a fault (R224). -/
  | engineFault (t : TeamRef)
  /-- `ATTN_COMPLETION`: The team's running attention operation completes (R246). -/
  | attnCompletion (t : TeamRef)
  /-- `MATRIX_BUDGET_PERIOD`: A matrix budget period of the core begins (R243). -/
  | matrixBudgetPeriod (core : Nat)
  /-- `COPY_OP_START`: The cluster's copy engine starts a queued operation (R265). -/
  | copyOpStart (c : ClusterRef) (k : Nat)
  /-- `COPY_COMPLETION`: A started copy operation completes (R269). -/
  | copyCompletion (c : ClusterRef) (k : Nat)
  /-- `COPY_FAULT`: A started copy operation meets a fault (R271). -/
  | copyFault (c : ClusterRef) (k : Nat)
  /-- `SIDE_LOG_RETRY_PASS`: The cluster's side log retries its entries in order (R261). -/
  | sideLogRetryPass (c : ClusterRef)
  /-- `TEAM_PLACEMENT`: The dispatcher places the grid's next team on a core (R279). -/
  | teamPlacement (grid : Nat) (core : Nat)
  /-- `TEAM_SLOT_RELEASE`: A finished team's slot and banks are released (R222). -/
  | teamSlotRelease (t : TeamRef)
  /-- `WAITING_OP_PERFORM`: A waiting operation of the head ticket's team performs (R317). -/
  | waitingOpPerform (g : GroupRef)
  /-- `COMMIT_DRAIN_ENTRY`: The head's share performs its oldest commit-buffer entry (R319). -/
  | commitDrainEntry (t : TeamRef)
  /-- `MILLINER_REQUEST`: The Milliner performs a queued request of the group (R346). -/
  | millinerRequest (g : GroupRef) (k : Nat)
  /-- `PRUNE_PAGE_RETURN`: The pages of pruned nodes return to the pool (R359). -/
  | prunePageReturn (part pool : Nat)
  /-- `CANCEL_DELIVERY`: CANCEL becomes pending in a team whose branch was pruned (R360). -/
  | cancelDelivery (t : TeamRef)
  /-- `ENQUEUE_DOORBELL`: The host enqueues a work record through the enqueue window (R395). -/
  | enqueueDoorbell (part queue : Nat) (words : List DWord)
  /-- `RECORD_START`: The launch engine starts the record at a queue's head (R372). -/
  | recordStart (part queue : Nat)
  /-- `GRID_COMPLETION`: A grid completes and writes its completion record (R377). -/
  | gridCompletion (grid : Nat)
  /-- `GRAPH_NODE_ACTIVATION`: A graph node whose predecessors completed is activated (R383). -/
  | graphNodeActivation (part run node : Nat)
  /-- `GRAPH_NODE_COMPLETION`: A graph node completes (R385). -/
  | graphNodeCompletion (part run node : Nat)
  /-- `CTXCTL_SAVE`: System software writes CTXCTL SAVE (R388). -/
  | ctxctlSave (part : Nat) (addr : DWord)
  /-- `CONTEXT_WRITE`: The package writes a saved context's area (R389). -/
  | contextWrite (part : Nat)
  /-- `CTXCTL_RESTORE`: System software writes CTXCTL RESTORE (R390). -/
  | ctxctlRestore (part : Nat) (addr : DWord)
  /-- `RESTORE_CORE_RELEASE`: A restored core's groups are released to run (R390). -/
  | restoreCoreRelease (part core : Nat)
  /-- `CTXCTL_KILL`: System software writes CTXCTL KILL (R388). -/
  | ctxctlKill (part : Nat)
  /-- `PARTCTL_APPLY`: System software applies a cluster map (R367). -/
  | partctlApply (part : Nat) (addr : DWord)
  /-- `PARTCTL_CLEAR`: System software clears a partition's cluster map (R367). -/
  | partctlClear (part : Nat)
  /-- `POOLCTL_CREATE`: System software creates a KV pool (R336). -/
  | poolctlCreate (part pool : Nat)
  /-- `POOLCTL_DESTROY`: System software destroys a KV pool (R336). -/
  | poolctlDestroy (part pool : Nat)
  /-- `POOLCTL_RESERVE`: System software sets a pool's reserve (R336). -/
  | poolctlReserve (part pool val : Nat)
  /-- `PRESP_WRITE`: The host writes PRESP (R396). -/
  | prespWrite (v : DWord)
  /-- `HINV_WRITE`: The host writes HINV (R396). -/
  | hinvWrite (v : DWord)
  /-- `HOST_REGISTER_WRITE`: The host writes a BAR0 register (R397). -/
  | hostRegisterWrite (off : Nat) (v : DWord)
  /-- `FABRIC_MESSAGE_RECEIVE`: The oldest message that arrived on a port is checked and performed (R405). -/
  | fabricMessageReceive (port : Nat)
  /-- `XFRED_RESEND`: A deferred collective chunk is sent again (R407). -/
  | xfredResend (port : Nat) (k : Nat)
  /-- `FABRIC_CMPL_RECEIVE`: A completion message arrives (R403). -/
  | fabricCmplReceive (tag : Nat) (status : Nat)
  /-- `FABRIC_CMPL_TIMEOUT`: No completion arrived in time (R405). -/
  | fabricCmplTimeout (tag : Nat)
  /-- `FLIT_CRC_FAILURE`: A flit fails its CRC (R399, R414). -/
  | flitCrcFailure (port : Nat)
  /-- `FXCFG_TRAIN`: System software trains a port (R399). -/
  | fxcfgTrain (port : Nat)
  /-- `SNP_INV`: The host snoops a line for ownership (R393). -/
  | snpInv (line : Nat)
  /-- `SNP_DATA`: The host snoops a line for shared data (R393). -/
  | snpData (line : Nat)
  /-- `SNP_CUR`: The host snoops a line's current value (R393). -/
  | snpCur (line : Nat)
  /-- `GO`: The host answers a device request with a state and data (R392). -/
  | go (line : Nat) (st : Mesi) (data : List Byte)
  /-- `GO_WRITEPULL`: The host pulls an evicted dirty line (R393). -/
  | goWritepull (line : Nat)
  /-- `WRITEPULL`: The host pulls a device write (R392). -/
  | writepull (line : Nat)
  /-- `CXL_MEM_REQUEST`: The host reads or writes device memory (R394). -/
  | cxlMemRequest (req : CxlReq)
  /-- `BISNP_RESPONSE`: The host answers a back-invalidate snoop (R394). -/
  | bisnpResponse (line : Nat) (dirty : Bool) (data : List Byte)
  /-- `POWER_ON`: The boot ROM verifies and loads the firmware (R410). -/
  | powerOn
  /-- `MAILBOX_UPDATE`: The host starts a firmware update (R411). -/
  | mailboxUpdate (addr len : Nat)
  /-- `MAILBOX_UPDATE_END`: A firmware update finishes (R411). -/
  | mailboxUpdateEnd
  /-- `MAILBOX_RESET`: The host resets the package (R411). -/
  | mailboxReset
  /-- `MAILBOX_ABORT`: The host aborts a running update (R411). -/
  | mailboxAbort
  /-- `ATTESTATION_REQUEST`: The host asks for an attestation report (R413). -/
  | attestationRequest (nonce : List Byte)
  /-- `UNCORRECTABLE_ERROR`: A detected uncorrectable error (R414). -/
  | uncorrectableError (scope : ErrScope)
  /-- `WATCHDOG_EXPIRY`: A partition's watchdog expires (R414). -/
  | watchdogExpiry (part : Nat)
  /-- `ACTIVITY_BUDGET_PERIOD`: An activity-budget period begins (R415). -/
  | activityBudgetPeriod
  /-- `THERMAL_THRESHOLD`: A die passes a thermal threshold (R418). -/
  | thermalThreshold (die : Nat)
  /-- `DIE_OVERTEMP_CUTOFF`: A die is cut off by temperature (R418). -/
  | dieOvertempCutoff (die : Nat)
  /-- `DIRTY_L1_LINE_WRITEBACK`: A dirty L1 line is written back (R289). -/
  | dirtyL1LineWriteback (core : Nat) (k : Nat)
  /-- `SCRUB`: The scrubber visits a memory word (R414). -/
  | scrub (addr : Nat)
  /-- `POWER_LOSS`: Power is lost (R411). -/
  | powerLoss
  /-- `FABRIC_PORT_UP`: A fabric port comes up (R398). -/
  | fabricPortUp (port : Nat)
  /-- `PRQTAIL_WRITE`: The host advances the page-request ring (R396). -/
  | prqtailWrite (v : DWord)
  /-- `BUDGET_LOWERING`: The package budget is lowered (R418). -/
  | budgetLowering (milliwatts : Nat)
  deriving DecidableEq, Repr

end Sys2Proof
end

