-- ==== Sys2Proof/Machine/Forms.lean ====
section
/-! DEFINITION. The operand form of each instruction, from the operand rules R59 to R64, R107, R108 and the entry of each instruction,
and its row of the opcode map: opcode, minor opcode, pipe, privilege (R90 to R96). -/

namespace Sys2Proof

/-- Bits [lo + w − 1 : lo] of a modifier field (R105). -/
def modBits {n : Nat} (m : BitVec n) (lo w : Nat) : Nat := (m.toNat >>> lo) % 2 ^ w

/-- Whether every set modifier bit is assigned by `mask` (R59, R105). -/
def modIn {n : Nat} (m : BitVec n) (mask : Nat) : Bool := m.toNat &&& mask == m.toNat

/-- The type in MOD[4:0] (R106); codes without a type read as none and are refused by `tyIs`. -/
def modTy {n : Nat} (m : BitVec n) : Ty := (Ty.ofCode (modBits m 0 5)).getD .none
/-- The source type in MOD[9:5] (R106). -/
def modSty {n : Nat} (m : BitVec n) : Ty := (Ty.ofCode (modBits m 5 5)).getD .none
/-- The type in MOD[4:0] is one of those listed (R106). -/
def tyIs {n : Nat} (m : BitVec n) (l : List Ty) : Bool :=
  match Ty.ofCode (modBits m 0 5) with
  | some t => l.contains t
  | none => false
@[inherit_doc tyIs] def styIs {n : Nat} (m : BitVec n) (l : List Ty) : Bool :=
  match Ty.ofCode (modBits m 5 5) with
  | some t => l.contains t
  | none => false

/-- R37: a rounding code in MOD[lo + 2 : lo] names a mode. -/
def rmOk {n : Nat} (m : BitVec n) (lo : Nat) : Bool := decide (modBits m lo 3 < 5)

/-- How an instruction reads a source field: the width, and the levels its entry admits. -/
inductive SrcKind where
  /-- must be zero (R59) -/
  | unused
  /-- 32 bits from any level (R60 to R64) -/
  | w32
  /-- 64 bits: an even pair, a latch, a uniform register, a 64-bit constant or zero (R64) -/
  | w64
  /-- four file registers (R108) -/
  | quad
  /-- four file registers without the dead bit, because they are also written (R132) -/
  | quadKeep
  /-- an even file pair only (R157) -/
  | pair
  /-- a program-counter value: a file pair, a latch or a uniform register (R137) -/
  | target
  /-- a uniform register, 64 bits (R138, R194) -/
  | uni
  /-- a uniform register or zero, 64 bits (R150) -/
  | uniZero
  /-- a 64-bit address: a file pair, a latch, a uniform register or zero (R150) -/
  | addr
  /-- a 32-bit scratchpad address: a file register, a Cuff slot, a latch, a uniform register or zero (R150) -/
  | addr32
  /-- an index: a file register, a Cuff slot or a latch (R150) -/
  | index
  /-- 64-bit store data: a pair, a latch, a uniform register or k48 to k63 (R152) -/
  | data64
  /-- a 64-bit uniform operand: a uniform register, a constant of either width, or zero (R196) -/
  | uop
  /-- the metadata of MQMAS, whose width its maps decide (R232) -/
  | sparse
  /-- an even uniform register that names a pair (R234) -/
  | uniEven
  deriving DecidableEq, Repr

/-- The number of bits a source kind reads. -/
def SrcKind.width : SrcKind → Nat
  | .unused => 0
  | .w32 | .addr32 | .index | .sparse => 32
  | .quad | .quadKeep | .uniEven => 128
  | .w64 | .pair | .target | .uni | .uniZero | .addr | .data64 | .uop => 64

def Src.isFile : Src → Bool
  | .file .. => true
  | _ => false

def Src.isUni : Src → Bool
  | .uni _ => true
  | _ => false

def Src.isBrim : Src → Bool
  | .brim .. => true
  | _ => false

def Src.isCuff : Src → Bool
  | .cuff .. => true
  | _ => false

/-- An even file register, which names a pair (R64). -/
def Src.isPair : Src → Bool
  | .file n _ _ => n.toNat % 2 == 0
  | _ => false

/-- A file register whose number is a multiple of four (R108). -/
def Src.isQuad : Src → Bool
  | .file n _ _ => n.toNat % 4 == 0
  | _ => false

/-- A 32-bit read of any level; the constants k48 to k63 are 64-bit only (R64). -/
def Src.ok32 : Src → Bool
  | .const k => decide (k.toNat < 48)
  | _ => true

/-- A 64-bit read (R64): a Cuff slot and an odd register are refused, and k0 to k47 are 32-bit only. A loop queue is refused too:
R64 does not say what 64 bits it would give (DESIGN CHOICE, log entry 112). -/
def Src.ok64 : Src → Bool
  | .file n _ _ => n.toNat % 2 == 0
  | .cuff .. => false
  | .const k => decide (48 ≤ k.toNat)
  | .loopq .. => false
  | _ => true

/-- The levels a source kind admits. -/
def SrcKind.admits (k : SrcKind) (s : Src) : Bool :=
  match k with
  | .unused => s == .unused
  | .w32 => s.ok32
  | .w64 => s.ok64
  | .quad => s.isQuad
  | .quadKeep => match s with
    | .file n _ d => n.toNat % 4 == 0 && !d
    | _ => false
  | .pair => s.isPair
  | .target => s.isPair || s.isBrim || s.isUni
  | .uni => s.isUni
  | .uniZero => s.isUni || s == .zero
  | .addr => s.isPair || s.isBrim || s.isUni || s == .zero
  | .addr32 => s.isFile || s.isCuff || s.isBrim || s.isUni || s == .zero
  | .index => s.isFile || s.isCuff || s.isBrim
  | .data64 => match s with
    | .const c => decide (48 ≤ c.toNat)
    | s => s.isPair || s.isBrim || s.isUni
  | .sparse => s.ok32
  | .uniEven => match s with
    | .uni n => n.toNat % 2 == 0
    | _ => false
  | .uop => match s with
    | .uni _ => true
    | .const _ => true
    | .zero => true
    | _ => false

/-- What an instruction writes through its destination field. -/
inductive DstKind where
  /-- must be zero (R59) -/
  | unused
  /-- one register, Cuff slot or the latch (R63) -/
  | v32
  /-- an even pair or the latch (R64) -/
  | v64
  /-- a quad (R108) -/
  | quad
  /-- a file register without Cuff slot (R139, R155) -/
  | reg
  /-- a file pair (R155) -/
  | regPair
  /-- a file quad (R345) -/
  | regQuad
  /-- a predicate (R107) -/
  | pred
  /-- a uniform register (R154, R196) -/
  | uni
  deriving DecidableEq, Repr

/-- R63: DST.INDEX is zero with NF, DST.CSLOT is zero without CW. -/
def Dst.base (d : Dst) : Bool := (!d.nf || d.index == 0) && (d.cw || d.cslot == 0)

/-- The destination encodings a kind admits. -/
def DstKind.admits (k : DstKind) (d : Dst) : Bool :=
  match k with
  | .unused => d == .unused
  | .v32 => d.base
  | .v64 => d.base && !d.cw && d.index.toNat % 2 == 0
  | .quad => d.base && !d.cw && d.index.toNat % 4 == 0
  | .reg => !d.nf && !d.cw && d.cslot == 0
  | .regPair => !d.nf && !d.cw && d.cslot == 0 && d.index.toNat % 2 == 0
  | .regQuad => !d.nf && !d.cw && d.cslot == 0 && d.index.toNat % 4 == 0
  | .pred => d.nf && !d.cw && d.cslot == 0 && decide (d.index.toNat < 8)
  | .uni => d.nf && !d.cw && d.cslot == 0 && decide (d.index.toNat < 64)

/-- The file registers a destination field names. -/
def DstKind.regs (k : DstKind) (d : Dst) : Nat :=
  if d.nf then 0 else
  match k with
  | .v32 | .reg => 1
  | .v64 | .regPair => 2
  | .quad | .regQuad => 4
  | _ => 0

/-- The operands of an instruction: each source field with its kind, the destination field with its kind, and whether the
entry's own constraints on MOD, IMM and fields hold. -/
structure Shape where
  pred : Pred
  sa : Src
  ka : SrcKind
  sb : Src
  kb : SrcKind
  sc : Src
  kc : SrcKind
  dst : Dst
  kd : DstKind
  ok : Bool
  deriving DecidableEq, Repr

/-- The three sources in the order SA, SB, SC. -/
def Shape.srcs (h : Shape) : List (Src × SrcKind) := [(h.sa, h.ka), (h.sb, h.kb), (h.sc, h.kc)]

def RRR.shape (f : RRR) (ka kb kc : SrcKind) (kd : DstKind) (ok : Bool) : Shape :=
  ⟨f.pred, f.sa, ka, f.sb, kb, f.sc, kc, f.dst, kd, ok⟩
def RI.shape (f : RI) (ka kb : SrcKind) (kd : DstKind) (ok : Bool) : Shape :=
  ⟨f.pred, f.sa, ka, f.sb, kb, .unused, .unused, f.dst, kd, ok⟩
def MF.shape (f : MF) (ka kb : SrcKind) (kd : DstKind) (ok : Bool) : Shape :=
  ⟨f.pred, f.sa, ka, f.sb, kb, .unused, .unused, f.dst, kd, ok⟩
def BF.shape (f : BF) (ka : SrcKind) (kd : DstKind) (ok : Bool) : Shape :=
  ⟨f.pred, f.sa, ka, .unused, .unused, .unused, .unused, f.dst, kd, ok⟩

/-- A PRED of "always" or "never" (R56), as some entries require. -/
def Pred.fixed (p : Pred) : Bool := p.num == 7

/-- "Always" and "never" (R56). -/
def Pred.always (p : Pred) : Bool := p.num == 7 && !p.neg
@[inherit_doc Pred.always] def Pred.never (p : Pred) : Bool := p.num == 7 && p.neg

/-- A 32-bit or 64-bit operand by type. -/
def tyWide : Ty → Bool
  | .i64 | .n64 | .f64 => true
  | _ => false
def srcBy (wide : Bool) : SrcKind := if wide then .w64 else .w32
def dstBy (wide : Bool) : DstKind := if wide then .v64 else .v32

/-- The combine fields of R107: CP must be zero with COMB 0. -/
def combOk {n : Nat} (m : BitVec n) : Bool := modBits m 5 2 != 0 || modBits m 7 4 == 0

/-- The floating types of R117. -/
def fpTypes : List Ty := [.f64, .f32, .f16, .bf16, .f16x2, .bf16x2]
def fpScalar : List Ty := [.f64, .f32, .f16, .bf16]

/-- Bits of a code of a type (R106, R27, R28). -/
def Ty.bits : Ty → Nat
  | .i8 | .n8 | .e5m2 | .e4m3 => 8
  | .i16 | .n16 | .f16 | .bf16 => 16
  | .i64 | .n64 | .f64 => 64
  | .e3m2 => 6
  | .e2m1 => 4
  | _ => 32

def Ty.isFloat : Ty → Bool
  | .f64 | .f32 | .f16 | .bf16 | .e5m2 | .e4m3 | .e3m2 | .e2m1 => true
  | _ => false

def Ty.isInt : Ty → Bool
  | .i8 | .i16 | .i32 | .i64 | .n8 | .n16 | .n32 | .n64 => true
  | _ => false

def Ty.isSigned : Ty → Bool
  | .i8 | .i16 | .i32 | .i64 => true
  | _ => false

def Ty.isBx : Ty → Bool
  | .x4e2 | .x4e4 | .x4i8 => true
  | _ => false

/-- The number of positions a code of a type has in a lane (R128). -/
def Ty.positions (t : Ty) : Nat :=
  match t.bits with
  | 4 => 8
  | 6 => 4
  | 8 => 4
  | 16 => 2
  | _ => 1

/-- The type pairs of CVT and CVTI, and where `.SAT` is admitted (R128). -/
def cvtOk {n : Nat} (m : BitVec n) : Bool :=
  let dt := modTy m
  let st := modSty m
  (dt.isFloat || dt.isInt) && (st.isFloat || st.isInt) && (dt.isFloat || st.isFloat)
    && modBits m 14 3 < dt.positions && modBits m 17 3 < st.positions && rmOk m 10
    && (!m.toNat.testBit 13 || dt.isFloat)
@[inherit_doc cvtOk] def cvtiOk {n : Nat} (m : BitVec n) : Bool :=
  let dt := modTy m
  let st := modSty m
  dt.isInt && st.isInt && modBits m 14 3 < dt.positions && modBits m 17 3 < st.positions
    && (!m.toNat.testBit 13 || dt.bits < st.bits || (dt.isSigned != st.isSigned))

/-- The type pairs of CVTSR (R129). -/
def cvtsrOk {n : Nat} (m : BitVec n) : Bool :=
  ((modSty m == .f32 && [Ty.f16, .bf16, .e5m2, .e4m3, .e3m2, .e2m1].contains (modTy m))
    || (modSty m == .f64 && modTy m == .f32)) && modBits m 14 3 < (modTy m).positions

/-- A field of `n` consecutive file registers and another overlap (R108). -/
def runsMeet (a n b m : Nat) : Bool := decide (a < b + m) && decide (b < a + n)

/-- The file run a source field names, if it is wider than one register. -/
def srcRun (s : Src) (k : SrcKind) : Option (Nat × Nat) :=
  match s with
  | .file n _ _ => if 64 ≤ k.width then some (n.toNat, k.width / 32) else none
  | _ => none

/-- R108: no quad overlaps another quad or pair of the instruction; `skipD` exempts the destination of RNGSKIP where it
equals A (R133). -/
def Shape.quadsApart (h : Shape) (skipD : Bool) : Bool :=
  let d : List (Nat × Nat) :=
    if 2 ≤ h.kd.regs h.dst && !skipD then [(h.dst.index.toNat, h.kd.regs h.dst)] else []
  let runs := d ++ h.srcs.filterMap fun x => srcRun x.1 x.2
  (runs.zipIdx).all fun (r, i) => (runs.drop (i + 1)).all fun q =>
    !((r.2 == 4 || q.2 == 4) && runsMeet r.1 r.2 q.1 q.2)

/-- MOD of the memory instructions (R149). -/
structure MemMod where
  width : Nat
  sgn : Bool
  ord : Nat
  cpol : Nat
  scale : Nat
  idx : Bool
  deriving DecidableEq, Repr

def memMod (m : BitVec 11) : MemMod :=
  ⟨modBits m 0 3, m.toNat.testBit 3, modBits m 4 2, modBits m 6 2, modBits m 8 2, m.toNat.testBit 10⟩

/-- Index fields are zero without an index (R149). -/
def MemMod.idxOk (m : MemMod) : Bool := m.idx || m.scale == 0

/-- A load destination: register, pair or quad by width (R152). A load that names no file register is admitted with a latch alone
(DESIGN CHOICE, log entry 118). -/
def loadDst (w : Nat) : DstKind := if w == 4 then .quad else if w == 3 then .v64 else .v32
/-- Store data by width (R152), and the value of ATOM, RED and ATOMS, which the model takes from the same levels (DESIGN CHOICE, log
entry 133). -/
def storeSrc (w : Nat) : SrcKind := if w == 4 then .quad else if w == 3 then .data64 else .w32

/-- The types of a load (R152): SGN only on 8 and 16 bits. -/
def loadTyOk (m : MemMod) : Bool := decide (m.width < 5) && (!m.sgn || decide (m.width < 2))
/-- The types of a store (R152). -/
def storeTyOk (m : MemMod) : Bool := decide (m.width < 5) && !m.sgn
/-- The types of an atomic (R152): .F32 and .F64 have SGN 0. -/
def atomTyOk (op : AtomOp) (m : MemMod) : Bool :=
  (m.width == 2 || m.width == 3) && !m.idx && m.scale == 0 && m.cpol == 0 && (op != .fadd || !m.sgn)
/-- Ordered accesses only on 32 and 64 bits (R152; DEDUCED, log entry 11). -/
def scOk (m : MemMod) : Bool := m.ord == 0 || m.width == 2 || m.width == 3

/-- The control registers by number, with their widths (R147); none for a number that names no register. -/
def csrWidth (n : Nat) : Option Nat :=
  if n = 0x010 ∨ n = 0x011 ∨ n = 0x020 ∨ n = 0x021 ∨ (0x030 ≤ n ∧ n ≤ 0x03f) ∨ n = 0x111 ∨ n = 0x133 then some 32
  else if n = 0x100 ∨ n = 0x110 ∨ n = 0x120 ∨ (0x130 ≤ n ∧ n ≤ 0x135) ∨ n = 0x140 ∨ n = 0x150 ∨ n = 0x160
    ∨ (0x170 ≤ n ∧ n ≤ 0x172) ∨ (0x180 ≤ n ∧ n ≤ 0x198) ∨ (0x1a0 ≤ n ∧ n ≤ 0x1a6) ∨ (0x1b0 ≤ n ∧ n ≤ 0x1b2)
    ∨ (0x1b8 ≤ n ∧ n ≤ 0x1ba) ∨ (0x1c0 ≤ n ∧ n ≤ 0x1c4) then some 64
  else none

/-- The numbers of the special registers of R116. -/
def specialRegs : List Nat :=
  [0x00, 0x01, 0x02, 0x03, 0x04, 0x05, 0x08, 0x09, 0x0a, 0x0c, 0x0d, 0x0e, 0x10, 0x11, 0x12, 0x13, 0x14, 0x18, 0x19, 0x20]

/-- No type suffix and no modifier. -/
def untyped {n : Nat} (m : BitVec n) : Bool := m == 0

/-- The operation, rounding and saturation fields of SCAN and GRED (R181). -/
def scanOk {n : Nat} (m : BitVec n) : Bool :=
  let op := modBits m 5 3
  let t := modTy m
  let int := tyIs m [.i32, .n32, .i64, .n64]
  let fp := tyIs m [.f32, .f64]
  let rm := modBits m 8 3
  let sat := m.toNat.testBit 11
  (int && decide (op < 6) && rm == 0 && (!sat || op == 0))
    || (fp && decide (op < 3) && !sat && (if op == 0 then decide (rm < 5) else rm == 0) && t.isFloat)

/-- The types of the uniform instructions (R196). -/
def uniTy {n : Nat} (m : BitVec n) : Bool := tyIs m [.i32, .n32, .i64, .n64]

/-- A constant source of a uniform instruction has the width of its type (R64, R196). -/
def uopWidth {n : Nat} (m : BitVec n) (s : Src) : Bool :=
  match s with
  | .const k => if tyWide (modTy m) then decide (48 ≤ k.toNat) else decide (k.toNat < 48)
  | _ => true

/-- The width of a map field by its TMAPF code (R227, R228). -/
def mapFieldBits : Nat → Nat
  | 0 => 20 | 1 => 5 | 2 => 3 | 3 => 1 | 4 => 8 | 5 => 8 | 6 => 32 | 7 => 32 | 8 => 20 | 9 => 1 | _ => 0

/-- FIRST, COUNT − 1 of MZERO and MWAITA (R233). -/
def tileRangeOk (imm : Word) : Bool :=
  decide (imm.toNat < 4096) && decide (modBits imm 0 6 + modBits imm 6 6 + 1 ≤ 64)

/-- The shape of an event, which has no operand fields. -/
def Shape.event : Shape := ⟨⟨false, 7⟩, .unused, .unused, .unused, .unused, .unused, .unused, .unused, .unused, true⟩

/-- The operand shape of each instruction, from its entry. Merge operand B of CVT and CVTI is an operand at every width of DT, a pair at
64 bits (R128; DESIGN CHOICE, log entry 115); the destination of CSRR may be a Cuff slot or a latch alone (R147; DESIGN CHOICE, log
entry 117). LDU admits the orders of R152's table alone, .SC not among them (DEDUCED, log entry 132). -/
def Instr.shape (i : Instr) : Shape :=
  match i with
  | .nop f => f.shape .unused .unused .unused .unused (untyped f.mod)
  | .iadd f => f.shape .w32 .w32 .unused .v32 (tyIs f.mod [.i32, .n32] && modIn f.mod 0x3f)
  | .iaddi f => f.shape .w32 .unused .v32 (tyIs f.mod [.i32, .n32] && modIn f.mod 0x3f)
  | .isub f => f.shape .w32 .w32 .unused .v32 (tyIs f.mod [.i32, .n32] && modIn f.mod 0x3f)
  | .imul f => f.shape .w32 .w32 .unused .v32 (tyIs f.mod [.i32, .n32] && modIn f.mod 0x3f)
  | .imulh f => f.shape .w32 .w32 .unused .v32 (tyIs f.mod [.i32, .n32] && modIn f.mod 0x1f)
  | .imad f => f.shape .w32 .w32 .w32 .v32 (tyIs f.mod [.i32, .n32] && modIn f.mod 0x3f)
  | .idiv f => f.shape .w32 .w32 .unused .v32 (tyIs f.mod [.i32, .n32] && modIn f.mod 0x3f)
  | .imin f => f.shape .w32 .w32 .unused .v32 (tyIs f.mod [.i32, .n32] && modIn f.mod 0x1f)
  | .imax f => f.shape .w32 .w32 .unused .v32 (tyIs f.mod [.i32, .n32] && modIn f.mod 0x1f)
  | .iabs f => f.shape .w32 .unused .unused .v32 (tyIs f.mod [.i32] && modIn f.mod 0x3f)
  | .icmp _ f => f.shape .w32 .w32 .unused .pred (tyIs f.mod [.i32, .n32] && modIn f.mod 0x7ff && combOk f.mod)
  | .icmpi _ f => f.shape .w32 .unused .pred (tyIs f.mod [.i32, .n32] && combOk f.mod)
  | .lop3 f => f.shape .w32 .w32 .w32 .v32 (modIn f.mod 0xff)
  | .lopi f => f.shape .w32 .w32 .v32 (modIn f.mod 0xff)
  | .shf _ f => f.shape (srcBy (tyWide (modTy f.mod))) .w32 .unused (dstBy (tyWide (modTy f.mod)))
      (tyIs f.mod [.n32, .n64] && modIn f.mod 0x1f)
  | .shfi _ f => f.shape (srcBy (tyWide (modTy f.mod))) .unused (dstBy (tyWide (modTy f.mod)))
      (tyIs f.mod [.n32, .n64] && modIn f.mod 0x1f && decide (f.imm.toNat < 128))
  | .bfe f => f.shape .w32 .w32 .unused .v32 (tyIs f.mod [.i32, .n32] && modIn f.mod 0x1f)
  | .bfi f => f.shape .w32 .w32 .w32 .v32 (untyped f.mod)
  | .popc f => f.shape (srcBy (tyWide (modTy f.mod))) .unused .unused .v32 (tyIs f.mod [.n32, .n64] && modIn f.mod 0x1f)
  | .clz f => f.shape (srcBy (tyWide (modTy f.mod))) .unused .unused .v32 (tyIs f.mod [.n32, .n64] && modIn f.mod 0x1f)
  | .brev f => f.shape (srcBy (tyWide (modTy f.mod))) .unused .unused (dstBy (tyWide (modTy f.mod)))
      (tyIs f.mod [.n32, .n64] && modIn f.mod 0x1f)
  | .sel f => f.shape (srcBy (tyWide (modTy f.mod))) (srcBy (tyWide (modTy f.mod))) .unused
      (dstBy (tyWide (modTy f.mod))) (tyIs f.mod [.n32, .n64] && modIn f.mod 0x1ff)
  | .mov f => f.shape (srcBy (tyWide (modTy f.mod))) .unused .unused (dstBy (tyWide (modTy f.mod)))
      (tyIs f.mod [.none, .n64] && modIn f.mod 0x1f)
  | .movi f => f.shape .unused .unused (dstBy (tyWide (modTy f.mod)))
      (tyIs f.mod [.i32, .n32, .i64, .n64] && modIn f.mod 0x1f)
  | .movsr f => f.shape .unused .unused (dstBy (f.imm == 0x20))
      (untyped f.mod && specialRegs.contains f.imm.toNat)
  | .add64 f => f.shape .w64 .w64 .unused .v64 (tyIs f.mod [.i64, .n64] && modIn f.mod 0x1f)
  | .add64i f => f.shape .w64 .unused .v64 (tyIs f.mod [.i64, .n64] && modIn f.mod 0x1f)
  | .mad64 f => f.shape .w32 .w32 .w64 .v64 (tyIs f.mod [.i64, .n64] && modIn f.mod 0x1f)
  | .lea f => f.shape .w64 .w32 .unused .v64 (tyIs f.mod [.i32, .n32] && modIn f.mod 0xff)
  | .cmp64 _ f => f.shape .w64 .w64 .unused .pred (tyIs f.mod [.i64, .n64] && modIn f.mod 0x7ff && combOk f.mod)
  | .pset f => f.shape .unused .unused .unused .pred (modIn f.mod 0xfffff)
  | .pmov f =>
    if f.mod.toNat.testBit 0 then
      f.shape .w32 .unused .unused .pred (modIn f.mod 0xff && f.dst.index == 0)
    else f.shape .unused .unused .unused .v32 (untyped f.mod)
  | .idot4 f => f.shape .w32 .w32 .w32 .v32 (tyIs f.mod [.i8, .n8] && modIn f.mod 0x3f)
  | .prmt f => f.shape .w32 .w32 .w32 .v32 (untyped f.mod)
  | .fadd f => f.shape (srcBy (tyWide (modTy f.mod))) (srcBy (tyWide (modTy f.mod))) .unused
      (dstBy (tyWide (modTy f.mod))) (tyIs f.mod fpTypes && modIn f.mod 0xffff && rmOk f.mod 5)
  | .fmul f => f.shape (srcBy (tyWide (modTy f.mod))) (srcBy (tyWide (modTy f.mod))) .unused
      (dstBy (tyWide (modTy f.mod))) (tyIs f.mod fpTypes && modIn f.mod 0xffff && rmOk f.mod 5)
  | .ffma f => f.shape (srcBy (tyWide (modTy f.mod))) (srcBy (tyWide (modTy f.mod))) (srcBy (tyWide (modTy f.mod)))
      (dstBy (tyWide (modTy f.mod))) (tyIs f.mod fpTypes && modIn f.mod 0xffff && rmOk f.mod 5)
  | .fmin f => f.shape (srcBy (tyWide (modTy f.mod))) (srcBy (tyWide (modTy f.mod))) .unused
      (dstBy (tyWide (modTy f.mod))) (tyIs f.mod fpTypes && modIn f.mod 0x11f)
  | .fmax f => f.shape (srcBy (tyWide (modTy f.mod))) (srcBy (tyWide (modTy f.mod))) .unused
      (dstBy (tyWide (modTy f.mod))) (tyIs f.mod fpTypes && modIn f.mod 0x11f)
  | .fcmp _ f => f.shape (srcBy (tyWide (modTy f.mod))) (srcBy (tyWide (modTy f.mod))) .unused .pred
      (tyIs f.mod fpScalar && modIn f.mod 0xfff && combOk f.mod)
  | .fclass f => f.shape (srcBy (tyWide (modTy f.mod))) .unused .unused .v32 (tyIs f.mod fpScalar && modIn f.mod 0x1f)
  | .fscale f => f.shape (srcBy (tyWide (modTy f.mod))) .w32 .unused (dstBy (tyWide (modTy f.mod)))
      (tyIs f.mod fpScalar && modIn f.mod 0x1ff && rmOk f.mod 5)
  | .frnd f => f.shape (srcBy (tyWide (modTy f.mod))) .unused .unused (dstBy (tyWide (modTy f.mod)))
      (tyIs f.mod fpScalar && modIn f.mod 0xff && rmOk f.mod 5)
  | .fdiv f => f.shape (srcBy (tyWide (modTy f.mod))) (srcBy (tyWide (modTy f.mod))) .unused
      (dstBy (tyWide (modTy f.mod))) (tyIs f.mod [.f64, .f32] && modIn f.mod 0x1ff && rmOk f.mod 5)
  | .fsqrt f => f.shape (srcBy (tyWide (modTy f.mod))) .unused .unused
      (dstBy (tyWide (modTy f.mod))) (tyIs f.mod [.f64, .f32] && modIn f.mod 0x1ff && rmOk f.mod 5)
  | .frcp f => f.shape .w32 .unused .unused .v32 (tyIs f.mod [.f32] && modIn f.mod 0x11f)
  | .frsq f => f.shape .w32 .unused .unused .v32 (tyIs f.mod [.f32] && modIn f.mod 0x11f)
  | .fexp2 f => f.shape .w32 .unused .unused .v32 (tyIs f.mod [.f32] && modIn f.mod 0x11f)
  | .flog2 f => f.shape .w32 .unused .unused .v32 (tyIs f.mod [.f32] && modIn f.mod 0x11f)
  | .fsin f => f.shape .w32 .unused .unused .v32 (tyIs f.mod [.f32] && modIn f.mod 0x11f)
  | .fcos f => f.shape .w32 .unused .unused .v32 (tyIs f.mod [.f32] && modIn f.mod 0x11f)
  | .ftanh f => f.shape .w32 .unused .unused .v32 (tyIs f.mod [.f32] && modIn f.mod 0x11f)
  | .cvt f => f.shape (srcBy (tyWide (modSty f.mod))) (srcBy (tyWide (modTy f.mod))) .unused
      (dstBy (tyWide (modTy f.mod))) (modIn f.mod 0xfffff && cvtOk f.mod)
  | .cvti f => f.shape (srcBy (tyWide (modSty f.mod))) (srcBy (tyWide (modTy f.mod))) .unused
      (dstBy (tyWide (modTy f.mod))) (modIn f.mod 0xfe3ff && cvtiOk f.mod)
  | .cvtsr f => f.shape (srcBy (tyWide (modSty f.mod))) .w32 .w32 .v32 (modIn f.mod 0x1e3ff && cvtsrOk f.mod)
  | .bxpack f =>
    f.shape .quad (if f.mod.toNat.testBit 10 then .w32 else .unused) .unused .v32
      (modIn f.mod 0x7ff && (modTy f.mod).isBx
        && (styIs f.mod [.f32] || (modTy f.mod == .x4i8 && styIs f.mod [.i32])))
  | .bxunp f => f.shape (if modSty f.mod == .x4e2 then .w32 else .w32) .w32 .unused (dstBy (tyWide (modTy f.mod)))
      (modIn f.mod 0x7fff && (modSty f.mod).isBx && tyIs f.mod [.f64, .f32, .f16, .bf16, .i32] && rmOk f.mod 12
        && (modTy f.mod != .i32 || modBits f.mod 12 3 == 0))
  | .faddi f => f.shape .w32 .unused .v32 (tyIs f.mod [.f32, .f16x2, .bf16x2] && rmOk f.mod 5)
  | .fmuli f => f.shape .w32 .unused .v32 (tyIs f.mod [.f32, .f16x2, .bf16x2] && rmOk f.mod 5)
  | .rngdraw f => f.shape .w64 .quadKeep .unused .quad (untyped f.mod)
  | .rngskip f => f.shape .quad .quad .unused .quad (untyped f.mod)
  | .bra f => f.shape .unused .unused (decide (f.slot.toNat < 5))
  | .brau _ f => f.shape .uni .unused (decide (f.slot.toNat < 5) && f.pred.fixed)
  | .brx f => f.shape .target .unused (f.slot == 0 && f.line == 0)
  | .call f => f.shape .unused .unused (decide (f.slot.toNat < 5))
  | .callx f => f.shape .target .unused (f.slot == 0 && f.line == 0)
  | .ret f => f.shape .unused .unused (f.slot == 0 && f.line == 0)
  | .loopu f => f.shape .w32 .reg (decide (f.slot.toNat < 5)
      && (match f.sa with | .file n _ d => n == f.dst.index && !d | _ => false))
  | .exit f => f.shape .unused .unused .unused .unused (untyped f.mod)
  | .trap f => f.shape .unused .unused .unused (untyped f.mod && decide (f.imm.toNat < 65536))
  | .trapret f => f.shape .unused .unused .unused .unused (untyped f.mod)
  | .yield f => f.shape .unused .unused .unused .unused (untyped f.mod)
  | .csrr f => f.shape .unused .unused (dstBy (csrWidth f.imm.toNat == some 64))
      (untyped f.mod && (csrWidth f.imm.toNat).isSome)
  | .csrw _ f => f.shape (srcBy (csrWidth f.imm.toNat == some 64)) .unused .unused
      (untyped f.mod && (csrWidth f.imm.toNat).isSome)
  | .bkpt f => f.shape .unused .unused .unused (untyped f.mod && decide (f.imm.toNat < 65536))
  | .ld f =>
    let m := memMod f.mod
    f.shape (if m.idx then .uniZero else .addr) (if m.idx then .index else .unused) (loadDst m.width)
      (loadTyOk m && m.idxOk && decide (m.cpol < 3) && m.ord != 1 && scOk m)
  | .st f =>
    let m := memMod f.mod
    f.shape .addr (storeSrc m.width) .unused
      (storeTyOk m && !m.idx && m.scale == 0 && decide (m.cpol < 3) && m.ord != 2 && scOk m)
  | .lds f =>
    let m := memMod f.mod
    f.shape (if m.idx then .uniZero else .addr32) (if m.idx then .index else .unused) (loadDst m.width)
      (loadTyOk m && m.idxOk && m.cpol == 0 && m.ord == 0)
  | .sts f =>
    let m := memMod f.mod
    f.shape .addr32 (storeSrc m.width) .unused (storeTyOk m && !m.idx && m.scale == 0 && m.cpol == 0 && m.ord == 0)
  | .ldu f =>
    let m := memMod f.mod
    f.shape .uniZero (if m.idx then .uni else .unused) .uni
      ((m.width == 2 || (m.width == 3 && !m.sgn)) && m.idxOk && (!m.idx || f.sa == .zero)
        && decide (m.cpol < 3) && (m.ord == 0 || m.ord == 2))
  | .atom k f =>
    let m := memMod f.mod
    f.shape .addr (storeSrc m.width) (if m.width == 3 then .regPair else .reg) (atomTyOk k m)
  | .red k f =>
    let m := memMod f.mod
    f.shape .addr (storeSrc m.width) .unused (atomTyOk k m && m.ord != 2 && k != .exch)
  | .atoms k f =>
    let m := memMod f.mod
    f.shape .addr32 (storeSrc m.width) (if m.width == 3 then .regPair else .reg) (atomTyOk k m && m.ord == 0)
  | .cas f =>
    let m := memMod f.mod
    f.shape .addr (if m.width == 3 then .quad else .pair) (if m.width == 3 then .regPair else .reg)
      ((m.width == 2 || m.width == 3) && !m.sgn && !m.idx && m.scale == 0 && m.cpol == 0)
  | .pref _ f =>
    let m := memMod f.mod
    f.shape (if m.idx then .uniZero else .addr) (if m.idx then .index else .unused) .unused
      (m.width == 0 && !m.sgn && m.ord == 0 && m.cpol == 0 && m.idxOk)
  | .fence _ f => f.shape .addr .unused .unused (f.mod == 0)
  | .racq f => f.shape .addr .unused .unused (f.mod == 0)
  | .mwait k f => f.shape .addr (if k == .timed then .w32 else .unused) .reg (f.mod == 3)
  | .shfl _ f => f.shape (srcBy (tyWide (modTy f.mod))) .w32 .unused (dstBy (tyWide (modTy f.mod)))
      (tyIs f.mod [.n32, .n64] && modIn f.mod 0xff && decide (modBits f.mod 5 3 < 6))
  | .vote k f => f.shape .unused .unused .unused (if k == .bal then .v32 else .pred) (modIn f.mod 0xf)
  | .scan _ f => f.shape (srcBy (tyWide (modTy f.mod))) .unused .unused (dstBy (tyWide (modTy f.mod)))
      (modIn f.mod 0xfff && scanOk f.mod)
  | .gred f => f.shape (srcBy (tyWide (modTy f.mod))) .unused .unused (dstBy (tyWide (modTy f.mod)))
      (modIn f.mod 0xfff && scanOk f.mod)
  | .fmaxi f => f.shape .w32 (if f.mod.toNat.testBit 5 then .unused else .w32) .unused .v64
      (tyIs f.mod [.f32] && modIn f.mod 0x3f)
  | .fmini f => f.shape .w32 (if f.mod.toNat.testBit 5 then .unused else .w32) .unused .v64
      (tyIs f.mod [.f32] && modIn f.mod 0x3f)
  | .sample f => f.shape .w32 .w32 .unused .v32 (tyIs f.mod [.f32] && modIn f.mod 0x1f)
  | .matchLanes _ f => f.shape (srcBy (tyWide (modTy f.mod))) .unused .unused .v32
      (tyIs f.mod [.n32, .n64] && modIn f.mod 0x1f)
  | .lser f => f.shape .unused .unused .unused .unused (untyped f.mod && f.pred.fixed)
  | .lsend f => f.shape .unused .unused .unused .unused (untyped f.mod && f.pred.fixed)
  | .rehome f => f.shape .w32 .unused .unused .unused (untyped f.mod)
  | .lfsrset f =>
    if f.mod.toNat.testBit 0 then f.shape .uni .unused .unused (modIn f.mod 1 && f.imm == 0)
    else f.shape .unused .unused .unused (untyped f.mod && decide (f.imm.toNat < 65536))
  | .gjoin f => f.shape .unused .unused .unused .unused (untyped f.mod && f.pred.fixed)
  | .umov f =>
    f.shape (if f.mod.toNat.testBit 5 then .uop else .unused) .unused .uni
      (uniTy f.mod && modIn f.mod 0x3f && f.pred.fixed && (!f.mod.toNat.testBit 5 || f.imm == 0)
        && uopWidth f.mod f.sa)
  | .uadd f =>
    f.shape .uop (if f.mod.toNat.testBit 5 then .uop else .unused) .uni
      (uniTy f.mod && modIn f.mod 0x3f && f.pred.fixed && (!f.mod.toNat.testBit 5 || f.imm == 0)
        && uopWidth f.mod f.sa && uopWidth f.mod f.sb)
  | .umad f => f.shape .uop .uop .uop .uni
      (uniTy f.mod && modIn f.mod 0x1f && f.pred.fixed && uopWidth f.mod f.sa && uopWidth f.mod f.sb
        && uopWidth f.mod f.sc)
  | .ulop3 f => f.shape .uop .uop .uop .uni
      (modIn f.mod 0xff && f.pred.fixed && f.sa.ok64 && f.sb.ok64 && f.sc.ok64)
  | .ushf f =>
    f.shape .uop (if f.mod.toNat.testBit 5 then .uop else .unused) .uni
      (tyIs f.mod [.n32, .n64] && modIn f.mod 0xff && f.pred.fixed
        && (if f.mod.toNat.testBit 5 then f.imm == 0 else decide (f.imm.toNat < 128))
        && uopWidth f.mod f.sa && uopWidth f.mod f.sb)
  | .ucmp f =>
    f.shape .uop (if f.mod.toNat.testBit 5 then .uop else .unused) .uni
      (uniTy f.mod && modIn f.mod 0x1ff && decide (modBits f.mod 6 3 < 6) && f.pred.fixed
        && (!f.mod.toNat.testBit 5 || f.imm == 0) && uopWidth f.mod f.sa && uopWidth f.mod f.sb)
  | .uown f => f.shape .unused .unused .unused
      (untyped f.mod && f.pred.fixed && decide (f.imm.toNat < 0x8000))
  | .barSync f => f.shape .unused .unused .unused (untyped f.mod && decide (f.imm.toNat < 16))
  | .barArv f => f.shape .unused .unused .unused (untyped f.mod && decide (f.imm.toNat < 16))
  | .bart f => f.shape .w32 .unused .reg (untyped f.mod && decide (f.imm.toNat < 16))
  | .arrinit f => f.shape .addr32 .w32 .unused (f.mod == 3)
  | .arradd f => f.shape .addr32 .w32 .unused (f.mod == 3)
  | .arrwait k f => f.shape .addr32 (if k == .timed then .w64 else .w32) .reg (f.mod == 3)
  | .hqinit f => f.shape .unused .unused .unused (untyped f.mod && decide (f.imm.toNat < 2 ^ 22) && f.pred.fixed)
  | .hqpush f => f.shape .w32 .unused .unused .unused (modIn f.mod 0xf && f.pred.fixed)
  | .hqpop f => f.shape .unused .unused .unused .v32 (modIn f.mod 0xf && f.pred.fixed)
  | .hqallow f => f.shape .unused .unused .unused (untyped f.mod && modBits f.imm 4 12 == 0 && f.pred.fixed)
  | .lqcfg f => f.shape .unused .unused .unused
      (untyped f.mod && decide (f.imm.toNat < 65536) && (f.imm.toNat.testBit 3 || modBits f.imm 4 12 == 0))
  | .bankmode f => f.shape .unused .unused .unused
      (untyped f.mod && decide (f.imm.toNat < 64) && modBits f.imm 4 2 != 3)
  | .accalloc f => f.shape .unused .unused .uni
      (untyped f.mod && decide (1 ≤ f.imm.toNat) && decide (f.imm.toNat ≤ 16) && f.pred.fixed)
  | .accfree f => f.shape .unused .unused .unused
      (untyped f.mod && decide (1 ≤ f.imm.toNat) && decide (f.imm.toNat ≤ 16) && f.pred.fixed)
  | .aecfg f => f.shape .addr .unused .unused (f.mod == 0 && f.pred.fixed)
  | .aego f => f.shape .unused .unused .unused (untyped f.mod && f.imm == 0 && f.pred.fixed)
  | .aestop f => f.shape .unused .unused .unused (untyped f.mod && f.imm == 0 && f.pred.fixed)
  | .role f => f.shape .unused .unused .unused (untyped f.mod && decide (f.imm.toNat < 1024))
  | .tmap f => f.shape .uni .unused .unused .unused
      (modIn f.mod 0xf && (match f.sa with | .uni n => n.toNat % 4 == 0 | _ => false))
  | .tmapf f => f.shape .unused .unused .unused
      (modIn f.mod 0xff && decide (modBits f.mod 4 4 < 10) && decide (f.imm.toNat < 2 ^ mapFieldBits (modBits f.mod 4 4)))
  | .mqma f => f.shape .w32 .unused .unused .unused (modIn f.mod 1)
  | .mqmas f => f.shape .w32 .sparse .unused .unused (modIn f.mod 3 && (f.mod.toNat.testBit 1 || f.sb.isFile))
  | .mzero f => f.shape .unused .unused .unused (untyped f.mod && tileRangeOk f.imm)
  | .mload f => f.shape .addr .uniEven .unused (f.mod == 0)
  | .mdrain f => f.shape .addr .uniEven .unused (f.mod == 0)
  | .mdrainAdd f => f.shape .addr .uniEven .unused (f.mod == 0)
  | .mwaita f => f.shape .unused .unused .unused (untyped f.mod && tileRangeOk f.imm)
  | .attn _ f => f.shape .w32 .unused .unused .unused (untyped f.mod)
  | .attnf f => f.shape .unused .unused .unused (untyped f.mod && decide (f.imm.toNat < 2 ^ 20))
  | .heaprd f => f.shape .unused .unused .regPair (untyped f.mod && decide (f.imm.toNat < 2 ^ 19))
  | .heaprdTopk f => f.shape .w32 .unused .regPair (untyped f.mod && decide (f.imm.toNat < 2 ^ 19))
  | .heaprdTopp f => f.shape .w32 .unused .regPair (untyped f.mod && decide (f.imm.toNat < 2 ^ 19))
  | .heapclr f => f.shape .unused .unused .unused
      (untyped f.mod && decide (f.imm.toNat < 2 ^ 24) && decide (1 ≤ modBits f.imm 6 7)
        && decide (modBits f.imm 0 6 + modBits f.imm 6 7 ≤ 64))
  | .copy _ f => f.shape .addr32 .unused .unused (f.mod == 0)
  | .gather f => f.shape .addr32 .unused .unused (f.mod == 0)
  | .copyst f => f.shape .unused .unused .v32 (modIn f.mod 0x3f && f.off == 0)
  | .cbar f => f.shape .unused .unused .unused (untyped f.mod && decide (f.imm.toNat < 4))
  | .tlbinvPage f => f.shape .addr .w32 .unused (f.mod == 0 && f.pred.fixed)
  | .tlbinvAsid f => f.shape .unused .w32 .unused (f.mod == 0 && f.off == 0 && f.pred.fixed)
  | .tlbinvAll f => f.shape .unused .unused .unused (f.mod == 0 && f.off == 0 && f.pred.fixed)
  | .slogctlQuery f => f.shape .unused .unused .v32 (untyped f.mod && f.imm == 0)
  | .slogctlDrain f => f.shape .unused .unused .unused (untyped f.mod && decide (f.imm.toNat < 2))
  | .dbar f => f.shape .unused .unused .unused (untyped f.mod && decide (f.imm.toNat < 4))
  | .tkwait f => f.shape .unused .unused .reg (untyped f.mod && f.imm == 0)
  | .tkcommit f => f.shape .unused .unused .unused (untyped f.mod && f.imm == 0)
  | .dscale f =>
    if f.mod.toNat.testBit 0 then
      f.shape .uop .unused .unused (modIn f.mod 1 && decide (f.imm.toNat < 16)
        && (match f.sa with | .const k => decide (48 ≤ k.toNat) | _ => true))
    else f.shape .unused .unused .unused (untyped f.mod && decide (f.imm.toNat < 65536))
  | .ttfork f => f.shape .w32 .unused .unused .reg (modIn f.mod 0xf)
  | .ttappend f => f.shape .w32 .w32 .unused .reg (modIn f.mod 0x1f)
  | .ttprune f => f.shape .w32 .unused .unused .reg (modIn f.mod 0xf)
  | .ttcommit f => f.shape .w32 .w32 .unused .reg (modIn f.mod 0xf)
  | .ttwalk f => f.shape .w32 .w32 .unused .regPair (modIn f.mod 0xf)
  | .ttrefAttach f => f.shape .w32 .unused .unused .reg (modIn f.mod 0xf)
  | .ttrefDetach f => f.shape .w32 .unused .unused .reg (modIn f.mod 0xf)
  | .ttrefPin f => f.shape .w32 .unused .unused .reg (modIn f.mod 0xf)
  | .ttrefUnpin f => f.shape .w32 .unused .unused .reg (modIn f.mod 0xf)
  | .ttrefEvict f => f.shape .w32 .unused .unused .reg (modIn f.mod 0xf)
  | .ttqueryFree f => f.shape .unused .unused .unused .reg (modIn f.mod 0xf)
  | .ttqueryReserve f => f.shape .unused .unused .unused .reg (modIn f.mod 0xf)
  | .ttqueryState f => f.shape .w32 .unused .unused .regQuad (modIn f.mod 0xf)
  | .detok f => f.shape .w32 .unused .unused .regPair (modIn f.mod 0xf)
  | .tokstep f => f.shape .w32 .w32 .unused .regPair (modIn f.mod 0xf)
  | .lnch f => f.shape .addr .unused .reg (modIn f.mod 0x3f)
  | .lnchLast f => f.shape .addr .unused .reg (modIn f.mod 0x3f)
  | .gridbar f => f.shape .unused .unused .unused (untyped f.mod && decide (f.imm.toNat < 4))
  | .xfput f => f.shape .addr32 .unused .unused (f.mod == 0)
  | .xfget f => f.shape .addr32 .unused .unused (f.mod == 0)
  | .xfwork f => f.shape .addr32 .unused .reg (f.mod == 0)
  | .xfred f => f.shape .addr32 .unused .unused (f.mod == 0)
  | .xfsred f => f.shape .addr32 .unused .unused (f.mod == 0)
  | .xffence f => f.shape .unused .unused .unused (untyped f.mod && f.imm == 0)
  | .loadCompletion _ _
  | .accessRetirement _ _
  | .trapEntry _
  | .barrierTimeout _
  | .arrwaitTimeout _
  | .bartTimeout _ _
  | .groupWaitTimeout _
  | .hqWaitTimeout _
  | .accallocTimeout _
  | .aeStreamElement _
  | .quarterOpStart _
  | .tileTransferStart _
  | .engineOpCompletion _
  | .engineFault _
  | .attnCompletion _
  | .matrixBudgetPeriod _
  | .copyOpStart _ _
  | .copyCompletion _ _
  | .copyFault _ _
  | .sideLogRetryPass _
  | .teamPlacement _ _
  | .teamSlotRelease _
  | .waitingOpPerform _
  | .commitDrainEntry _
  | .millinerRequest _ _
  | .prunePageReturn _ _
  | .cancelDelivery _
  | .enqueueDoorbell _ _ _
  | .recordStart _ _
  | .gridCompletion _
  | .graphNodeActivation _ _ _
  | .graphNodeCompletion _ _ _
  | .ctxctlSave _ _
  | .contextWrite _
  | .ctxctlRestore _ _
  | .restoreCoreRelease _ _
  | .ctxctlKill _
  | .partctlApply _ _
  | .partctlClear _
  | .poolctlCreate _ _
  | .poolctlDestroy _ _
  | .poolctlReserve _ _ _
  | .prespWrite _
  | .hinvWrite _
  | .hostRegisterWrite _ _
  | .fabricMessageReceive _
  | .xfredResend _ _
  | .fabricCmplReceive _ _
  | .fabricCmplTimeout _
  | .flitCrcFailure _
  | .fxcfgTrain _
  | .snpInv _
  | .snpData _
  | .snpCur _
  | .go _ _ _
  | .goWritepull _
  | .writepull _
  | .cxlMemRequest _
  | .bisnpResponse _ _ _
  | .powerOn
  | .mailboxUpdate _ _
  | .mailboxUpdateEnd
  | .mailboxReset
  | .mailboxAbort
  | .attestationRequest _
  | .uncorrectableError _
  | .watchdogExpiry _
  | .activityBudgetPeriod
  | .thermalThreshold _
  | .dieOvertempCutoff _
  | .dirtyL1LineWriteback _ _
  | .scrub _
  | .powerLoss
  | .fabricPortUp _
  | .prqtailWrite _
  | .budgetLowering _ => Shape.event

/-- Whether the sources of a shape have admitted levels (R59 to R64). -/
def Shape.srcsOk (h : Shape) : Bool := h.srcs.all fun x => x.2.admits x.1

/-- RNGSKIP may name its source quad as destination (R133). -/
def Instr.skipsD (i : Instr) : Bool :=
  match i with
  | .rngskip f => match f.sa with
    | .file n _ _ => n == f.dst.index
    | _ => false
  | _ => false

/-- The payload of an encoded instruction (R57). -/
inductive Payload where
  | rrr (f : RRR)
  | ri (f : RI)
  | mf (f : MF)
  | bf (f : BF)
  deriving DecidableEq, Repr

/-- The SUB code (R96). -/
def Cc.sub : Cc → Nat
  | .eq => 0
  | .ne => 1
  | .lt => 2
  | .le => 3
  | .gt => 4
  | .ge => 5

/-- The member with a SUB code (R96). -/
def Cc.ofSub : Nat → Option Cc
  | 0 => some .eq
  | 1 => some .ne
  | 2 => some .lt
  | 3 => some .le
  | 4 => some .gt
  | 5 => some .ge
  | _ => none

/-- The SUB code (R96). -/
def ShiftKind.sub : ShiftKind → Nat
  | .l => 0
  | .r => 1
  | .ra => 2
  | .rot => 3

/-- The member with a SUB code (R96). -/
def ShiftKind.ofSub : Nat → Option ShiftKind
  | 0 => some .l
  | 1 => some .r
  | 2 => some .ra
  | 3 => some .rot
  | _ => none

/-- The SUB code (R96). -/
def Fcc.sub : Fcc → Nat
  | .eq => 0
  | .ne => 1
  | .lt => 2
  | .le => 3
  | .gt => 4
  | .ge => 5
  | .un => 6
  | .ord => 7

/-- The member with a SUB code (R96). -/
def Fcc.ofSub : Nat → Option Fcc
  | 0 => some .eq
  | 1 => some .ne
  | 2 => some .lt
  | 3 => some .le
  | 4 => some .gt
  | 5 => some .ge
  | 6 => some .un
  | 7 => some .ord
  | _ => none

/-- The SUB code (R96). -/
def UTest.sub : UTest → Nat
  | .nz => 0
  | .z => 1

/-- The member with a SUB code (R96). -/
def UTest.ofSub : Nat → Option UTest
  | 0 => some .nz
  | 1 => some .z
  | _ => none

/-- The SUB code (R96). -/
def CsrOp.sub : CsrOp → Nat
  | .write => 0
  | .set => 1
  | .clr => 2

/-- The member with a SUB code (R96). -/
def CsrOp.ofSub : Nat → Option CsrOp
  | 0 => some .write
  | 1 => some .set
  | 2 => some .clr
  | _ => none

/-- The SUB code (R96). -/
def AtomOp.sub : AtomOp → Nat
  | .add => 0
  | .min => 1
  | .max => 2
  | .and => 3
  | .or => 4
  | .xor => 5
  | .exch => 6
  | .inc => 7
  | .dec => 8
  | .fadd => 9

/-- The member with a SUB code (R96). -/
def AtomOp.ofSub : Nat → Option AtomOp
  | 0 => some .add
  | 1 => some .min
  | 2 => some .max
  | 3 => some .and
  | 4 => some .or
  | 5 => some .xor
  | 6 => some .exch
  | 7 => some .inc
  | 8 => some .dec
  | 9 => some .fadd
  | _ => none

/-- The SUB code (R96). -/
def PrefLevel.sub : PrefLevel → Nat
  | .l1 => 0
  | .l2 => 1

/-- The member with a SUB code (R96). -/
def PrefLevel.ofSub : Nat → Option PrefLevel
  | 0 => some .l1
  | 1 => some .l2
  | _ => none

/-- The SUB code (R96). -/
def FenceKind.sub : FenceKind → Nat
  | .rel => 0
  | .acq => 1
  | .ar => 2
  | .sc => 3

/-- The member with a SUB code (R96). -/
def FenceKind.ofSub : Nat → Option FenceKind
  | 0 => some .rel
  | 1 => some .acq
  | 2 => some .ar
  | 3 => some .sc
  | _ => none

/-- The SUB code (R96). -/
def Timed.sub : Timed → Nat
  | .untimed => 0
  | .timed => 1

/-- The member with a SUB code (R96). -/
def Timed.ofSub : Nat → Option Timed
  | 0 => some .untimed
  | 1 => some .timed
  | _ => none

/-- The SUB code (R96). -/
def ShflKind.sub : ShflKind → Nat
  | .idx => 0
  | .up => 1
  | .down => 2
  | .xor => 3

/-- The member with a SUB code (R96). -/
def ShflKind.ofSub : Nat → Option ShflKind
  | 0 => some .idx
  | 1 => some .up
  | 2 => some .down
  | 3 => some .xor
  | _ => none

/-- The SUB code (R96). -/
def VoteKind.sub : VoteKind → Nat
  | .all => 0
  | .any => 1
  | .bal => 2

/-- The member with a SUB code (R96). -/
def VoteKind.ofSub : Nat → Option VoteKind
  | 0 => some .all
  | 1 => some .any
  | 2 => some .bal
  | _ => none

/-- The SUB code (R96). -/
def ScanKind.sub : ScanKind → Nat
  | .inc => 0
  | .exc => 1

/-- The member with a SUB code (R96). -/
def ScanKind.ofSub : Nat → Option ScanKind
  | 0 => some .inc
  | 1 => some .exc
  | _ => none

/-- The SUB code (R96). -/
def MatchKind.sub : MatchKind → Nat
  | .any => 0
  | .all => 1

/-- The member with a SUB code (R96). -/
def MatchKind.ofSub : Nat → Option MatchKind
  | 0 => some .any
  | 1 => some .all
  | _ => none

/-- The SUB code (R96). -/
def AttnMask.sub : AttnMask → Nat
  | .tree => 0
  | .causal => 1
  | .none => 2

/-- The member with a SUB code (R96). -/
def AttnMask.ofSub : Nat → Option AttnMask
  | 0 => some .tree
  | 1 => some .causal
  | 2 => some .none
  | _ => Option.none

/-- The SUB code (R96). -/
def CopyDims.sub : CopyDims → Nat
  | .d1 => 0
  | .d2 => 1
  | .d3 => 2

/-- The member with a SUB code (R96). -/
def CopyDims.ofSub : Nat → Option CopyDims
  | 0 => some .d1
  | 1 => some .d2
  | 2 => some .d3
  | _ => none

/-- Major opcode, minor opcode and payload (R90, R96); none for an event. -/
def Instr.code (i : Instr) : Option (Nat × Nat × Payload) :=
  match i with
  | .nop f => some (0x00, 0, .rrr f)
  | .iadd f => some (0x01, 0, .rrr f)
  | .iaddi f => some (0x02, 0, .ri f)
  | .isub f => some (0x03, 0, .rrr f)
  | .imul f => some (0x04, 0, .rrr f)
  | .imulh f => some (0x05, 0, .rrr f)
  | .imad f => some (0x06, 0, .rrr f)
  | .idiv f => some (0x07, 0, .rrr f)
  | .imin f => some (0x08, 0, .rrr f)
  | .imax f => some (0x09, 0, .rrr f)
  | .iabs f => some (0x0a, 0, .rrr f)
  | .icmp k f => some (0x0b, k.sub, .rrr f)
  | .icmpi k f => some (0x0c, k.sub, .ri f)
  | .lop3 f => some (0x0d, 0, .rrr f)
  | .lopi f => some (0x0e, 0, .ri f)
  | .shf k f => some (0x0f, k.sub, .rrr f)
  | .shfi k f => some (0x10, k.sub, .ri f)
  | .bfe f => some (0x11, 0, .rrr f)
  | .bfi f => some (0x12, 0, .rrr f)
  | .popc f => some (0x13, 0, .rrr f)
  | .clz f => some (0x14, 0, .rrr f)
  | .brev f => some (0x15, 0, .rrr f)
  | .sel f => some (0x16, 0, .rrr f)
  | .mov f => some (0x17, 0, .rrr f)
  | .movi f => some (0x18, 0, .ri f)
  | .movsr f => some (0x19, 0, .ri f)
  | .add64 f => some (0x1a, 0, .rrr f)
  | .add64i f => some (0x1b, 0, .ri f)
  | .mad64 f => some (0x1c, 0, .rrr f)
  | .lea f => some (0x1d, 0, .rrr f)
  | .cmp64 k f => some (0x1e, k.sub, .rrr f)
  | .pset f => some (0x1f, 0, .rrr f)
  | .pmov f => some (0x20, 0, .rrr f)
  | .idot4 f => some (0x21, 0, .rrr f)
  | .prmt f => some (0x22, 0, .rrr f)
  | .fadd f => some (0x30, 0, .rrr f)
  | .fmul f => some (0x31, 0, .rrr f)
  | .ffma f => some (0x32, 0, .rrr f)
  | .fmin f => some (0x33, 0, .rrr f)
  | .fmax f => some (0x34, 0, .rrr f)
  | .fcmp k f => some (0x35, k.sub, .rrr f)
  | .fclass f => some (0x36, 0, .rrr f)
  | .fscale f => some (0x37, 0, .rrr f)
  | .frnd f => some (0x38, 0, .rrr f)
  | .fdiv f => some (0x39, 0, .rrr f)
  | .fsqrt f => some (0x3a, 0, .rrr f)
  | .frcp f => some (0x3b, 0, .rrr f)
  | .frsq f => some (0x3c, 0, .rrr f)
  | .fexp2 f => some (0x3d, 0, .rrr f)
  | .flog2 f => some (0x3e, 0, .rrr f)
  | .fsin f => some (0x3f, 0, .rrr f)
  | .fcos f => some (0x40, 0, .rrr f)
  | .ftanh f => some (0x41, 0, .rrr f)
  | .cvt f => some (0x42, 0, .rrr f)
  | .cvti f => some (0x43, 0, .rrr f)
  | .cvtsr f => some (0x44, 0, .rrr f)
  | .bxpack f => some (0x45, 0, .rrr f)
  | .bxunp f => some (0x46, 0, .rrr f)
  | .faddi f => some (0x47, 0, .ri f)
  | .fmuli f => some (0x48, 0, .ri f)
  | .rngdraw f => some (0x49, 0, .rrr f)
  | .rngskip f => some (0x4a, 0, .rrr f)
  | .bra f => some (0x60, 0, .bf f)
  | .brau k f => some (0x61, k.sub, .bf f)
  | .brx f => some (0x62, 0, .bf f)
  | .call f => some (0x63, 0, .bf f)
  | .callx f => some (0x64, 0, .bf f)
  | .ret f => some (0x65, 0, .bf f)
  | .loopu f => some (0x66, 0, .bf f)
  | .exit f => some (0x67, 0, .rrr f)
  | .trap f => some (0x68, 0, .ri f)
  | .trapret f => some (0x69, 0, .rrr f)
  | .yield f => some (0x6a, 0, .rrr f)
  | .csrr f => some (0x6b, 0, .ri f)
  | .csrw k f => some (0x6c, k.sub, .ri f)
  | .bkpt f => some (0x6d, 0, .ri f)
  | .ld f => some (0x80, 0, .mf f)
  | .st f => some (0x81, 0, .mf f)
  | .lds f => some (0x82, 0, .mf f)
  | .sts f => some (0x83, 0, .mf f)
  | .ldu f => some (0x84, 0, .mf f)
  | .atom k f => some (0x85, k.sub, .mf f)
  | .red k f => some (0x86, k.sub, .mf f)
  | .atoms k f => some (0x87, k.sub, .mf f)
  | .cas f => some (0x88, 0, .mf f)
  | .pref k f => some (0x89, k.sub, .mf f)
  | .fence k f => some (0x8a, k.sub, .mf f)
  | .racq f => some (0x8b, 0, .mf f)
  | .mwait k f => some (0x8c, k.sub, .mf f)
  | .shfl k f => some (0xa0, k.sub, .rrr f)
  | .vote k f => some (0xa1, k.sub, .rrr f)
  | .scan k f => some (0xa2, k.sub, .rrr f)
  | .gred f => some (0xa3, 0, .rrr f)
  | .fmaxi f => some (0xa4, 0, .rrr f)
  | .fmini f => some (0xa4, 1, .rrr f)
  | .sample f => some (0xa5, 0, .rrr f)
  | .matchLanes k f => some (0xa6, k.sub, .rrr f)
  | .lser f => some (0xa7, 0, .rrr f)
  | .lsend f => some (0xa8, 0, .rrr f)
  | .rehome f => some (0xa9, 0, .rrr f)
  | .lfsrset f => some (0xaa, 0, .ri f)
  | .gjoin f => some (0xab, 0, .rrr f)
  | .umov f => some (0xb0, 0, .ri f)
  | .uadd f => some (0xb1, 0, .ri f)
  | .umad f => some (0xb2, 0, .rrr f)
  | .ulop3 f => some (0xb3, 0, .rrr f)
  | .ushf f => some (0xb4, 0, .ri f)
  | .ucmp f => some (0xb5, 0, .ri f)
  | .uown f => some (0xb6, 0, .ri f)
  | .barSync f => some (0xb7, 0, .ri f)
  | .barArv f => some (0xb7, 1, .ri f)
  | .bart f => some (0xb8, 0, .ri f)
  | .arrinit f => some (0xb9, 0, .mf f)
  | .arradd f => some (0xba, 0, .mf f)
  | .arrwait k f => some (0xbb, k.sub, .mf f)
  | .hqinit f => some (0xbc, 0, .ri f)
  | .hqpush f => some (0xbd, 0, .rrr f)
  | .hqpop f => some (0xbe, 0, .rrr f)
  | .hqallow f => some (0xbf, 0, .ri f)
  | .lqcfg f => some (0xc0, 0, .ri f)
  | .bankmode f => some (0xc1, 0, .ri f)
  | .accalloc f => some (0xc2, 0, .ri f)
  | .accfree f => some (0xc3, 0, .ri f)
  | .aecfg f => some (0xc4, 0, .mf f)
  | .aego f => some (0xc5, 0, .ri f)
  | .aestop f => some (0xc6, 0, .ri f)
  | .role f => some (0xc7, 0, .ri f)
  | .tmap f => some (0xd0, 0, .rrr f)
  | .tmapf f => some (0xd1, 0, .ri f)
  | .mqma f => some (0xd2, 0, .rrr f)
  | .mqmas f => some (0xd3, 0, .rrr f)
  | .mzero f => some (0xd4, 0, .ri f)
  | .mload f => some (0xd5, 0, .mf f)
  | .mdrain f => some (0xd6, 0, .mf f)
  | .mdrainAdd f => some (0xd6, 1, .mf f)
  | .mwaita f => some (0xd7, 0, .ri f)
  | .attn k f => some (0xd8, k.sub, .rrr f)
  | .attnf f => some (0xd9, 0, .ri f)
  | .heaprd f => some (0xda, 0, .ri f)
  | .heaprdTopk f => some (0xda, 1, .ri f)
  | .heaprdTopp f => some (0xda, 2, .ri f)
  | .heapclr f => some (0xdb, 0, .ri f)
  | .copy k f => some (0xe0, k.sub, .mf f)
  | .gather f => some (0xe1, 0, .mf f)
  | .copyst f => some (0xe2, 0, .mf f)
  | .cbar f => some (0xe3, 0, .ri f)
  | .tlbinvPage f => some (0xe4, 0, .mf f)
  | .tlbinvAsid f => some (0xe4, 1, .mf f)
  | .tlbinvAll f => some (0xe4, 2, .mf f)
  | .slogctlQuery f => some (0xe5, 0, .ri f)
  | .slogctlDrain f => some (0xe5, 1, .ri f)
  | .dbar f => some (0xe8, 0, .ri f)
  | .tkwait f => some (0xe9, 0, .ri f)
  | .tkcommit f => some (0xea, 0, .ri f)
  | .lnch f => some (0xeb, 0, .mf f)
  | .lnchLast f => some (0xeb, 1, .mf f)
  | .gridbar f => some (0xec, 0, .ri f)
  | .dscale f => some (0xed, 0, .ri f)
  | .ttfork f => some (0xf0, 0, .rrr f)
  | .ttappend f => some (0xf1, 0, .rrr f)
  | .ttprune f => some (0xf2, 0, .rrr f)
  | .ttcommit f => some (0xf3, 0, .rrr f)
  | .ttwalk f => some (0xf4, 0, .rrr f)
  | .ttrefAttach f => some (0xf5, 0, .rrr f)
  | .ttrefDetach f => some (0xf5, 1, .rrr f)
  | .ttrefPin f => some (0xf5, 2, .rrr f)
  | .ttrefUnpin f => some (0xf5, 3, .rrr f)
  | .ttrefEvict f => some (0xf5, 4, .rrr f)
  | .ttqueryFree f => some (0xf6, 0, .rrr f)
  | .ttqueryReserve f => some (0xf6, 1, .rrr f)
  | .ttqueryState f => some (0xf6, 2, .rrr f)
  | .detok f => some (0xf7, 0, .rrr f)
  | .tokstep f => some (0xf8, 0, .rrr f)
  | .xfput f => some (0xf9, 0, .mf f)
  | .xfget f => some (0xfa, 0, .mf f)
  | .xfwork f => some (0xfb, 0, .mf f)
  | .xfred f => some (0xfc, 0, .mf f)
  | .xfsred f => some (0xfd, 0, .mf f)
  | .xffence f => some (0xfe, 0, .ri f)
  | .loadCompletion _ _
  | .accessRetirement _ _
  | .trapEntry _
  | .barrierTimeout _
  | .arrwaitTimeout _
  | .bartTimeout _ _
  | .groupWaitTimeout _
  | .hqWaitTimeout _
  | .accallocTimeout _
  | .aeStreamElement _
  | .quarterOpStart _
  | .tileTransferStart _
  | .engineOpCompletion _
  | .engineFault _
  | .attnCompletion _
  | .matrixBudgetPeriod _
  | .copyOpStart _ _
  | .copyCompletion _ _
  | .copyFault _ _
  | .sideLogRetryPass _
  | .teamPlacement _ _
  | .teamSlotRelease _
  | .waitingOpPerform _
  | .commitDrainEntry _
  | .millinerRequest _ _
  | .prunePageReturn _ _
  | .cancelDelivery _
  | .enqueueDoorbell _ _ _
  | .recordStart _ _
  | .gridCompletion _
  | .graphNodeActivation _ _ _
  | .graphNodeCompletion _ _ _
  | .ctxctlSave _ _
  | .contextWrite _
  | .ctxctlRestore _ _
  | .restoreCoreRelease _ _
  | .ctxctlKill _
  | .partctlApply _ _
  | .partctlClear _
  | .poolctlCreate _ _
  | .poolctlDestroy _ _
  | .poolctlReserve _ _ _
  | .prespWrite _
  | .hinvWrite _
  | .hostRegisterWrite _ _
  | .fabricMessageReceive _
  | .xfredResend _ _
  | .fabricCmplReceive _ _
  | .fabricCmplTimeout _
  | .flitCrcFailure _
  | .fxcfgTrain _
  | .snpInv _
  | .snpData _
  | .snpCur _
  | .go _ _ _
  | .goWritepull _
  | .writepull _
  | .cxlMemRequest _
  | .bisnpResponse _ _ _
  | .powerOn
  | .mailboxUpdate _ _
  | .mailboxUpdateEnd
  | .mailboxReset
  | .mailboxAbort
  | .attestationRequest _
  | .uncorrectableError _
  | .watchdogExpiry _
  | .activityBudgetPeriod
  | .thermalThreshold _
  | .dieOvertempCutoff _
  | .dirtyL1LineWriteback _ _
  | .scrub _
  | .powerLoss
  | .fabricPortUp _
  | .prqtailWrite _
  | .budgetLowering _ => none

/-- The major opcode; 0x100 for an event. -/
def Instr.opc (i : Instr) : Nat := match i.code with | some (o, _, _) => o | none => 0x100
/-- The minor opcode. -/
def Instr.sub (i : Instr) : Nat := match i.code with | some (_, s, _) => s | none => 0

/-- The pipes (R71, R93). -/
inductive Pipe where
  | x | y | u
  deriving DecidableEq, Repr

/-- R93. -/
def Instr.pipe (i : Instr) : Pipe :=
  let o := i.opc
  if 0xb0 ≤ o ∧ o ≤ 0xb6 then .u
  else if (0x01 ≤ o ∧ o ≤ 0x22 ∧ o ≠ 0x07 ∧ o ≠ 0x19) ∨ (0x30 ≤ o ∧ o ≤ 0x38) ∨ (0x42 ≤ o ∧ o ≤ 0x48) then .x
  else .y

/-- R93: the instructions that may stand in a pair. -/
def Instr.pairable (i : Instr) : Bool :=
  let o := i.opc
  i.pipe != .y || o == 0x00 || o == 0x07 || o == 0x19 || (decide (0x39 ≤ o) && decide (o ≤ 0x41))
    || (decide (0xa0 ≤ o) && decide (o ≤ 0xa6))

/-- R94: needs a group in its handler. -/
def Instr.privileged (i : Instr) : Bool :=
  match i with
  | .trapret _ | .tlbinvPage _ | .tlbinvAsid _ | .tlbinvAll _ | .slogctlDrain _ => true
  | .csrr f => decide (0x100 ≤ f.imm.toNat)
  | .csrw _ f => decide (0x100 ≤ f.imm.toNat)
  | _ => false

/-- R174: switch points whatever the predicate. -/
def Instr.switches (i : Instr) : Bool :=
  let o := i.opc
  (o == 0xb7 && i.sub == 0) || o == 0xb8 || o == 0xbb || o == 0x8c || o == 0xe9 || o == 0x6a || o == 0xe3 || o == 0xe8
    || o == 0xec

/-- R95: needs the matrix engine. -/
def Instr.matrix (i : Instr) : Bool := decide (0xd0 ≤ i.opc) && decide (i.opc ≤ 0xdb)

end Sys2Proof
end

