-- ==== Sys2Proof/Machine/FloatOps.lean ====
section
/-! DEFINITION. The floating-point operations of one lane (R117 to R121), conversions (R128, R129) and block formats
(R33 to R36, R130), on codes given as numbers. Every function answers the result code and the flags it raises. -/

namespace Sys2Proof.Machine

/-- The format of a floating type, scalar or packed (R106). -/
def Ty.fmt : Ty → Fmt
  | .f64 => fmtF64
  | .f16 => fmtF16
  | .bf16 => fmtBF16
  | .e5m2 => fmtE5M2
  | .e4m3 => fmtE4M3
  | .e3m2 => fmtE3M2
  | .e2m1 => fmtE2M1
  | .f16x2 => fmtF16
  | .bf16x2 => fmtBF16
  | _ => fmtF32

def Ty.packed : Ty → Bool
  | .f16x2 => true
  | .bf16x2 => true
  | _ => false

/-- `.ABSx` then `.NEGx` on an operand's bits (R117). -/
def absNeg (f : Fmt) (ab ng : Bool) (c : Nat) : Nat :=
  let c := c % 2 ^ f.w
  let c := if ab then c % 2 ^ (f.w - 1) else c
  if ng then c ^^^ 2 ^ (f.w - 1) else c

/-- Modifiers of an arithmetic operation (R117). -/
structure FpMod where
  rm : RM
  ftz : Bool
  sat : Bool
  deriving DecidableEq, Repr

def fpAdd (f : Fmt) (m : FpMod) (a b : Nat) : Nat × Flags :=
  let (x, fl) := xadd m.rm (f.val (ftzIn f m.ftz a)) (f.val (ftzIn f m.ftz b))
  let r := ftzOut f m.ftz (rnd f m.rm m.sat x)
  (r.1, fl ||| r.2)

def fpMul (f : Fmt) (m : FpMod) (a b : Nat) : Nat × Flags :=
  let (x, fl) := fvMul (f.val (ftzIn f m.ftz a)) (f.val (ftzIn f m.ftz b))
  let r := ftzOut f m.ftz (rnd f m.rm m.sat x.toXR)
  (r.1, fl ||| r.2)

/-- R117: 0 × ∞ raises NV even beside a quiet NaN. -/
def fpFma (f : Fmt) (m : FpMod) (a b c : Nat) : Nat × Flags :=
  let (p, fl) := fvMul (f.val (ftzIn f m.ftz a)) (f.val (ftzIn f m.ftz b))
  let (x, fl') := xadd m.rm p (f.val (ftzIn f m.ftz c))
  let r := ftzOut f m.ftz (rnd f m.rm m.sat x)
  (r.1, fl ||| fl' ||| r.2)

/-- The order of two operands that are no NaN; equal for the two zeros. -/
def fvCmp (a b : FV) : Ordering :=
  match a, b with
  | .inf x, .inf y => if x == y then .eq else if x then .lt else .gt
  | .inf x, _ => if x then .lt else .gt
  | _, .inf y => if y then .gt else .lt
  | a, b => Dy.cmp a.dy b.dy

/-- R118: FMIN (`wantMax` false) and FMAX. -/
def fpMinMax (f : Fmt) (wantMax ftz : Bool) (a b : Nat) : Nat × Flags :=
  let a := ftzIn f ftz (a % 2 ^ f.w)
  let b := ftzIn f ftz (b % 2 ^ f.w)
  let x := f.val a
  let y := f.val b
  let fl := flIf (x.isSig || y.isSig) flNV
  if x.isNan && y.isNan then (f.nanCode, fl)
  else if x.isNan then (b, fl)
  else if y.isNan then (a, fl)
  else
    let aLess : Bool :=
      match fvCmp x y with
      | .lt => true
      | .gt => false
      | .eq => x.neg
    (if aLess != wantMax then a else b, fl)

/-- R119: the comparison and its flags. -/
def fpCmp (f : Fmt) (cc : Fcc) (ftz : Bool) (a b : Nat) : Bool × Flags :=
  let x := f.val (ftzIn f ftz (a % 2 ^ f.w))
  let y := f.val (ftzIn f ftz (b % 2 ^ f.w))
  let un := x.isNan || y.isNan
  let o := fvCmp x y
  let sig := x.isSig || y.isSig
  match cc with
  | .eq => (!un && o == .eq, flIf sig flNV)
  | .ne => (un || o != .eq, flIf sig flNV)
  | .lt => (!un && o == .lt, flIf un flNV)
  | .le => (!un && o != .gt, flIf un flNV)
  | .gt => (!un && o == .gt, flIf un flNV)
  | .ge => (!un && o != .lt, flIf un flNV)
  | .un => (un, flIf sig flNV)
  | .ord => (!un, flIf sig flNV)

/-- R120. -/
def fpClass (f : Fmt) (a : Nat) : Nat :=
  let a := a % 2 ^ f.w
  match f.val a with
  | .nan s => if s then 2 ^ 8 else 2 ^ 9
  | .inf n => if n then 1 else 2 ^ 7
  | .zero n => if n then 2 ^ 3 else 2 ^ 4
  | .num v =>
    if f.isSub a then (if v.m < 0 then 2 ^ 2 else 2 ^ 5) else (if v.m < 0 then 2 ^ 1 else 2 ^ 6)

/-- FSCALE of R117: one rounding of A × 2^B. -/
def fpScale (f : Fmt) (m : FpMod) (a b : Nat) : Nat × Flags :=
  match f.val (ftzIn f m.ftz (a % 2 ^ f.w)) with
  | .nan s => (f.nanCode, flIf s flNV)
  | .inf n => rnd f m.rm m.sat (.inf n)
  | .zero n => rnd f m.rm m.sat (.zero n)
  | .num v => ftzOut f m.ftz (rnd f m.rm m.sat (XR.ofDy ⟨v.m, v.e + signed 32 b⟩ false))

/-- FRND of R117: the sign of A is kept by a zero result. -/
def fpRound (f : Fmt) (rm : RM) (a : Nat) : Nat × Flags :=
  match f.val (a % 2 ^ f.w) with
  | .nan s => (f.nanCode, flIf s flNV)
  | .inf n => rnd f rm false (.inf n)
  | .zero n => rnd f rm false (.zero n)
  | .num v =>
    let (n, _) := roundAt rm (v.m < 0) v.m.natAbs v.e false 0
    ((rnd f rm false (if n = 0 then .zero (v.m < 0) else .val (v.m < 0) n 0 false)).1, 0)

/-- FDIV of R121. -/
def fpDiv (f : Fmt) (m : FpMod) (a b : Nat) : Nat × Flags :=
  let x := f.val (ftzIn f m.ftz (a % 2 ^ f.w))
  let y := f.val (ftzIn f m.ftz (b % 2 ^ f.w))
  let sg := x.neg != y.neg
  let fl := flIf (x.isSig || y.isSig) flNV
  let out (z : XR) (e : Flags) : Nat × Flags :=
    let r := ftzOut f m.ftz (rnd f m.rm m.sat z)
    (r.1, e ||| r.2)
  match x, y with
  | .nan _, _ => (f.nanCode, fl)
  | _, .nan _ => (f.nanCode, fl)
  | .inf _, .inf _ => (f.nanCode, flNV)
  | .zero _, .zero _ => (f.nanCode, flNV)
  | .inf _, _ => out (.inf sg) 0
  | _, .inf _ => out (.zero sg) 0
  | .zero _, _ => out (.zero sg) 0
  | _, .zero _ => out (.inf sg) flDZ
  | .num u, .num v => out (xquot (f.mb + 4) sg u v) 0

/-- FSQRT of R121. -/
def fpSqrt (f : Fmt) (m : FpMod) (a : Nat) : Nat × Flags :=
  match f.val (ftzIn f m.ftz (a % 2 ^ f.w)) with
  | .nan s => (f.nanCode, flIf s flNV)
  | .inf n => if n then (f.nanCode, flNV) else rnd f m.rm m.sat (.inf false)
  | .zero n => rnd f m.rm m.sat (.zero n)
  | .num v => if v.m < 0 then (f.nanCode, flNV) else ftzOut f m.ftz (rnd f m.rm m.sat (xsqrt (f.mb + 4) v))

/-- An operation of a type: once for a scalar, on both elements for a packed type (R25, R117). -/
def byElem1 (t : Ty) (g : Fmt → Nat → Nat × Flags) (a : Nat) : Nat × Flags :=
  let f := Ty.fmt t
  if Ty.packed t then
    let lo := g f (a % 65536)
    let hi := g f (a / 65536 % 65536)
    (lo.1 + hi.1 * 65536, lo.2 ||| hi.2)
  else g f (a % 2 ^ f.w)
@[inherit_doc byElem1] def byElem2 (t : Ty) (g : Fmt → Nat → Nat → Nat × Flags) (a b : Nat) : Nat × Flags :=
  let f := Ty.fmt t
  if Ty.packed t then
    let lo := g f (a % 65536) (b % 65536)
    let hi := g f (a / 65536 % 65536) (b / 65536 % 65536)
    (lo.1 + hi.1 * 65536, lo.2 ||| hi.2)
  else g f (a % 2 ^ f.w) (b % 2 ^ f.w)
@[inherit_doc byElem1] def byElem3 (t : Ty) (g : Fmt → Nat → Nat → Nat → Nat × Flags) (a b c : Nat) : Nat × Flags :=
  let f := Ty.fmt t
  if Ty.packed t then
    let lo := g f (a % 65536) (b % 65536) (c % 65536)
    let hi := g f (a / 65536 % 65536) (b / 65536 % 65536) (c / 65536 % 65536)
    (lo.1 + hi.1 * 65536, lo.2 ||| hi.2)
  else g f (a % 2 ^ f.w) (b % 2 ^ f.w) (c % 2 ^ f.w)

/-- Element `pos` of a lane (R128). -/
def elemAt (t : Ty) (pos x : Nat) : Nat :=
  let pitch := if t.bits == 6 then 8 else t.bits
  (x >>> (pitch * pos)) % 2 ^ t.bits

/-- Place an element at a position of the merge operand (R128); an E3M2 code fills its whole byte (R32). -/
def elemPut (t : Ty) (pos base x : Nat) : Nat :=
  let pitch := if t.bits == 6 then 8 else t.bits
  setField base (pitch * pos) pitch x

/-- CVT of one code (R41, R42, R128): at least one type is floating. -/
def cvtCode (dt st : Ty) (rm : RM) (sat : Bool) (x : Nat) : Nat × Flags :=
  if st.isFloat then
    let v := (Ty.fmt st).val x
    if dt.isFloat then
      let r := rnd (Ty.fmt dt) rm sat v.toXR
      (r.1, r.2 ||| flIf v.isSig flNV)
    else fvToInt rm dt.isSigned dt.bits v
  else intToFmt (Ty.fmt dt) rm sat (intVal st.isSigned st.bits x)

/-- CVTI of one code (R42): widening extends; otherwise wraps, or saturates with `.SAT` and sets IS. -/
def cvtInt (dt st : Ty) (sat : Bool) (x : Nat) : Nat × Flags :=
  let v := intVal st.isSigned st.bits x
  if sat then
    let (c, out) := clamp v (intMin dt.isSigned dt.bits) (intMax dt.isSigned dt.bits)
    (wrap dt.bits c, flIf out flIS)
  else (wrap dt.bits v, 0)

/-- CVTSR of one code (R129) with the random word `r`. -/
def cvtStoch (dt st : Ty) (sat : Bool) (x r : Nat) : Nat × Flags :=
  let f := Ty.fmt dt
  match (Ty.fmt st).val x with
  | .num v =>
    let neg : Bool := v.m < 0
    let m := v.m.natAbs
    let q := max ((bitLen m : Int) + v.e - 1 - f.mb) f.sub
    let n0 := (roundAt .rz neg m v.e false q).1
    let g := (roundAt .rz neg m v.e false (q - 32)).1 % 2 ^ 32
    let up := decide (2 ^ 32 ≤ g + r)
    let n := if up then n0 + 1 else n0
    let inexact := up || (roundAt .rz neg m v.e false q).2
    if f.exceeds n q then (overflowCode f .rne sat neg, flOF ||| flNX)
    else
      let tiny := decide (n ≠ 0) && decide ((bitLen n : Int) + q - 1 < f.emin)
      (f.codeOf neg n q, flIf inexact flNX ||| flIf (tiny && inexact) flUF)
  | v =>
    let z := rnd f .rne sat v.toXR
    (z.1, z.2 ||| flIf v.isSig flNV)

/-- The element format of a block type (R34). -/
def bxFmt : Ty → Fmt
  | .x4e4 => fmtE4M3
  | _ => fmtE2M1

/-- EMAX of R34. -/
def bxMax : Ty → Nat
  | .x4e2 => 6
  | .x4e4 => 448
  | _ => 127

/-- The value of an input of BXPACK (R130). -/
def bxIn (st : Ty) (x : Nat) : FV :=
  if st == .i32 then
    let v := signed 32 x
    if v = 0 then .zero false else .num (Dy.ofInt v)
  else fmtF32.val (x % 2 ^ 32)

/-- The magnitude of an exact value, scaled to a common exponent, for comparison. -/
def dyAbsMax (a b : Dy) : Dy :=
  let x : Dy := ⟨a.m.natAbs, a.e⟩
  let y : Dy := ⟨b.m.natAbs, b.e⟩
  if Dy.cmp x y == .lt then y else x

/-- BX_SCALE of R36: the 24-bit scale and its flags. -/
def bxScale (t : Ty) (xs : List FV) : Nat × Flags :=
  if xs.any fun v => v.isNan || v.isInf then (0xff0000, flNV)
  else
    let a := xs.foldl (fun acc v => dyAbsMax acc v.dy) Dy.zero
    if a.m = 0 then (0, 0)
    else
      let em := bxMax t
      let m := a.m.natAbs
      if Dy.cmp a ⟨em, -126⟩ != .gt then (0x010000, 0)
      else
        let d : Int := (bitLen m : Int) - bitLen em
        let l : Int := if em * pow2 d ≤ m * pow2 (-d) then d else d - 1
        let e : Int := l + a.e + 127
        let num := m * pow2 (16 + 128 - l)
        let den := em * 2 ^ 128
        let mm := (num + den - 1) / den - 65536
        let (e, mm) := if mm = 65536 then (e + 1, 0) else (e, mm)
        if 254 < e then (0xfeffff, flOF) else (e.toNat * 65536 + mm, 0)

/-- The scale's value for 1 ≤ e ≤ 254 (R33). -/
def s24Val (s : Nat) : Dy := ⟨(65536 + s % 65536 : Nat), ((s / 65536 % 256 : Nat) : Int) - 127 - 16⟩
def s24Exp (s : Nat) : Nat := s / 65536 % 256

/-- One element code of BXPACK.EL (R36, R130) under scale `s`. -/
def bxElem (t : Ty) (s : Nat) (v : FV) : Nat × Flags :=
  if s24Exp s = 0 || s24Exp s = 255 then (0, 0)
  else
    let f := bxFmt t
    let isI8 := t == .x4i8
    match v with
    | .nan _ => (if t == .x4e4 then 0x7f else 0, flNV)
    | .inf n => (if isI8 then wrap 8 (if n then -127 else 127) else f.sign n f.largest, flNV)
    | .zero n => (if isI8 then 0 else f.sign n 0, 0)
    | .num d =>
      match xquot 40 (d.m < 0) d (s24Val s) with
      | .val neg m e st =>
        if isI8 then
          let (n, x) := roundAt .rne neg m e st 0
          if 127 < n then (wrap 8 (if neg then -127 else 127), flIS ||| flIf x flNX)
          else (wrap 8 (if neg then -(n : Int) else n), flIf x flNX)
        else
          let r := rnd f .rne true (.val neg m e st)
          (r.1, r.2 &&& ~~~flUF)
      | _ => (0, 0)

/-- The value of an element under its scale (R34). -/
def bxVal (t : Ty) (s code : Nat) : FV :=
  if s24Exp s = 0 then .zero false
  else if s24Exp s = 255 then .nan false
  else
    let v : FV :=
      if t == .x4i8 then
        let n := signed 8 code
        if n = 0 then .zero false else .num (Dy.ofInt n)
      else (bxFmt t).val code
    match v with
    | .num d => .num (d.mul (s24Val s))
    | v => v

/-- BXPACK of one lane (R130): `el` selects PART. -/
def bxPackLane (dt st : Ty) (el : Bool) (a b : Nat) : Nat × Flags :=
  let xs := (List.range 4).map fun q => bxIn st (a >>> (32 * q))
  if el then
    let w := if dt == .x4e2 then 4 else 8
    (xs.zipIdx).foldl (fun r p =>
      let e := bxElem dt (b % 2 ^ 24) p.1
      (r.1 + e.1 * 2 ^ (w * p.2), r.2 ||| e.2)) (0, 0)
  else bxScale dt xs

/-- BXUNP of one lane (R130). -/
def bxUnpLane (dt st : Ty) (q : Nat) (rm : RM) (a b : Nat) : Nat × Flags :=
  let w := if st == .x4e2 then 4 else 8
  let v := bxVal st (b % 2 ^ 24) ((a >>> (w * q)) % 2 ^ w)
  if dt == .i32 then fvToInt rm true 32 v else rnd (Ty.fmt dt) rm false v.toXR

end Sys2Proof.Machine
end

