-- ==== Sys2Proof/WellFormed.lean ====
section
/-! DEFINITION. Well-formed instructions: the static part of check 6 of R79. The register bounds of R68 depend on the team and are
checked at issue. -/

namespace Sys2Proof

/-- R59 to R64, R107, R108 and the constraints of the instruction's entry: the operand part of check 6 of R79. -/
def Instr.wf (i : Instr) : Bool :=
  let h := i.shape
  h.srcsOk && h.kd.admits h.dst && h.ok && h.quadsApart i.skipsD

end Sys2Proof
end

