-- ==== Sys2Proof/Decode.lean ====
section
/-! DEFINITION. Decoding of slots and of line words (R48 to R63, R80), and the encoder written from the same tables. -/

namespace Sys2Proof

/-- What a slot decodes to: an instruction, or the fate of R80. -/
inductive Decoded where
  | ok (i : Instr)
  | illop
  | illfmt
  deriving DecidableEq, Repr

/-- Field [lo + w − 1 : lo] of a number. -/
def field (x lo w : Nat) : Nat := x / 2 ^ lo % 2 ^ w

/-- A source operand field (R60, R61); none for the encodings of R80. -/
def Src.ofBits (x : Nat) : Option Src :=
  let idx := field x 0 8
  let dead := field x 8 1 == 1
  let fe := field x 9 1 == 1
  match field x 10 2 with
  | 0 => some (.file (BitVec.ofNat 8 idx) fe dead)
  | 1 => if idx < 8 then some (.cuff (BitVec.ofNat 3 idx) fe dead) else none
  | 2 => if idx < 2 && !dead then some (.brim (idx == 1) fe) else none
  | _ =>
    if dead then none
    else if idx < 64 then (if fe then none else some (.uni (BitVec.ofNat 6 idx)))
    else if idx < 128 then (if fe then none else some (.const (BitVec.ofNat 6 (idx - 64))))
    else if idx < 136 then some (.loopq (BitVec.ofNat 3 (idx - 128)) fe)
    else if idx = 255 then (if fe then none else some .zero)
    else none

/-- The field of a source (R60, R61). -/
def Src.toBits : Src → Nat
  | .file n fe dead => n.toNat + 256 * dead.toNat + 512 * fe.toNat
  | .cuff k fe dead => k.toNat + 256 * dead.toNat + 512 * fe.toNat + 1024
  | .brim y fe => y.toNat + 512 * fe.toNat + 2048
  | .uni n => n.toNat + 3072
  | .const k => k.toNat + 64 + 3072
  | .loopq k fe => k.toNat + 128 + 512 * fe.toNat + 3072
  | .zero => 255 + 3072

/-- A destination field (R63). -/
def Dst.ofBits (x : Nat) : Dst :=
  ⟨BitVec.ofNat 8 (field x 0 8), field x 8 1 == 1, field x 9 1 == 1, BitVec.ofNat 3 (field x 10 3)⟩
@[inherit_doc Dst.ofBits] def Dst.toBits (d : Dst) : Nat :=
  d.index.toNat + 256 * d.nf.toNat + 512 * d.cw.toNat + 1024 * d.cslot.toNat

/-- A predicate field (R55). -/
def Pred.ofBits (x : Nat) : Pred := ⟨field x 3 1 == 1, BitVec.ofNat 3 (field x 0 3)⟩
@[inherit_doc Pred.ofBits] def Pred.toBits (p : Pred) : Nat := p.num.toNat + 8 * p.neg.toNat

/-- The payloads of the four formats (R57); none where an operand field names nothing. -/
def RRR.ofBits (x : Nat) : Option RRR :=
  match Src.ofBits (field x 29 12), Src.ofBits (field x 41 12), Src.ofBits (field x 53 12) with
  | some a, some b, some c =>
    some ⟨Pred.ofBits (field x 8 4), Dst.ofBits (field x 16 13), a, b, c, BitVec.ofNat 31 (field x 65 31)⟩
  | _, _, _ => none
@[inherit_doc RRR.ofBits] def RI.ofBits (x : Nat) : Option RI :=
  match Src.ofBits (field x 29 12), Src.ofBits (field x 41 12) with
  | some a, some b =>
    some ⟨Pred.ofBits (field x 8 4), Dst.ofBits (field x 16 13), a, b, BitVec.ofNat 11 (field x 53 11),
      BitVec.ofNat 32 (field x 64 32)⟩
  | _, _ => none
@[inherit_doc RRR.ofBits] def MF.ofBits (x : Nat) : Option MF :=
  match Src.ofBits (field x 29 12), Src.ofBits (field x 41 12) with
  | some a, some b =>
    some ⟨Pred.ofBits (field x 8 4), Dst.ofBits (field x 16 13), a, b, BitVec.ofNat 11 (field x 53 11),
      BitVec.ofNat 32 (field x 64 32)⟩
  | _, _ => none
@[inherit_doc RRR.ofBits] def BF.ofBits (x : Nat) : Option BF :=
  match Src.ofBits (field x 29 12) with
  | some a =>
    if field x 41 23 = 0 then
      some ⟨Pred.ofBits (field x 8 4), Dst.ofBits (field x 16 13), a, BitVec.ofNat 3 (field x 64 3),
        BitVec.ofNat 29 (field x 67 29)⟩
    else none
  | none => none

/-- The slot of a payload under an opcode (R57). -/
def Payload.toBits (p : Payload) (opc sub : Nat) : Nat :=
  match p with
  | .rrr f => opc + 2 ^ 8 * f.pred.toBits + 2 ^ 12 * sub + 2 ^ 16 * f.dst.toBits + 2 ^ 29 * f.sa.toBits
      + 2 ^ 41 * f.sb.toBits + 2 ^ 53 * f.sc.toBits + 2 ^ 65 * f.mod.toNat
  | .ri f => opc + 2 ^ 8 * f.pred.toBits + 2 ^ 12 * sub + 2 ^ 16 * f.dst.toBits + 2 ^ 29 * f.sa.toBits
      + 2 ^ 41 * f.sb.toBits + 2 ^ 53 * f.mod.toNat + 2 ^ 64 * f.imm.toNat
  | .mf f => opc + 2 ^ 8 * f.pred.toBits + 2 ^ 12 * sub + 2 ^ 16 * f.dst.toBits + 2 ^ 29 * f.sa.toBits
      + 2 ^ 41 * f.sb.toBits + 2 ^ 53 * f.mod.toNat + 2 ^ 64 * f.off.toNat
  | .bf f => opc + 2 ^ 8 * f.pred.toBits + 2 ^ 12 * sub + 2 ^ 16 * f.dst.toBits + 2 ^ 29 * f.sa.toBits
      + 2 ^ 64 * f.slot.toNat + 2 ^ 67 * f.line.toNat

/-- The slot of an instruction (R57); zero for an event, which has no encoding. -/
def encode (i : Instr) : Slot :=
  match i.code with
  | some (o, s, p) => BitVec.ofNat 96 (p.toBits o s)
  | none => 0

/-- How the payload of an opcode is read. -/
inductive OpForm where
  | rrr (mk : RRR → Instr)
  | ri (mk : RI → Instr)
  | mf (mk : MF → Instr)
  | bf (mk : BF → Instr)

/-- The assigned (OPC, SUB) pairs (R90, R96); none traps ILLOP. -/
def opForm (opc sub : Nat) : Option OpForm :=
  match opc with
  | 0x00 => if sub = 0 then some (.rrr .nop) else none
  | 0x01 => if sub = 0 then some (.rrr .iadd) else none
  | 0x02 => if sub = 0 then some (.ri .iaddi) else none
  | 0x03 => if sub = 0 then some (.rrr .isub) else none
  | 0x04 => if sub = 0 then some (.rrr .imul) else none
  | 0x05 => if sub = 0 then some (.rrr .imulh) else none
  | 0x06 => if sub = 0 then some (.rrr .imad) else none
  | 0x07 => if sub = 0 then some (.rrr .idiv) else none
  | 0x08 => if sub = 0 then some (.rrr .imin) else none
  | 0x09 => if sub = 0 then some (.rrr .imax) else none
  | 0x0a => if sub = 0 then some (.rrr .iabs) else none
  | 0x0b => (Cc.ofSub sub).map fun k => .rrr (.icmp k)
  | 0x0c => (Cc.ofSub sub).map fun k => .ri (.icmpi k)
  | 0x0d => if sub = 0 then some (.rrr .lop3) else none
  | 0x0e => if sub = 0 then some (.ri .lopi) else none
  | 0x0f => (ShiftKind.ofSub sub).map fun k => .rrr (.shf k)
  | 0x10 => (ShiftKind.ofSub sub).map fun k => .ri (.shfi k)
  | 0x11 => if sub = 0 then some (.rrr .bfe) else none
  | 0x12 => if sub = 0 then some (.rrr .bfi) else none
  | 0x13 => if sub = 0 then some (.rrr .popc) else none
  | 0x14 => if sub = 0 then some (.rrr .clz) else none
  | 0x15 => if sub = 0 then some (.rrr .brev) else none
  | 0x16 => if sub = 0 then some (.rrr .sel) else none
  | 0x17 => if sub = 0 then some (.rrr .mov) else none
  | 0x18 => if sub = 0 then some (.ri .movi) else none
  | 0x19 => if sub = 0 then some (.ri .movsr) else none
  | 0x1a => if sub = 0 then some (.rrr .add64) else none
  | 0x1b => if sub = 0 then some (.ri .add64i) else none
  | 0x1c => if sub = 0 then some (.rrr .mad64) else none
  | 0x1d => if sub = 0 then some (.rrr .lea) else none
  | 0x1e => (Cc.ofSub sub).map fun k => .rrr (.cmp64 k)
  | 0x1f => if sub = 0 then some (.rrr .pset) else none
  | 0x20 => if sub = 0 then some (.rrr .pmov) else none
  | 0x21 => if sub = 0 then some (.rrr .idot4) else none
  | 0x22 => if sub = 0 then some (.rrr .prmt) else none
  | 0x30 => if sub = 0 then some (.rrr .fadd) else none
  | 0x31 => if sub = 0 then some (.rrr .fmul) else none
  | 0x32 => if sub = 0 then some (.rrr .ffma) else none
  | 0x33 => if sub = 0 then some (.rrr .fmin) else none
  | 0x34 => if sub = 0 then some (.rrr .fmax) else none
  | 0x35 => (Fcc.ofSub sub).map fun k => .rrr (.fcmp k)
  | 0x36 => if sub = 0 then some (.rrr .fclass) else none
  | 0x37 => if sub = 0 then some (.rrr .fscale) else none
  | 0x38 => if sub = 0 then some (.rrr .frnd) else none
  | 0x39 => if sub = 0 then some (.rrr .fdiv) else none
  | 0x3a => if sub = 0 then some (.rrr .fsqrt) else none
  | 0x3b => if sub = 0 then some (.rrr .frcp) else none
  | 0x3c => if sub = 0 then some (.rrr .frsq) else none
  | 0x3d => if sub = 0 then some (.rrr .fexp2) else none
  | 0x3e => if sub = 0 then some (.rrr .flog2) else none
  | 0x3f => if sub = 0 then some (.rrr .fsin) else none
  | 0x40 => if sub = 0 then some (.rrr .fcos) else none
  | 0x41 => if sub = 0 then some (.rrr .ftanh) else none
  | 0x42 => if sub = 0 then some (.rrr .cvt) else none
  | 0x43 => if sub = 0 then some (.rrr .cvti) else none
  | 0x44 => if sub = 0 then some (.rrr .cvtsr) else none
  | 0x45 => if sub = 0 then some (.rrr .bxpack) else none
  | 0x46 => if sub = 0 then some (.rrr .bxunp) else none
  | 0x47 => if sub = 0 then some (.ri .faddi) else none
  | 0x48 => if sub = 0 then some (.ri .fmuli) else none
  | 0x49 => if sub = 0 then some (.rrr .rngdraw) else none
  | 0x4a => if sub = 0 then some (.rrr .rngskip) else none
  | 0x60 => if sub = 0 then some (.bf .bra) else none
  | 0x61 => (UTest.ofSub sub).map fun k => .bf (.brau k)
  | 0x62 => if sub = 0 then some (.bf .brx) else none
  | 0x63 => if sub = 0 then some (.bf .call) else none
  | 0x64 => if sub = 0 then some (.bf .callx) else none
  | 0x65 => if sub = 0 then some (.bf .ret) else none
  | 0x66 => if sub = 0 then some (.bf .loopu) else none
  | 0x67 => if sub = 0 then some (.rrr .exit) else none
  | 0x68 => if sub = 0 then some (.ri .trap) else none
  | 0x69 => if sub = 0 then some (.rrr .trapret) else none
  | 0x6a => if sub = 0 then some (.rrr .yield) else none
  | 0x6b => if sub = 0 then some (.ri .csrr) else none
  | 0x6c => (CsrOp.ofSub sub).map fun k => .ri (.csrw k)
  | 0x6d => if sub = 0 then some (.ri .bkpt) else none
  | 0x80 => if sub = 0 then some (.mf .ld) else none
  | 0x81 => if sub = 0 then some (.mf .st) else none
  | 0x82 => if sub = 0 then some (.mf .lds) else none
  | 0x83 => if sub = 0 then some (.mf .sts) else none
  | 0x84 => if sub = 0 then some (.mf .ldu) else none
  | 0x85 => (AtomOp.ofSub sub).map fun k => .mf (.atom k)
  | 0x86 => if sub = 6 then none else (AtomOp.ofSub sub).map fun k => .mf (.red k)
  | 0x87 => (AtomOp.ofSub sub).map fun k => .mf (.atoms k)
  | 0x88 => if sub = 0 then some (.mf .cas) else none
  | 0x89 => (PrefLevel.ofSub sub).map fun k => .mf (.pref k)
  | 0x8a => (FenceKind.ofSub sub).map fun k => .mf (.fence k)
  | 0x8b => if sub = 0 then some (.mf .racq) else none
  | 0x8c => (Timed.ofSub sub).map fun k => .mf (.mwait k)
  | 0xa0 => (ShflKind.ofSub sub).map fun k => .rrr (.shfl k)
  | 0xa1 => (VoteKind.ofSub sub).map fun k => .rrr (.vote k)
  | 0xa2 => (ScanKind.ofSub sub).map fun k => .rrr (.scan k)
  | 0xa3 => if sub = 0 then some (.rrr .gred) else none
  | 0xa4 => match sub with
    | 0 => some (.rrr .fmaxi)
    | 1 => some (.rrr .fmini)
    | _ => none
  | 0xa5 => if sub = 0 then some (.rrr .sample) else none
  | 0xa6 => (MatchKind.ofSub sub).map fun k => .rrr (.matchLanes k)
  | 0xa7 => if sub = 0 then some (.rrr .lser) else none
  | 0xa8 => if sub = 0 then some (.rrr .lsend) else none
  | 0xa9 => if sub = 0 then some (.rrr .rehome) else none
  | 0xaa => if sub = 0 then some (.ri .lfsrset) else none
  | 0xab => if sub = 0 then some (.rrr .gjoin) else none
  | 0xb0 => if sub = 0 then some (.ri .umov) else none
  | 0xb1 => if sub = 0 then some (.ri .uadd) else none
  | 0xb2 => if sub = 0 then some (.rrr .umad) else none
  | 0xb3 => if sub = 0 then some (.rrr .ulop3) else none
  | 0xb4 => if sub = 0 then some (.ri .ushf) else none
  | 0xb5 => if sub = 0 then some (.ri .ucmp) else none
  | 0xb6 => if sub = 0 then some (.ri .uown) else none
  | 0xb7 => match sub with
    | 0 => some (.ri .barSync)
    | 1 => some (.ri .barArv)
    | _ => none
  | 0xb8 => if sub = 0 then some (.ri .bart) else none
  | 0xb9 => if sub = 0 then some (.mf .arrinit) else none
  | 0xba => if sub = 0 then some (.mf .arradd) else none
  | 0xbb => (Timed.ofSub sub).map fun k => .mf (.arrwait k)
  | 0xbc => if sub = 0 then some (.ri .hqinit) else none
  | 0xbd => if sub = 0 then some (.rrr .hqpush) else none
  | 0xbe => if sub = 0 then some (.rrr .hqpop) else none
  | 0xbf => if sub = 0 then some (.ri .hqallow) else none
  | 0xc0 => if sub = 0 then some (.ri .lqcfg) else none
  | 0xc1 => if sub = 0 then some (.ri .bankmode) else none
  | 0xc2 => if sub = 0 then some (.ri .accalloc) else none
  | 0xc3 => if sub = 0 then some (.ri .accfree) else none
  | 0xc4 => if sub = 0 then some (.mf .aecfg) else none
  | 0xc5 => if sub = 0 then some (.ri .aego) else none
  | 0xc6 => if sub = 0 then some (.ri .aestop) else none
  | 0xc7 => if sub = 0 then some (.ri .role) else none
  | 0xd0 => if sub = 0 then some (.rrr .tmap) else none
  | 0xd1 => if sub = 0 then some (.ri .tmapf) else none
  | 0xd2 => if sub = 0 then some (.rrr .mqma) else none
  | 0xd3 => if sub = 0 then some (.rrr .mqmas) else none
  | 0xd4 => if sub = 0 then some (.ri .mzero) else none
  | 0xd5 => if sub = 0 then some (.mf .mload) else none
  | 0xd6 => match sub with
    | 0 => some (.mf .mdrain)
    | 1 => some (.mf .mdrainAdd)
    | _ => none
  | 0xd7 => if sub = 0 then some (.ri .mwaita) else none
  | 0xd8 => (AttnMask.ofSub sub).map fun k => .rrr (.attn k)
  | 0xd9 => if sub = 0 then some (.ri .attnf) else none
  | 0xda => match sub with
    | 0 => some (.ri .heaprd)
    | 1 => some (.ri .heaprdTopk)
    | 2 => some (.ri .heaprdTopp)
    | _ => none
  | 0xdb => if sub = 0 then some (.ri .heapclr) else none
  | 0xe0 => (CopyDims.ofSub sub).map fun k => .mf (.copy k)
  | 0xe1 => if sub = 0 then some (.mf .gather) else none
  | 0xe2 => if sub = 0 then some (.mf .copyst) else none
  | 0xe3 => if sub = 0 then some (.ri .cbar) else none
  | 0xe4 => match sub with
    | 0 => some (.mf .tlbinvPage)
    | 1 => some (.mf .tlbinvAsid)
    | 2 => some (.mf .tlbinvAll)
    | _ => none
  | 0xe5 => match sub with
    | 0 => some (.ri .slogctlQuery)
    | 1 => some (.ri .slogctlDrain)
    | _ => none
  | 0xe8 => if sub = 0 then some (.ri .dbar) else none
  | 0xe9 => if sub = 0 then some (.ri .tkwait) else none
  | 0xea => if sub = 0 then some (.ri .tkcommit) else none
  | 0xeb => match sub with
    | 0 => some (.mf .lnch)
    | 1 => some (.mf .lnchLast)
    | _ => none
  | 0xec => if sub = 0 then some (.ri .gridbar) else none
  | 0xed => if sub = 0 then some (.ri .dscale) else none
  | 0xf0 => if sub = 0 then some (.rrr .ttfork) else none
  | 0xf1 => if sub = 0 then some (.rrr .ttappend) else none
  | 0xf2 => if sub = 0 then some (.rrr .ttprune) else none
  | 0xf3 => if sub = 0 then some (.rrr .ttcommit) else none
  | 0xf4 => if sub = 0 then some (.rrr .ttwalk) else none
  | 0xf5 => match sub with
    | 0 => some (.rrr .ttrefAttach)
    | 1 => some (.rrr .ttrefDetach)
    | 2 => some (.rrr .ttrefPin)
    | 3 => some (.rrr .ttrefUnpin)
    | 4 => some (.rrr .ttrefEvict)
    | _ => none
  | 0xf6 => match sub with
    | 0 => some (.rrr .ttqueryFree)
    | 1 => some (.rrr .ttqueryReserve)
    | 2 => some (.rrr .ttqueryState)
    | _ => none
  | 0xf7 => if sub = 0 then some (.rrr .detok) else none
  | 0xf8 => if sub = 0 then some (.rrr .tokstep) else none
  | 0xf9 => if sub = 0 then some (.mf .xfput) else none
  | 0xfa => if sub = 0 then some (.mf .xfget) else none
  | 0xfb => if sub = 0 then some (.mf .xfwork) else none
  | 0xfc => if sub = 0 then some (.mf .xfred) else none
  | 0xfd => if sub = 0 then some (.mf .xfsred) else none
  | 0xfe => if sub = 0 then some (.ri .xffence) else none
  | _ => none

/-- Block types in a conversion that admits none of them, as the result of BXUNP and as the source of BXPACK (R42, R128, R130):
ILLOP. -/
def bxTypeIllop (i : Instr) : Bool :=
  match i with
  | .cvt f => (modTy f.mod).isBx || (modSty f.mod).isBx
  | .cvti f => (modTy f.mod).isBx || (modSty f.mod).isBx
  | .cvtsr f => (modTy f.mod).isBx || (modSty f.mod).isBx
  | .bxunp f => (modTy f.mod).isBx
  | .bxpack f => (modSty f.mod).isBx
  | _ => false

/-- An instruction read by format, checked against R59 to R64 and its entry. R79 gives the ILLOP of R42 no place: the model raises it
once every operand field decodes, before the other checks of the entry (log entry 95). -/
def checked (o : Option Instr) : Decoded :=
  match o with
  | none => .illfmt
  | some i => if bxTypeIllop i then .illop else if i.wf then .ok i else .illfmt

/-- Checks 5 and 6 of R79 on one slot, given as a number. -/
def decodeNat (x : Nat) : Decoded :=
  match opForm (field x 0 8) (field x 12 4) with
  | none => .illop
  | some (.rrr mk) => checked ((RRR.ofBits x).map mk)
  | some (.ri mk) => checked ((RI.ofBits x).map mk)
  | some (.mf mk) => checked ((MF.ofBits x).map mk)
  | some (.bf mk) => checked ((BF.ofBits x).map mk)

/-- Checks 5 and 6 of R79 on one slot. -/
def decode (w : Slot) : Decoded := decodeNat w.toNat

/-- The instruction of a table word: one 96-bit slot, bits above `nbits` zero. -/
def decodeTableWord (nbits w : Nat) : Option Instr :=
  match decodeNat (w % 2 ^ nbits % 2 ^ 96) with
  | .ok i => some i
  | _ => none

/-- A fetch line's line word (R49). -/
structure LineWord where
  tgt : BitVec 5
  pair : BitVec 4
  spar : BitVec 5
  zero : BitVec 17
  lpar : Bool
  deriving DecidableEq, Repr

/-- A fetch line: five slots and the line word (R48). -/
structure Line where
  slots : List Slot
  word : LineWord
  deriving DecidableEq, Repr

/-- The value of little-endian bytes. -/
def leValue : List Byte → Nat
  | [] => 0
  | b :: r => b.toNat + 256 * leValue r

/-- R48, R49: the line in 64 bytes. -/
def Line.ofBytes (b : List Byte) : Line :=
  let v := leValue b
  let w := field v 480 32
  { slots := (List.range 5).map fun i => BitVec.ofNat 96 (field v (96 * i) 96)
    word := ⟨BitVec.ofNat 5 (field w 0 5), BitVec.ofNat 4 (field w 5 4), BitVec.ofNat 5 (field w 9 5),
      BitVec.ofNat 17 (field w 14 17), field w 31 1 == 1⟩ }

/-- The number of ones among the low `n` bits, modulo 2. -/
def oddOnes : Nat → Nat → Bool
  | 0, _ => false
  | n + 1, x => (x % 2 == 1) != oddOnes n (x / 2)

/-- R50: the six parities hold. -/
def Line.parityOk (l : Line) : Bool :=
  let w := l.word
  let low := w.tgt.toNat + 32 * w.pair.toNat + 512 * w.spar.toNat + 16384 * w.zero.toNat
  (oddOnes 31 low == w.lpar)
    && (l.slots.zipIdx).all fun (s, i) => oddOnes 96 s.toNat == w.spar.getLsbD i

/-- R51 and the reserved bits of R49. -/
def Line.wordOk (l : Line) : Bool :=
  let w := l.word
  w.zero == 0 && (List.range 3).all (fun k => !(w.pair.getLsbD k && w.pair.getLsbD (k + 1)))
    && (List.range 4).all fun k => !(w.pair.getLsbD k && w.tgt.getLsbD (k + 1))

/-- The 64 bytes of a line whose parities are computed under R50. -/
def lineBytes (slots : List Nat) (tgt pair : Nat) : List Byte :=
  let spar := (slots.zipIdx).foldl (fun r x => r + (oddOnes 96 x.1).toNat * 2 ^ x.2) 0
  let low := tgt + 32 * pair + 512 * spar
  let w := low + 2 ^ 31 * (oddOnes 31 low).toNat
  let v := (slots.zipIdx).foldl (fun r x => r + x.1 * 2 ^ (96 * x.2)) (w * 2 ^ 480)
  (List.range 64).map fun k => BitVec.ofNat 8 (v / 2 ^ (8 * k))

/-- The canonical NOP (R59). -/
def nopSlot : Nat := 0x700

end Sys2Proof
end

