-- ==== Sys2Proof/Config.lean ====
section
/-! DEFINITION. What the spec leaves open: values without a body, so that no proof can see them, and fixed limits. -/

namespace Sys2Proof

/-- What a read of a physical address without memory returns (R290 names the regions; log entry 5). -/
opaque Config.holeByte : Nat → Byte
/-- Whether an access uses an old translation still held by the TLB, by clk, core and address (R296; log entry 6). -/
opaque Config.keepsStale : Nat → Nat → Nat → Bool
/-- Whether an image's signature verifies under the key with a fused digest (R410; log entry 40). -/
opaque Config.signatureOk : List Byte → List Byte → Bool
/-- The security version and the SVN.ADVANCE flag in an image's header (R410; log entry 40). -/
opaque Config.imageSvn : List Byte → Nat
@[inherit_doc Config.imageSvn] opaque Config.imageAdvance : List Byte → Bool
/-- The firmware release an image carries (R412; log entry 40). -/
opaque Config.imageRelease : List Byte → Nat
/-- Whether a flash write succeeds (R411; log entry 40). -/
opaque Config.flashOk : List Byte → Bool
/-- How many bytes of an image a flash write that fails has written (R411; log entry 40). -/
opaque Config.flashedBytes : List Byte → Nat
/-- Whether a loss of power cuts a flash write short, by draw (R411; log entry 40). -/
opaque Config.flashCut : Nat → Bool
/-- The bytes of the identity key's signature over a text, by number (R413; log entry 40). -/
opaque Config.signature : List Byte → Nat → Byte
/-- The units to which a budget is lowered at a draw limit, by budget: 0 to 4 those of R415, 5 the matrix budget (R418; log entry 104). -/
opaque Config.loweredUnits : Nat → Nat → Nat
/-- The entry of a heap row after a racing store (R240), by draw and row (log entry 24). -/
opaque Config.freeWord : Nat → Nat → Nat

end Sys2Proof
end

