-- ==== Sys2Proof/Machine/State.lean ====
section
/-! DEFINITION. The state of the package as plain data, the reasons to stop, and the state right after reset. -/

namespace Sys2Proof.Machine

/-- Reasons why the machine stops. -/
inductive Fault where
  /-- A power cut ended the run: a die reached its cut-off temperature or the supply was lost, and nothing steps until
  POWER_ON (R418, R411). Raised by `step` only. Safe: the hardware does not go on either. -/
  | powerOff
  deriving DecidableEq, Repr

/-- Reasons why an instruction has no meaning here. -/
inductive Refusal where
  /-- An arm of `exec` without a meaning yet. Safe: nothing is claimed of the instruction. -/
  | notModelled (mnemonic : String)
  deriving DecidableEq, Repr

/-- A sparse array of numbers: ascending keys, no zero value; a key without an entry holds 0. -/
abbrev Sparse := List (Nat × Nat)

/-- The state of a file register, held once for the group (R101, R102). -/
inductive RegState where
  | full | empty | dead
  deriving DecidableEq, Repr

/-- One vector register of a group: its state and its lane values (R101, R102). -/
structure VReg where
  st : RegState
  vals : Lanes Word
  deriving DecidableEq, Repr

/-- A Cuff slot (R166, R172, R173): valid bit, tag, contents, and the producer a long-latency result is awaited from (R62). -/
structure CuffSlot where
  valid : Bool
  tag : Option (BitVec 8)
  vals : Lanes Word
  await : Option Nat
  deriving DecidableEq, Repr

/-- A Brim latch (R65, R166). -/
structure Latch where
  valid : Bool
  vals : Lanes DWord
  await : Option Nat
  deriving DecidableEq, Repr

/-- The wait mark of a thread (R167). -/
inductive Mark where
  | none | parked | joined | held
  deriving DecidableEq, Repr

/-- Where a parked thread waits (R167, R203, R204, R273, R283, R379). `again`: it had already arrived in the current phase and
waits in the next one too, where it arrives first (R203). -/
inductive Park where
  | team (b : Nat) (again : Bool)
  | cluster (b : Nat) (again : Bool)
  | die (b : Nat) (again : Bool)
  | grid (b : Nat) (again : Bool)
  deriving DecidableEq, Repr

/-- One thread (R101) with its wait mark (R167). -/
structure Thread where
  /-- present or exited (R101) -/
  present : Bool
  /-- %tid, which a thread keeps under REHOME (R187) -/
  tid : Nat
  /-- program counter (R53, R101) -/
  pc : DWord
  /-- p0 to p6 (R101) -/
  preds : BitVec 7
  /-- the hardware entries of the return stack, newest first, at most eight (R140); none for one whose reload is outstanding -/
  stack : List (Option DWord)
  /-- return-stack depth (R140) -/
  depth : Nat
  /-- wait mark (R167) -/
  mark : Mark
  /-- the barrier a parked thread waits at -/
  park : Option Park
  /-- released by its barrier and not yet ready (R171) -/
  rel : Bool
  /-- the landing slot of its last transfer is still to be checked (R52, R79) -/
  land : Bool
  /-- executed TKCOMMIT (R314) -/
  post : Bool
  /-- made a release at CLUSTER or DIE scope that is not promoted (R306) -/
  narrow : Bool
  deriving DecidableEq, Repr

/-- A trap cause (R97, R219): code, INFO, KIND, faulting lanes and the address of the lowest of them. -/
structure Cause where
  code : Nat
  info : Nat
  kind : Nat
  lanes : BitVec 32
  addr : DWord
  deriving DecidableEq, Repr

/-- The condition of a waiting access, or its time limit (R209, R211, R308, R330). -/
structure WaitInfo where
  /-- clk left of the timeout; none without one -/
  left : Option Nat
  /-- clk at which the count was last brought up to date -/
  since : Nat
  deriving DecidableEq, Repr

/-- An access of a group's queue (R161, R162): the fields of a held-access record (R220) with what the device keeps beside
it. -/
structure Access where
  /-- major opcode, minor opcode and MOD of the instruction -/
  opc : Nat
  sub : Nat
  mod : Nat
  /-- lanes still to perform -/
  lanes : BitVec 32
  /-- the destination field, DST of R63 -/
  dst : BitVec 13
  /-- captured address of each lane -/
  addr : Lanes DWord
  /-- captured data of each lane -/
  data : Lanes LaneVal
  /-- every lane active at the issue -/
  all : BitVec 32
  /-- program counter of the instruction and whether it stood second in a pair -/
  pc : DWord
  slot2 : Bool
  /-- identifies the producer of an awaited Cuff slot or latch -/
  tok : Nat
  /-- the fault found when it was tried (R163, R164) -/
  fault : Option Cause
  /-- number of bytes of an engine command still to be read, or a stage of a request -/
  stage : Nat
  wait : WaitInfo
  /-- the stamp of its issue, which orders the operations of a team (R317) -/
  born : Nat
  /-- its destination register was DEAD at the issue -/
  wasDead : Bool
  /-- lanes of a Milliner request that are performed and whose results are still to come (R359) -/
  owed : BitVec 32
  /-- %tid of the thread that each lane held at the issue (R159, R187) -/
  thr : Lanes Nat
  /-- issued within a serial region (R186) -/
  ser : Bool
  /-- when it performs: one of its threads holds narrow releases (R306) -/
  narrow : Bool
  deriving DecidableEq, Repr

/-- The serial region of a group (R166, R185). -/
structure Serial where
  opened : Bool
  set : BitVec 32
  done : BitVec 32
  cur : Nat
  entry : DWord
  deriving DecidableEq, Repr

/-- A loop queue of a group (R213): the run it covers, its head and its occupancy, and whether the program pushed a value
since it was last empty (R215). -/
structure LoopQ where
  base : Nat
  len : Nat
  head : Nat
  occ : Nat
  byProg : Bool
  deriving DecidableEq, Repr

/-- The cause registers of a group (R219); TCAUSE.LEVEL is the depth of `saved`. -/
structure CauseRegs where
  tcause : DWord
  tpoint : DWord
  tresume : DWord
  tlanes : Word
  taddr : DWord
  tframe : DWord
  deriving DecidableEq, Repr

/-- What the device keeps for a trapped group besides the frame (R220, R221): the cause registers of the outer level, where
its threads waited, the producers of awaited slots and latches, results that arrived meanwhile, and the records' identities. -/
structure SavedTrap where
  outer : CauseRegs
  wasWaiting : Bool
  parks : Lanes (Option Park × Bool)
  cuffAwait : List (Option Nat)
  brimAwait : List (Option Nat)
  kept : List (Nat × BitVec 32 × Lanes LaneVal)
  held : List Access
  pcs : Lanes DWord
  /-- threads whose landing slot was still to be checked (R52) -/
  lands : BitVec 32
  deriving DecidableEq, Repr

/-- The states of a group (R197). -/
inductive GroupStatus where
  | ready | waiting | handler | done
  deriving DecidableEq, Repr

/-- ROLE of a group (R201). -/
structure Role where
  inq : Option Nat
  outq : Option Nat
  deriving DecidableEq, Repr

/-- A watch of a group (R307): the word's physical address, its page's SHARE (R281) and home slice, whether a write was recorded,
whether it was interrupted. -/
structure Watch where
  word : Nat
  share : Nat
  slice : Nat
  hit : Bool
  interrupted : Bool
  deriving DecidableEq, Repr

/-- A thread waiting in BART (R204): its lane, the destination register, the barrier, and clk left of its timeout. -/
structure Bart where
  lane : Nat
  dst : Nat
  bar : Nat
  left : Nat
  since : Nat
  deriving DecidableEq, Repr

/-- Threads joined at one GJOIN (R189): its program counter, the clk at which the first of them joined, and whether its time has
passed. -/
structure Join where
  pc : DWord
  since : Nat
  hung : Bool
  deriving DecidableEq, Repr

/-- A group (R166): 32 threads, the registers they share and the group's own state. -/
structure Group where
  status : GroupStatus
  threads : Lanes Thread
  regs : List VReg
  cuffs : Vector CuffSlot 8
  lx : Latch
  ly : Latch
  lfsr : BitVec 16
  fpstat : BitVec 6
  /-- current program counter of the group (R166) -/
  gpc : DWord
  /-- a selection point lies before the next issue (R168) -/
  sel : Bool
  /-- the selection before the next issue has been made -/
  chosen : Bool
  /-- the fetch buffer (R54): virtual and physical address of the current line and of the next one -/
  lines : List (Nat × Nat)
  ser : Serial
  loopqs : Vector (Option LoopQ) 8
  role : Role
  /-- accesses issued and not retired, oldest first (R161) -/
  queue : List Access
  /-- pending causes not yet taken (R100) -/
  pending : List Cause
  /-- side-log entries of the group whose faults are pending (R100, R261) -/
  side : List Access
  cause : CauseRegs
  saved : List SavedTrap
  /-- the GJOINs at which threads are joined (R189); the elapsed counts of R206 -/
  joins : List Join
  /-- issue count (R198) -/
  issues : Nat
  /-- executed YIELD and not nominated until another group has issued (R200) -/
  yielded : Bool
  /-- numbers the producers of long-latency results -/
  tok : Nat
  /-- a further group resource: the group slot of the core (R190, R220) -/
  gslot : Nat
  /-- the watch of R307 -/
  watch : Option Watch
  /-- released for output reads (R326) -/
  outRel : Bool
  /-- COPYST: an operation ended cancelled, a GATHER ended out of range (R270) -/
  copyCancelled : Bool
  copyRange : Bool
  /-- threads waiting in BART (R204) -/
  barts : List Bart
  /-- a CSRW of POOLCTL has issued whose DESTROY is not applied yet (R148, R336) -/
  csrw : Bool
  deriving DecidableEq, Repr

/-- The states of a token-tree node (R343); FREE is an index without a node. -/
inductive NodeState where
  | opened | closed | cached | dying
  deriving DecidableEq, Repr

/-- A node of a KV pool (R342): `closed` is SEALED. Nodes and pages are named by index. -/
structure Node where
  idx : Nat
  st : NodeState
  start : Nat
  fin : Nat
  parent : Option Nat
  depth : Nat
  chain : List Nat
  pages : List Nat
  children : Nat
  attach : Nat
  pin : Nat
  deriving DecidableEq, Repr

/-- Pages and node indices that a prune drops and that have not returned yet (R359), with the request that waits for it. -/
structure Dying where
  batches : List (List Nat × List Nat)
  waiter : Option (GroupRef × Nat × Nat)
  deriving DecidableEq, Repr

/-- A KV pool (R336 to R344). Stacks hold returned entries above the entries never popped, which start at `freshPage` and
`freshNode`. Generations and page counts that are zero are not listed. -/
structure Pool where
  bppLog : Nat
  fmt : Nat
  dlog : Nat
  nhead : Nat
  arena : Nat
  npage : Nat
  nnode : Nat
  metaBase : Nat
  reserve : Nat
  nodes : List Node
  gens : List (Nat × Nat)
  pref : List (Nat × Nat)
  pageStack : List Nat
  freshPage : Nat
  nodeStack : List Nat
  freshNode : Nat
  free : Nat
  dying : List Dying
  deriving DecidableEq, Repr

/-- A barrier: phase, arrived threads (thread numbers within its scope), those that arrived again and count as first arrivals of
the next phase, the clk of the first arrival, and the linear indices of the teams whose time has passed in this phase (R203, R206,
R273, R284, R379). -/
structure Bar where
  phase : Bool
  arrived : List Nat
  again : List Nat
  since : Option Nat
  hung : List Nat
  deriving DecidableEq, Repr

/-- The modes of a logical scratchpad bank (R202). -/
inductive BankMode where
  | spad | cache | fifo
  deriving DecidableEq, Repr

/-- A logical scratchpad bank: its mode and its bytes (R192, R202). -/
structure Bank where
  mode : BankMode
  bytes : Sparse
  deriving DecidableEq, Repr

/-- The states of an address-engine stream (R215). -/
inductive StreamState where
  | idle | configured | running | stopped | done
  deriving DecidableEq, Repr

/-- The address-engine stream of a team (R214 to R216). -/
structure Stream where
  st : StreamState
  ctl : Nat
  base : Nat
  stride : List Int
  count : List Nat
  /-- next element -/
  elem : Nat
  /-- lanes of the push being gathered -/
  part : List Nat
  /-- fault code, INFO and address of the last stop -/
  fault : Option (Nat × Nat × Nat)
  deriving DecidableEq, Repr

/-- The kinds of engine operation (R223, R438). -/
inductive EngKind where
  | mma | zero | load | drain | drainAdd | attn | attnf | heapclr
  deriving DecidableEq, Repr

/-- An engine operation of a team (R223 to R251). `ctl` and `words` hold the captured control words, maps and descriptor. -/
structure EngOp where
  id : Nat
  grp : Nat
  kind : EngKind
  /-- tiles pending from issue to completion -/
  tiles : List Nat
  /-- heap rows (bank, row) it writes -/
  rows : List (Nat × Nat)
  ctl : List Nat
  words : List Nat
  addr : Nat
  started : Bool
  /-- rows, key blocks or elements done -/
  prog : Nat
  fault : Option Cause
  /-- the group that has taken the fault's trap -/
  takenBy : Option Nat
  flags : BitVec 6
  cancelled : Bool
  pc : DWord
  born : Nat
  /-- PTROOT at the issue (R148) -/
  root : DWord
  deriving DecidableEq, Repr

/-- The state of a ticket (R313). -/
inductive Ticket where
  | none | opened | headOpen | closed | draining | committed | aborted
  deriving DecidableEq, Repr

/-- The kinds of commit-buffer entry (R318). -/
inductive EntryKind where
  | store
  | reduce (sub width : Nat) (sgn : Bool)
  | scale (n : Nat) (exp : Nat)
  | tileAdd (ty : Nat)
  deriving DecidableEq, Repr

/-- A commit-buffer entry (R318): virtual line address, kind, 128 B of data with a byte mask. -/
structure Entry where
  line : Nat
  kind : EntryKind
  data : List Byte
  mask : List Bool
  /-- the stamp of the instruction that formed it (R317, R318) -/
  born : Nat
  /-- its PFLOAD waits for PRESP (R324) -/
  asked : Bool
  /-- PRESP.FAIL was answered for its page -/
  failed : Bool
  /-- the group to which its fault was handed (R324) -/
  takenBy : Option Nat
  /-- groups and lanes whose ordered stores it holds (R306, R322) -/
  rels : List (Nat × BitVec 32)
  deriving DecidableEq, Repr

/-- The ticket state of a team (R311 to R324). -/
structure TicketSt where
  retired : Ticket
  /-- the team has closed, which a later trap does not undo (R313, R314) -/
  closed : Bool
  /-- instructions that were refused for want of room: the group, the program counter and the entries held then (R320) -/
  waits : List (Nat × DWord × Nat)
  abortMark : Bool
  share : List Entry
  /-- entries of the share, and the first of the sixteen shares of the core's commit buffer that it takes (R316) -/
  cap : Nat
  first : Nat
  deriving DecidableEq, Repr

/-- A team's shared registers and barriers (R193). -/
structure TeamRegs where
  sregs : List DWord
  owner : List Nat
  xfer : List (Option (Nat × Nat))
  maps : List (BitVec 256)
  bars : List Bar
  bartmo : Word
  mstat : BitVec 6
  deriving DecidableEq, Repr

/-- A team resident on a core (R190 to R193). -/
structure Team where
  ref : TeamRef
  part : Nat
  core : Nat
  /-- team slot of the core (R190) -/
  slot : Nat
  groups : List Group
  regs : TeamRegs
  banks : List Bank
  /-- accumulator banks held and their words, at 1024·tile + 32·row + column -/
  accN : Nat
  acc : Sparse
  stream : Stream
  eops : List EngOp
  tk : TicketSt
  lastFlag : Bool
  /-- current group under the deterministic policy (R199) -/
  curG : Option Nat
  /-- a prune has dropped the node that its %branch names, and CANCEL became pending (R360) -/
  pruned : Bool
  cancelled : Bool
  deriving DecidableEq, Repr

/-- Why a grid exists: a queue's record, or a node of a graph run. -/
structure GridLink where
  queue : Nat
  /-- ring slot of its record -/
  slot : Nat
  run : Option (Nat × Nat)
  deriving DecidableEq, Repr

/-- Barrier of a logical die or an instance: which one, its number and its state. -/
structure KeyBar where
  key : Nat
  num : Nat
  bar : Bar
  deriving DecidableEq, Repr

/-- A declared output range (R325): base, length and logical die. -/
structure OutRange where
  base : Nat
  len : Nat
  die : Nat
  deriving DecidableEq, Repr

/-- A started grid (R372 to R381). -/
structure Grid where
  id : Nat
  part : Nat
  link : GridLink
  /-- the 128 bytes of the launch record as started (R374) -/
  lr : List Byte
  /-- memory as it was when the record was enqueued: the code it executes (R54) -/
  code : List Host.Cell
  teams : Nat
  /-- next linear index to place; with ticket scope DIE, that of each logical die (R279, R286) -/
  nextL : Nat
  dieNext : List Nat
  finish : Nat
  startClk : Nat
  order : Nat
  /-- linear indices of released teams -/
  released : List Nat
  /-- linear indices of retired tickets, and which of them were aborted (R313) -/
  retired : List Nat
  aborted : List Nat
  ds : List (BitVec 12)
  dflags : Nat
  /-- the declared output ranges, as read from the launch record's table (R325) -/
  outs : List OutRange
  dieBars : List KeyBar
  gridBars : List KeyBar
  instBars : List KeyBar
  /-- logical dies mapped to physical dies (R277) -/
  dmap : List (Nat × Nat)
  /-- QD.PRIO of its queue when it started (R372) -/
  prio : Nat
  deriving DecidableEq, Repr

/-- A line held by a core's L1 (R257, R289): virtual tag, physical line, scope of its page, bytes and dirty mask, the leaf entry and
page size it was filled under, and whether a thread with narrow releases wrote it (R306). -/
structure L1Line where
  core : Nat
  asid : Nat
  vline : Nat
  pline : Nat
  share : Nat
  data : List Byte
  dirty : List Bool
  leaf : Nat
  size : Nat
  narrow : Bool
  deriving DecidableEq, Repr

/-- A TLB entry of a cluster (R257): covers `2 ^ size` bytes. -/
structure TlbEntry where
  asid : Nat
  vpage : Nat
  size : Nat
  leaf : Nat
  deriving DecidableEq, Repr

/-- A guest copy in the other base die's L2 with an invalidation on its way (R288). -/
structure GuestLine where
  pline : Nat
  data : List Byte
  stale : Bool
  deriving DecidableEq, Repr

/-- A side-log entry (R260). -/
structure SlogEntry where
  team : TeamRef
  grp : Nat
  ipos : Nat
  core : Nat
  acc : Access
  /-- PRESP.FAIL was answered for these pages -/
  failed : List Nat
  /-- the stamp of its insertion -/
  ins : Nat
  deriving DecidableEq, Repr

/-- A copy or gather operation (R264 to R272). `run` names the graph run and node of a COPY node (R385). -/
structure CopyOp where
  id : Nat
  team : TeamRef
  grp : Nat
  core : Nat
  gather : Bool
  desc : List Byte
  started : Bool
  /-- rows moved, and bytes of the next row -/
  prog : Nat
  off : Nat
  fault : Option Cause
  /-- the group that has taken the fault's trap -/
  takenBy : Option Nat
  /-- its ticket's turn has not come (R317) -/
  waiting : Bool
  /-- it writes a wide page directly and follows what its team had waiting or undrained before it (R317, R335) -/
  follows : Bool
  /-- some earlier operation's range was in its way when it was issued (R268) -/
  held : Bool
  cancelled : Bool
  outOfRange : Bool
  run : Option (Nat × Nat)
  pc : DWord
  /-- the stamp of its issue -/
  born : Nat
  /-- PTROOT at the issue (R148) -/
  root : DWord
  deriving DecidableEq, Repr

/-- A hardware queue (R210). -/
structure HwQueue where
  num : Nat
  home : TeamRef
  bank : Nat
  cap : Nat
  entries : List Word
  allow : Nat
  /-- waiting pops, in order: team, group and token of the HQPOP -/
  waiters : List (TeamRef × Nat × Nat)
  deriving DecidableEq, Repr

/-- A configured cluster (R252, R256). -/
structure Cluster where
  ref : ClusterRef
  die : Nat
  row0 : Nat
  col0 : Nat
  h : Nat
  w : Nat
  tlb : List TlbEntry
  slog : List SlogEntry
  slogFull : Bool
  copies : List CopyOp
  hqs : List HwQueue
  deriving DecidableEq, Repr

/-- Registers of a core (R243, R244, R320). -/
structure CoreRegs where
  core : Nat
  units : Nat
  stalls : Nat
  remaining : Nat
  cbClk : Nat
  cbMax : Nat
  /-- clk last counted in `cbClk` -/
  cbLast : Nat
  /-- clk at which the matrix budget's period began, and the operations that were ready then (R243) -/
  periodAt : Nat
  atBegin : List Nat
  deriving DecidableEq, Repr

/-- An armed or watching monitor of a home slice's table (R308), oldest first: the word, the SHARE of the page that names it (R281),
whether a write to it was performed since the entry was made, and whether it was displaced in this step. -/
structure Monitor where
  slice : Nat
  word : Nat
  share : Nat
  grp : GroupRef
  armed : Bool
  hit : Bool
  gone : Bool
  deriving DecidableEq, Repr

/-- What the home records of a line (R306): the core that last wrote it, and whether that core holds narrow releases. -/
structure HomeRecord where
  pline : Nat
  core : Nat
  narrow : Bool
  deriving DecidableEq, Repr

/-- A node of a graph run (R385, R391). -/
structure RunNode where
  counter : Nat
  taken : Bool
  active : Bool
  started : Bool
  deriving DecidableEq, Repr

/-- A graph run (R385). -/
structure GraphRun where
  id : Nat
  graph : Nat
  queue : Nat
  slot : Nat
  cmpl : Nat
  irq : Bool
  /-- the nodes' 64-byte records, read at the start -/
  nodes : List (List Byte)
  sts : List RunNode
  startClk : Nat
  /-- teams run by its grids that completed -/
  teams : Nat
  /-- memory as it was when the record was enqueued (R54) -/
  code : List Host.Cell
  deriving DecidableEq, Repr

/-- The life of a partition: running; halted by SAVE until a RESTORE, or by KILL until its grids have ended; restoring until its cores
are released (R388 to R390, R409). -/
inductive PartLife where
  | running | halted | restoring
  deriving DecidableEq, Repr

/-- A partition's registers and what it runs (R142, R220, R292, R336, R382). -/
structure Partition where
  num : Nat
  tvbase : DWord
  tlsbase : DWord
  tlssize : Nat
  tfbase : DWord
  ptroot : DWord
  poolbase : DWord
  poolErr : Bool
  vocbase : DWord
  graphbase : DWord
  pools : List (Nat × Pool)
  /-- pools whose DESTROY waits for the end of cancelled operations and the return of pages, with the group whose CSRW it is (R336, R359) -/
  gone : List (Nat × Dying)
  runs : List GraphRun
  life : PartLife
  /-- halted by KILL (R388) -/
  killing : Bool
  /-- clk at which %clock of the partition is 0 -/
  clock0 : Nat
  saveAddr : Nat
  /-- cores not yet released after a restore, and the partition whose context was restored -/
  unreleased : List Nat
  origin : Nat
  /-- the queue served last at each priority (R372) -/
  served : List (Nat × Nat)
  deriving DecidableEq, Repr

/-- An enqueued record of a launch queue: its ring slot, its bytes, the memory its code is taken from. -/
structure QRec where
  slot : Nat
  bytes : List Byte
  outs : List OutRange
  code : List Host.Cell
  deriving DecidableEq, Repr

/-- A launch queue (R369 to R372). -/
structure Queue where
  num : Nat
  waiting : List QRec
  /-- ring slots of records whose grids or runs have not completed -/
  running : List Nat
  tail : Nat
  deriving DecidableEq, Repr

/-- A saved team with what goes with it: its side-log entries, copies and hardware queues, and its groups' trap frames by
group and level (R389, R391). -/
structure Parked where
  team : Team
  slog : List SlogEntry
  copies : List CopyOp
  hqs : List HwQueue
  frames : List (Nat × Nat × List Byte)
  deriving DecidableEq, Repr

/-- What the package knows of a save area beside its bytes (R391, log entry 50): its physical address and size, the partition it was
saved from, and the parts of the context to which the area gives no place. -/
structure SavedCtx where
  /-- neither restored nor discarded by KILL yet -/
  live : Bool
  pa : Nat
  size : Nat
  part : Nat
  grids : List Grid
  teams : List Parked
  runs : List GraphRun
  slog : List SlogEntry
  /-- SLOG.FULL of each cluster of the partition, in their order (R256) -/
  slogFull : List Bool
  copies : List CopyOp
  deriving DecidableEq, Repr

/-- Registers held once per package (R276, R367, R369, R388, R400, R412, R415). -/
structure PackageRegs where
  /-- codes of the harvest map that differ from 0x1 (enabled, class F) -/
  hmap : List (Nat × Nat)
  partPart : Nat
  partErr : Bool
  partReason : Nat
  clmap : Nat
  map : List Nat
  qbase : Nat
  qinfo : Nat
  ctxPart : Nat
  ctxBusy : Bool
  ctxErr : Bool
  ctxReason : Nat
  ctxaddr : Nat
  idrev : DWord
  idser : DWord
  iderr : DWord
  deriving DecidableEq, Repr

/-- An activity budget (R415): units of 4 KiB per period, periods waited, bytes moved in this period, and the period's first clk. -/
structure Budget where
  units : Nat
  waits : Nat
  used : Nat
  periodAt : Nat
  deriving DecidableEq, Repr

/-- The classes of fabric message (R401). -/
inductive MsgClass where
  | put | get | work | red | sred | cmpl
  deriving DecidableEq, Repr

/-- A fabric message: its descriptor's fields, the contents it carries, and the data a CMPL brings back (R402, R403). -/
structure Message where
  cls : MsgClass
  srcPkg : Nat
  srcPart : Nat
  dstPkg : Nat
  dstPart : Nat
  flow : Nat
  tag : Nat
  desc : List Byte
  data : List Byte
  status : Nat
  /-- PRESP.FAIL was answered for these pages -/
  failed : List Nat
  /-- host lines of its destination that it has written (R435) -/
  wrote : List Nat
  deriving DecidableEq, Repr

/-- A fabric operation waiting for its CMPL at the source (R403): the entry that sent it, whose destination an XFWORK writes. -/
structure FabricOp where
  tag : Nat
  cls : MsgClass
  grp : GroupRef
  part : Nat
  desc : List Byte
  sentAt : Nat
  acc : Access
  port : Option Nat
  /-- flags of the conversion at the source (R408) -/
  flags : BitVec 6
  /-- its CMPL came while its team was saved: status and flags, held until the restore (R409) -/
  done : Option (Nat × BitVec 6)
  deriving DecidableEq, Repr

/-- An open collective at the destination (R407). -/
structure Collective where
  part : Nat
  key : List Nat
  next : Nat
  acc : List Nat
  held : List Message
  /-- contributors answered when the collective ends -/
  members : List Message
  flags : BitVec 6
  deriving DecidableEq, Repr

/-- The fabric unit (R399 to R409). -/
structure Fabric where
  pkg : Nat
  accept : BitVec 16
  up : BitVec 16
  rtbase : Nat
  rbuf : Nat
  /-- messages arrived on each port and not yet performed; port 16 is the loop back -/
  inbox : List (Nat × Message)
  /-- messages sent on each port -/
  outbox : List (Nat × Message)
  ops : List FabricOp
  colls : List Collective
  /-- refused contributions, to be resent (R407) -/
  deferred : List (Nat × Message)
  /-- CRC failures of the flit being retried on a port -/
  retries : List (Nat × Nat)
  nextTag : Nat
  deriving DecidableEq, Repr

/-- A line of host memory in the L2 (R393, R435) and the device's outstanding request on it. -/
structure HostLine where
  line : Nat
  st : Mesi
  data : List Byte
  /-- DirtyEvict sent, GO_WritePull not received -/
  evicting : Bool
  /-- ItoMWr sent, WritePull not received -/
  writing : Bool
  /-- outstanding request: 1 RdShared, 2 RdCurr, 3 RdOwn, 4 RdOwnNoData, 5 ItoMWr, 6 CleanEvictNoData, 7 DirtyEvict; and
  8 RdCurr answered, 9 ItoMWr answered, not used yet -/
  req : Option Nat
  deriving DecidableEq, Repr

/-- What the device answers or sends on a host link (R393, R394, R398). -/
inductive HostMsg where
  | rsp (line : Nat) (name : Nat) (data : List Byte)
  | writeData (line : Nat) (bogus : Bool) (data : List Byte)
  | memData (addr : Nat) (poison : Bool) (data : List Byte)
  | bisnp (line : Nat) (inv : Bool)
  | msix (vector : Nat)
  | request (line : Nat) (kind : Nat) (link : Nat)
  | report (bytes : List Byte)
  | regData (off : Nat) (v : Nat)
  deriving DecidableEq, Repr

/-- What follows writes of the package to host lines once they are performed (R396, R398): the lines awaited, whether PRQHEAD
advances, and the MSI-X vector that is raised. -/
structure Posted where
  lines : List Nat
  head : Bool
  vector : Option Nat
  deriving DecidableEq, Repr

/-- The MSI-X capability's control and table (R392, R398): the enable and function-mask bits, the vectors masked and pending, and each
vector's message address and data. -/
structure Msix where
  on : Bool
  fmask : Bool
  masked : List Nat
  pending : List Nat
  table : List (Nat × Nat)
  deriving DecidableEq, Repr

/-- An outstanding page request (R396). -/
structure PageReq where
  asid : Nat
  page : Nat
  part : Nat
  kind : Nat
  deriving DecidableEq, Repr

/-- The enqueue window of a launch queue (R395). -/
structure Window where
  queue : Nat
  bytes : List Byte
  status : Nat
  reason : Nat
  deriving DecidableEq, Repr

/-- The host side of BAR0 (R395 to R398). -/
structure HostIf where
  windows : List Window
  prqbase : DWord
  prqhead : Word
  prqtail : Word
  presp0 : DWord
  presp1 : DWord
  hinv0 : DWord
  hinv1 : DWord
  csrsel : DWord
  mgstat : BitVec 5
  corrected : Nat
  /-- page requests outstanding, and those waiting for room in the ring -/
  requests : List PageReq
  queued : List PageReq
  lines : List HostLine
  /-- device lines that the host may hold, and those of them that it holds shared after a BISnpData (R394) -/
  held : List Nat
  shared : List Nat
  /-- lines whose BISnp is outstanding; `true` for BISnpInv -/
  snooping : List (Nat × Bool)
  /-- bytes of device lines written at home while their line is snooped: newer than what a response brings (R394) -/
  written : List Nat
  /-- writes of the package to host lines that the L2 does not own yet, oldest first (R435), and what follows them -/
  posted : List (Nat × Byte)
  after : List Posted
  msix : Msix
  log : List HostMsg
  /-- CXL.mem requests that wait for the host DMA budget (R415), oldest first -/
  waiting : List CxlReq
  deriving DecidableEq, Repr

/-- The states of the firmware mailbox (R411). -/
inductive MboxState where
  | idle | busy | done | error
  deriving DecidableEq, Repr

/-- Boot, firmware and housekeeping (R410 to R418). -/
structure Boot where
  powered : Bool
  recovery : Bool
  /-- the fused SHA-384 digest of the firmware's public key (R410) -/
  keyDigest : List Byte
  svn : Nat
  flash : List Byte
  flashCut : Bool
  mbaddr : DWord
  mblen : Word
  mbst : MboxState
  mberr : Nat
  /-- the error that a running update has met, reported at its end -/
  mbfail : Nat
  mbimage : List Byte
  /-- bytes of its image that the last UPDATE has read, and written to flash (MBSTAT.PROGRESS) -/
  mbread : Nat
  mbwritten : Nat
  hot : List Nat
  pwrlim : Bool
  milliwatts : Nat
  mcheck : List Nat
  deriving DecidableEq, Repr

/-- The instruction that issues: its group, the program counter of its slot, and whether it stands second in a pair. -/
structure Cursor where
  grp : GroupRef
  pc : DWord
  slot2 : Bool
  deriving DecidableEq, Repr

/-- What happens next: a core issues, an event happens, time passes, a message
arrives on a fabric port, the L2 evicts a host line, the host writes its own memory or the MSI-X capability (0: its control bits, 1 to
12: address, data and mask of each vector) or reads `n` bytes of BAR0, or a guest copy is refreshed (MODEL's own). -/
inductive Choice where
  | issue (core : Nat)
  | event (i : Instr)
  | wait (n : Nat)
  | arrive (port : Nat) (m : Message)
  | evict (line : Nat)
  | hostStore (addr : Nat) (data : List Byte)
  | msixWrite (k : Nat) (v : Nat)
  | hostRead (off : Nat) (n : Nat)
  | guestAck (line : Nat)
  | guestFill (line : Nat)
  deriving DecidableEq, Repr

/-- The state of the package. -/
structure State where
  /-- clk since reset; the model counts one for each step (log entry 3) -/
  clk : Nat
  /-- memory: near, far and host bytes that differ from 0, by physical address -/
  mem : List Host.Cell
  /-- writes of the step in progress, newest first; empty between steps -/
  wbuf : List (Nat × Byte)
  /-- the instruction `exec` acts for -/
  cur : Option Cursor
  /-- the choices the outside and the device make next -/
  agenda : List Choice
  /-- the core whose turn it is without an agenda -/
  turn : Nat
  /-- counts free values drawn -/
  drawn : Nat
  teams : List Team
  grids : List Grid
  /-- restored teams that wait for placement (R390) -/
  parked : List Parked
  saves : List SavedCtx
  nextGrid : Nat
  clusters : List Cluster
  coreRegs : List CoreRegs
  l1 : List L1Line
  guests : List GuestLine
  monitors : List Monitor
  records : List HomeRecord
  parts : List Partition
  queues : List Queue
  pkg : PackageRegs
  budgets : List Budget
  fabric : Fabric
  host : HostIf
  boot : Boot
  deriving DecidableEq, Repr

/-- A partition after reset (R142, R220, R292, R336, R382). -/
def Partition.atReset (n : Nat) : Partition :=
  { num := n, tvbase := 0, tlsbase := 0, tlssize := 0, tfbase := 0, ptroot := 0, poolbase := 0, poolErr := false,
    vocbase := 0, graphbase := 0, pools := [], gone := [], runs := [], life := .running, killing := false, clock0 := 0, saveAddr := 0,
    unreleased := [], origin := n, served := [] }

/-- The package registers after reset. Fused values have no reset value in the spec: every core enabled and of class F,
stepping, serial number, errata and firmware release zero (DESIGN CHOICE, log entry 2). -/
def PackageRegs.atReset : PackageRegs :=
  { hmap := [], partPart := 0, partErr := false, partReason := 0, clmap := 0, map := [], qbase := 0, qinfo := 0,
    ctxPart := 0, ctxBusy := false, ctxErr := false, ctxReason := 0, ctxaddr := 0, idrev := 0x4100, idser := 0,
    iderr := 0 }

def Budget.atReset : Budget := { units := 0xffffffff, waits := 0, used := 0, periodAt := 0 }

def Fabric.atReset : Fabric :=
  { pkg := 0xffff, accept := 0, up := 0, rtbase := 0, rbuf := 0, inbox := [], outbox := [], ops := [], colls := [],
    deferred := [], retries := [], nextTag := 0 }

/-- The MSI-X capability at reset: disabled, every vector masked (PRESUMED, as PCIe resets it; log entry 99). -/
def Msix.atReset : Msix := { on := false, fmask := false, masked := [0, 1, 2, 3], pending := [], table := List.replicate 4 (0, 0) }

def HostIf.atReset : HostIf :=
  { windows := [], prqbase := 0, prqhead := 0, prqtail := 0, presp0 := 0, presp1 := 0, hinv0 := 0,
    hinv1 := 0x8000000000000000, csrsel := 0, mgstat := 0, corrected := 0, requests := [], queued := [], lines := [],
    held := [], shared := [], snooping := [], written := [], posted := [], after := [], msix := .atReset, log := [], waiting := [] }

def Boot.atReset : Boot :=
  { powered := true, recovery := false, keyDigest := List.replicate 48 0, svn := 0, flash := [], flashCut := false
    mbaddr := 0, mblen := 0, mbst := .idle, mberr := 0, mbfail := 0, mbimage := [], mbread := 0, mbwritten := 0, hot := [], pwrlim := false, milliwatts := 10000000, mcheck := [] }

/-- The machine right after reset: no cluster is configured, no grid runs, every register at the value the spec states,
and the values that log entries 2 and 3 name where it states none. -/
def State.reset : State :=
  { clk := 0, mem := [], wbuf := [], cur := none, agenda := [], turn := 0, drawn := 0, teams := [], grids := [],
    parked := [], saves := [], nextGrid := 0, clusters := [], coreRegs := [], l1 := [], guests := [], monitors := [], records := [],
    parts := (List.range 16).map Partition.atReset, queues := [], pkg := .atReset,
    budgets := List.replicate 5 Budget.atReset, fabric := .atReset, host := .atReset, boot := .atReset }

end Sys2Proof.Machine
end

