-- ==== Sys2Proof/Machine/Memory.lean ====
section
/-! DEFINITION. Memory: the canonical list, physical regions (R290), homes (R281, R287), guest copies (R288), host lines
(R393, R435), the L1 (R289), page tables (R291 to R296) and the TLB (R257, R258). -/

namespace Sys2Proof.Machine

/-- Memory by physical address; an address that is not listed reads 0 (DESIGN CHOICE, log entry 4). -/
abbrev Memory := List Host.Cell

/-- The byte at an address. -/
def Memory.read (m : Memory) (a : Nat) : Byte :=
  match m.find? fun c => c.1 == a with
  | some c => c.2
  | none => 0

/-- Write one byte; writing 0 removes the entry. -/
def Memory.write : Memory → Nat → Byte → Memory
  | [], a, b => if b = 0 then [] else [(a, b)]
  | c :: r, a, b =>
    if a < c.1 then (if b = 0 then c :: r else (a, b) :: c :: r)
    else if a = c.1 then (if b = 0 then r else (a, b) :: r)
    else c :: Memory.write r a b

/-- The canonical form: addresses strictly rising, no entry equal to what an unlisted address reads as. -/
abbrev Memory.wf (m : Memory) : Prop := m.Pairwise (fun x y => x.1 < y.1) ∧ ∀ c ∈ m, c.2 ≠ 0

/-- Apply writes, the last of the list first. -/
def Memory.writes (m : Memory) (w : List (Nat × Byte)) : Memory := w.foldr (fun x m => m.write x.1 x.2) m

/-- The value of a key of a sparse array. -/
def sparseGet (l : Sparse) (k : Nat) : Nat :=
  match l.find? fun x => x.1 == k with
  | some x => x.2
  | none => 0

/-- Set a key of a sparse array; zeros are not listed. -/
def sparseSet : Sparse → Nat → Nat → Sparse
  | [], k, v => if v = 0 then [] else [(k, v)]
  | c :: r, k, v =>
    if k < c.1 then (if v = 0 then c :: r else (k, v) :: c :: r)
    else if k = c.1 then (if v = 0 then r else (k, v) :: r)
    else c :: sparseSet r k v

/-- The regions of R290: 0 near, 1 far, 2 host; none for a hole. -/
def region (pa : Nat) : Option Nat :=
  if pa < 0x003000000000 then some 0
  else if 0x100000000000 ≤ pa ∧ pa < 0x130000000000 then some 1
  else if 0x8000000000000 ≤ pa ∧ pa < 0x10000000000000 then some 2
  else none

/-- Scopes by their SHARE code (R294). -/
def shTeam : Nat := 0
@[inherit_doc shTeam] def shCluster : Nat := 1
@[inherit_doc shTeam] def shDie : Nat := 2
@[inherit_doc shTeam] def shPackage : Nat := 3
@[inherit_doc shTeam] def shSystem : Nat := 4

/-- One bit of an address as a number. -/
def abit (pa k : Nat) : Nat := pa / 2 ^ k % 2

/-- The home slice of an address for a page's SHARE: base die × 64 + slice (R281, R287). -/
def homeSlice (share pa : Nat) : Nat :=
  if share < shPackage then
    let d := bitsOf pa 18 16
    64 * (d / 4) + 16 * (d % 4) + (bitsOf pa 10 7 ^^^ bitsOf pa 14 11)
  else
    64 * (abit pa 7 ^^^ abit pa 12 ^^^ abit pa 17) + (bitsOf pa 13 8 ^^^ bitsOf pa 19 14)

/-- The base die a physical core stands on (R10). -/
def coreBase (core : Nat) : Nat := core / 48 / 4

/-- The 64-byte host line of an address, if the L2 holds it (R393). -/
def hostLine (s : State) (pa : Nat) : Option HostLine := s.host.lines.find? fun l => l.line == pa / 64

/-- Change host lines that satisfy a test. -/
def updHostLines (s : State) (p : HostLine → Bool) (f : HostLine → HostLine) : State :=
  { s with host := { s.host with lines := s.host.lines.map fun l => if p l then f l else l } }

/-- A byte as memory and the writes of this step have it. -/
def rdMem (s : State) (pa : Nat) : Byte :=
  match s.wbuf.find? fun x => x.1 == pa with
  | some x => x.2
  | none => if (region pa).isSome then Memory.read s.mem pa else Config.holeByte pa

/-- A byte at its home: a host line held by the L2 first (R393). -/
def rdHome (s : State) (pa : Nat) : Byte :=
  match hostLine s pa with
  | some l => if l.st == .i && l.req != some 8 then rdMem s pa else l.data.getD (pa % 64) 0
  | none => rdMem s pa

/-- A plain or acquire read of a byte from a core: a stale guest copy of the other base die is read until its invalidation
is acknowledged (R288). -/
def rdFrom (s : State) (core share pa : Nat) : Byte :=
  if homeSlice share pa / 64 == coreBase core then rdHome s pa
  else match s.guests.find? fun g => g.pline == pa / 128 with
    | some g => if g.stale then g.data.getD (pa % 128) 0 else rdHome s pa
    | none => rdHome s pa

/-- The base die whose link a host line is requested over (R287, R392). -/
def hostLink (line : Nat) : Nat := homeSlice shSystem (64 * line) / 64

/-- Ask the host for ownership of a line of its memory, unless a request is outstanding (R435). -/
def askOwn (s : State) (n : Nat) : State :=
  match s.host.lines.find? fun l => l.line == n with
  | some l =>
    if l.req.isSome then s
    else
      let k := if l.st == .s then 4 else 3
      let lines := s.host.lines.map fun x => if x.line == n then { x with req := some k } else x
      { s with host := { s.host with lines := lines, log := s.host.log ++ [.request n k (hostLink n)] } }
  | none => { s with host := { s.host with
      lines := ⟨n, .i, List.replicate 64 0, false, false, some 3⟩ :: s.host.lines, log := s.host.log ++ [.request n 3 (hostLink n)] } }

/-- A write reaches the home of a word: the monitors and watches of the page's SHARE record it (R281, R307, R308); a write by physical
address concerns every SHARE. -/
def hitMonitors (s : State) (share : Option Nat) (pa : Nat) : State :=
  if s.monitors.isEmpty then s
  else { s with monitors := s.monitors.map fun m =>
    if m.word == pa / 8 * 8 && (share.isNone || share == some m.share) then { m with hit := true } else m }

/-- A write of a line that the host may hold sends BISnpInv (R394); until the response the byte is newer than what that brings. -/
def snoopHolder (s : State) (pa : Nat) : State :=
  let n := pa / 64
  if !(s.host.held.contains n) then s
  else
    let asked : Bool := s.host.snooping.any fun x => x == (n, true)
    { s with host := { s.host with
      snooping := if asked then s.host.snooping else (n, true) :: s.host.snooping.filter fun x => x.1 != n
      written := if s.host.written.contains pa then s.host.written else pa :: s.host.written
      log := if asked then s.host.log else s.host.log ++ [.bisnp n true] } }

/-- Put a byte at its home through a page of a SHARE: a host line that the L2 owns takes it, and one that it does not own is asked for
first (R435); a guest copy becomes stale (R288). -/
def putHome (s : State) (share : Option Nat) (pa : Nat) (b : Byte) : State :=
  let own : Bool := match hostLine s pa with
    | some l => (l.st == .m || l.st == .e) && l.req.isNone
    | none => false
  let granted : Bool := (hostLine s pa).any fun l => l.req == some 9
  let s := hitMonitors s share pa
  let s := { s with guests := s.guests.map fun g =>
    if g.pline == pa / 128 && !g.stale then { g with stale := true } else g }
  if region pa != some 2 || granted then { s with wbuf := (pa, b) :: s.wbuf }
  else if own then
    updHostLines s (fun l => l.line == pa / 64) fun l => { l with st := .m, data := l.data.set (pa % 64) b }
  else askOwn { s with host := { s.host with posted := s.host.posted ++ [(pa, b)] } } (pa / 64)

/-- Write a byte at its home: host copies of the line are snooped (R394). -/
def wrHome (s : State) (share : Option Nat) (pa : Nat) (b : Byte) : State := putHome (snoopHolder s pa) share pa b

/-- `n` bytes at their home, as a number. -/
def rdHomeN (s : State) (pa n : Nat) : Nat := ofBytes ((List.range n).map fun k => rdHome s (pa + k))
/-- Write `n` bytes at their home. -/
def wrHomeN (s : State) (share : Option Nat) (pa n v : Nat) : State :=
  (List.range n).foldl (fun s k => wrHome s share (pa + k) (BitVec.ofNat 8 (byteOf v k))) s

/-- What a translation gives (R295): the physical address, SHARE and the permission bits R 1, W 2, X 4; or the trap code. -/
inductive Walked where
  | ok (pa share perm : Nat)
  | err (code : Nat)
  deriving DecidableEq, Repr

/-- Trap codes (R97). -/
def tcIllop : Nat := 0x01
@[inherit_doc tcIllop] def tcIllfmt : Nat := 0x02
@[inherit_doc tcIllop] def tcPriv : Nat := 0x03
@[inherit_doc tcIllop] def tcBadtgt : Nat := 0x04
@[inherit_doc tcIllop] def tcFetchpar : Nat := 0x05
@[inherit_doc tcIllop] def tcEmptyread : Nat := 0x06
@[inherit_doc tcIllop] def tcDeadread : Nat := 0x07
@[inherit_doc tcIllop] def tcStale : Nat := 0x08
@[inherit_doc tcIllop] def tcUwrite : Nat := 0x09
@[inherit_doc tcIllop] def tcAccna : Nat := 0x0a
@[inherit_doc tcIllop] def tcNounit : Nat := 0x0b
@[inherit_doc tcIllop] def tcStkovf : Nat := 0x0c
@[inherit_doc tcIllop] def tcAlign : Nat := 0x0d
@[inherit_doc tcIllop] def tcBankoff : Nat := 0x0e
@[inherit_doc tcIllop] def tcSwtrap : Nat := 0x0f
@[inherit_doc tcIllop] def tcPfload : Nat := 0x10
@[inherit_doc tcIllop] def tcProt : Nat := 0x11
@[inherit_doc tcIllop] def tcBadpte : Nat := 0x12
@[inherit_doc tcIllop] def tcLockhit : Nat := 0x13
@[inherit_doc tcIllop] def tcDetrace : Nat := 0x14
@[inherit_doc tcIllop] def tcDetdie : Nat := 0x15
@[inherit_doc tcIllop] def tcBarhang : Nat := 0x16
@[inherit_doc tcIllop] def tcGridbar : Nat := 0x17
@[inherit_doc tcIllop] def tcQueueerr : Nat := 0x18
@[inherit_doc tcIllop] def tcSampleovf : Nat := 0x19
@[inherit_doc tcIllop] def tcTtfull : Nat := 0x1a
@[inherit_doc tcIllop] def tcTtbad : Nat := 0x1b
@[inherit_doc tcIllop] def tcCancel : Nat := 0x1c
@[inherit_doc tcIllop] def tcFaberr : Nat := 0x1d
@[inherit_doc tcIllop] def tcBkpt : Nat := 0x1f

/-- An address whose bits [63:57] copy bit [56] (R151). -/
def canonical (va : Nat) : Bool := va < 2 ^ 56 || 2 ^ 64 - 2 ^ 56 ≤ va % 2 ^ 64

/-- The low 57 bits of an address in canonical form (R151): bits [63:57] copy bit [56]. -/
def canon57 (va : Nat) : Nat := wrap 64 (signed 57 va)

/-- A table entry at `level` (R293): the next table's address, or the fault. -/
def entryNext (level e : Nat) : Option Nat :=
  let next := bitsOf e 51 8 * 256
  let align := match level with | 3 => 2 ^ 17 | 2 => 2 ^ 12 | _ => 2 ^ 8
  if bitsOf e 7 2 = 0 ∧ bitsOf e 63 52 = 0 ∧ next % align = 0 then some next else none

/-- A leaf entry covering `2 ^ size` bytes (R294, R295): physical address for `va`, SHARE and permissions. -/
def entryLeaf (size e va : Nat) : Walked :=
  let pa := bitsOf e 51 16 * 65536
  let share := bitsOf e 7 5
  let m := bitsOf e 9 8
  let r := abit e 2
  let w := abit e 3
  let x := abit e 4
  if bitsOf e 15 10 ≠ 0 ∨ bitsOf e 63 52 ≠ 0 ∨ pa % 2 ^ size ≠ 0 ∨ 5 ≤ share ∨ m = 3 ∨ region pa ≠ some m
      ∨ (w = 1 ∧ r = 0) ∨ (m = 2 ∧ share ≠ shSystem) then .err tcBadpte
  else .ok (pa + va % 2 ^ size) share (r + 2 * w + 4 * x)

/-- The walk below one table (R291, R295); answers the leaf entry and its size, or the fault. -/
def walkFrom (s : State) (va : Nat) : List (Nat × Nat × Nat) → Nat → Nat × Nat × Walked
  | [], _ => (0, 0, .err tcBadpte)
  | (level, lo, w) :: rest, table =>
    let e := rdHomeN s (table + 8 * (va / 2 ^ lo % 2 ^ w)) 8
    if abit e 0 = 0 then (0, 0, .err tcPfload)
    else if abit e 1 = 1 then
      if level = 3 then (0, 0, .err tcBadpte) else (e, lo, entryLeaf lo e va)
    else if level = 0 then (0, 0, .err tcBadpte)
    else match entryNext level e with
      | some t => walkFrom s va rest t
      | none => (0, 0, .err tcBadpte)

/-- Levels of R291: number, lowest index bit, index width. -/
def walkLevels : List (Nat × Nat × Nat) := [(3, 44, 13), (2, 30, 14), (1, 21, 9), (0, 16, 5)]

def partOf (s : State) (p : Nat) : Partition := (s.parts.find? fun x => x.num == p).getD (Partition.atReset p)
def updPart (s : State) (p : Nat) (f : Partition → Partition) : State :=
  { s with parts := s.parts.map fun x => if x.num == p then f x else x }

/-- A partition translates through the tables an operation was issued under (R148). -/
def withRoot (s : State) (p : Nat) (root : DWord) : State := updPart s p fun x => { x with ptroot := root }

/-- The ASID of a partition's context (R292). -/
def partAsid (s : State) (p : Nat) : Nat := (partOf s p).ptroot.toNat % 65536

/-- A fresh walk for a partition (R295). -/
def walkFresh (s : State) (p va : Nat) : Nat × Nat × Walked :=
  let r := (partOf s p).ptroot.toNat
  if abit r 63 = 0 then (0, 0, .err tcPfload) else walkFrom s va walkLevels (bitsOf r 51 16 * 65536)

/-- The cluster a core belongs to (R252, R367). -/
def clusterOfCore (s : State) (core : Nat) : Option Cluster :=
  s.clusters.find? fun c =>
    let y := core % 48 / 8
    let x := core % 8
    c.die == core / 48 && decide (c.row0 ≤ y) && decide (y < c.row0 + c.h) && decide (c.col0 ≤ x)
      && decide (x < c.col0 + c.w)

def updCluster (s : State) (c : ClusterRef) (f : Cluster → Cluster) : State :=
  { s with clusters := s.clusters.map fun x => if x.ref == c then f x else x }
def clusterAt (s : State) (c : ClusterRef) : Option Cluster := s.clusters.find? fun x => x.ref == c

/-- The cores of a cluster. -/
def clusterCores (c : Cluster) : List Nat :=
  (List.range c.h).flatMap fun y => (List.range c.w).map fun x => 48 * c.die + 8 * (c.row0 + y) + c.col0 + x

/-- The entry of a cluster's TLB that covers an address (R257). -/
def tlbEntry (c : Cluster) (asid va : Nat) : Option TlbEntry := c.tlb.find? fun t => t.asid == asid && t.vpage == va / 2 ^ t.size

/-- A translation from a core (R257, R296): where the TLB still holds another entry than the tables give, either is used; with
PTROOT.EN clear none is (R292). -/
def translate (s : State) (p core va : Nat) : Walked :=
  let (e, _, w) := walkFresh s p va
  if abit (partOf s p).ptroot.toNat 63 = 0 then w
  else match (clusterOfCore s core).bind fun c => tlbEntry c (partAsid s p) va with
    | some t => if t.leaf == e then w else if Config.keepsStale s.clk core va then entryLeaf t.size t.leaf va else w
    | none => w

/-- The permissions of a page admit an access: R 1, W 2, X 4, and 8 for a write by a program, which no executable page admits (R54,
R295). -/
def permOk (need perm : Nat) : Bool := (need % 8) &&& perm == need % 8 && !(abit need 3 == 1 && abit perm 2 == 1)

/-- A translation with its permissions checked. -/
def permitted (need : Nat) : Walked → Walked
  | .ok pa share perm => if permOk need perm then .ok pa share perm else .err tcProt
  | .err c => .err c

/-- Check a translated address: canonical form (R151) first, then R295 with the permission bits needed. -/
def xlate (s : State) (p core va need : Nat) : Walked :=
  if canonical va then permitted need (translate s p core va) else .err tcProt

/-- A core uses the home of `n` lines from that of `pa` on: the guest copies that its own base die reads are gone with it, so that its
threads, and those it is ordered before at DIE scope, do not read bytes older than those (R288, R299, R301). -/
def ownGuests (s : State) (core share pa n : Nat) : State :=
  if s.guests.isEmpty then s
  else { s with guests := s.guests.filter fun g =>
      !(decide (pa / 128 ≤ g.pline) && decide (g.pline < pa / 128 + n) && g.stale && homeSlice share (128 * g.pline) / 64 != coreBase core) }
@[inherit_doc ownGuests] def ownGuest (s : State) (core share pa : Nat) : State := ownGuests s core share pa 1

/-- A core's write reached the home of a line: the record names the core, and whether its threads hold narrow releases (R306): a mark of
the same core stays. -/
def coreWrote (s : State) (core : Nat) (narrow : Bool) (share pa : Nat) : State :=
  let s := ownGuest s core share pa
  let old : Bool := s.records.any fun r => r.pline == pa / 128 && r.core == core && r.narrow
  { s with records := ⟨pa / 128, core, narrow || old⟩ :: s.records.filter fun r => r.pline != pa / 128 }

/-- Write back the dirty bytes of an L1 line at its home (R289). -/
def l1WriteBack (s : State) (l : L1Line) : State :=
  if !(l.dirty.any id) then s
  else coreWrote (((l.data.zip l.dirty).zipIdx).foldl (fun s x =>
    if x.1.2 then wrHome s (some l.share) (128 * l.pline + x.2) x.1.1 else s) s) l.core l.narrow l.share (128 * l.pline)

/-- Write back and drop the L1 lines that satisfy a test. -/
def l1Drop (s : State) (p : L1Line → Bool) : State :=
  let s' := s.l1.foldl (fun s l => if p l then l1WriteBack s l else s) s
  { s' with l1 := s.l1.filter fun l => !p l }

/-- Write back the L1 lines that satisfy a test and keep them clean. -/
def l1Clean (s : State) (p : L1Line → Bool) : State :=
  let s' := s.l1.foldl (fun s l => if p l then l1WriteBack s l else s) s
  { s' with l1 := s.l1.map fun l => if p l then { l with dirty := l.dirty.map fun _ => false } else l }

/-- A TLB entry covers a byte of the physical page that starts at `pa` and spans `2 ^ size` bytes (R258). -/
def tlbMeets (t : TlbEntry) (pa size : Nat) : Bool :=
  match entryLeaf t.size t.leaf 0 with
  | .ok p _ _ => decide (p < pa + 2 ^ size) && decide (pa < p + 2 ^ t.size)
  | .err _ => false

/-- Keep the newest eight entries of each of the 512 sets (R257). The set of an entry is its page's number modulo 512 (log entry 98). -/
def tlbTrim (l : List TlbEntry) : List TlbEntry :=
  match l with
  | [] => []
  | t :: r => t :: r.filter fun x => x.vpage % 512 != t.vpage % 512
      || decide ((r.filter fun y => y.vpage % 512 == t.vpage % 512).length < 8)
      || (r.filter fun y => y.vpage % 512 == t.vpage % 512).getLast? != some x

/-- Remember a translation in the cluster's TLB (R257). By the reverse map no two entries cover one physical 64-KiB page: older
entries of the page leave, and the L1 lines under its other names are written back and dropped in the whole cluster (R258). -/
def tlbFill (s : State) (p core va : Nat) : State :=
  let (e, size, w) := walkFresh s p va
  match w, clusterOfCore s core with
  | .ok pa _ _, some c =>
    let asid := partAsid s p
    if (tlbEntry c asid va).isSome then s
    else
      let base := pa - va % 2 ^ size
      let cores := clusterCores c
      let other (l : L1Line) : Bool := cores.contains l.core && decide (base ≤ 128 * l.pline) && decide (128 * l.pline < base + 2 ^ size)
        && !(l.asid == asid && 128 * l.vline / 2 ^ size == va / 2 ^ size)
      let s := if s.l1.any other then l1Drop s other else s
      updCluster s c.ref fun c =>
        { c with tlb := tlbTrim (⟨asid, va / 2 ^ size, size, e⟩ :: c.tlb.filter fun t => !(tlbMeets t base size)) }
  | _, _ => s

/-- R258: other virtual names of a physical line are written back and dropped in every core of the cluster. -/
def dropAliases (s : State) (core asid vline pline : Nat) : State :=
  let cores := match clusterOfCore s core with | some c => clusterCores c | none => [core]
  let other (l : L1Line) : Bool := l.pline == pline && cores.contains l.core && !(l.asid == asid && l.vline == vline)
  if s.l1.any other then l1Drop s other else s

/-- The L1 line of a virtual line, by its tag (R257). -/
def l1Find (s : State) (core asid va : Nat) : Option L1Line :=
  s.l1.find? fun l => l.core == core && l.asid == asid && l.vline == va / 128

/-- The entry a new line is filled under: the TLB's, or the tables'. -/
def fillLeaf (s : State) (p core va : Nat) : Nat × Nat :=
  match (clusterOfCore s core).bind fun c => tlbEntry c (partAsid s p) va with
  | some t => (t.leaf, t.size)
  | none => let w := walkFresh s p va; (w.1, w.2.1)

/-- The L1 line of an address of a partition, filled from its home on a miss (R289). -/
def l1Line (s : State) (core p va pa share : Nat) : State × L1Line :=
  let asid := partAsid s p
  let s := dropAliases s core asid (va / 128) (pa / 128)
  match (l1Find s core asid va).filter fun l => l.pline == pa / 128 with
  | some l => (s, l)
  | none =>
    let s := l1Drop s fun l => l.core == core && l.asid == asid && l.vline == va / 128
    let x := fillLeaf s p core va
    let l : L1Line := ⟨core, asid, va / 128, pa / 128, share,
      (List.range 128).map fun k => rdFrom s core share (pa / 128 * 128 + k), List.replicate 128 false, x.1, x.2, false⟩
    ({ s with l1 := l :: s.l1 }, l)

/-- Read `n` bytes of one line through the L1. -/
def l1Read (s : State) (core p va pa share n : Nat) : State × List Byte :=
  let (s, l) := l1Line s core p va pa share
  (s, (l.data.drop (pa % 128)).take n)

/-- Replace bytes of a list. -/
def setBytes (l : List Byte) (k : Nat) (b : List Byte) : List Byte := l.take k ++ b ++ l.drop (k + b.length)

/-- Write bytes of one line into the L1, which holds them dirty (R289). -/
def l1Write (s : State) (core p va pa share : Nat) (narrow : Bool) (b : List Byte) : State :=
  let (s, l) := l1Line s core p va pa share
  let k := pa % 128
  { s with l1 := s.l1.map fun x =>
    if x.core == l.core && x.asid == l.asid && x.vline == l.vline then
      { x with
        data := setBytes x.data k b
        narrow := x.narrow || narrow
        dirty := x.dirty.take k ++ b.map (fun _ => true) ++ x.dirty.drop (k + b.length) }
    else x }

/-- A byte as an engine of a core reads it: the core's own dirty byte, else the home's (R304). -/
def rdEngine (s : State) (core pa : Nat) : Byte :=
  match s.l1.find? fun l => l.core == core && l.pline == pa / 128 && l.dirty.getD (pa % 128) false with
  | some l => l.data.getD (pa % 128) 0
  | none => rdHome s pa

/-- Write back and drop the core's L1 copy of a line (.NOL1, and before an access at the home). -/
def l1Flush (s : State) (core pline : Nat) : State := l1Drop s fun l => l.core == core && l.pline == pline

/-- An acquire wider than TEAM by a core: its copies of wider pages leave the L1 (R289). -/
def l1Acquire (s : State) (core : Nat) : State := l1Drop s fun l => l.core == core && l.share != shTeam
/-- A release wider than TEAM by a core: its dirty lines of wider pages reach their homes (R289). -/
def l1Release (s : State) (core : Nat) : State := l1Clean s fun l => l.core == core && l.share != shTeam

/-- Invalidations of guest copies are acknowledged (R288). -/
def guestsAcked (s : State) : State := { s with guests := s.guests.filter fun g => !g.stale }

/-- A release at a scope by a core: PACKAGE and wider also wait for the guest copies (R288). -/
def releaseAt (s : State) (core share : Nat) : State :=
  let s := if share = shTeam then s else l1Release s core
  if shPackage ≤ share then guestsAcked s else s
/-- An acquire at a scope by a core (R289, R300). -/
def acquireAt (s : State) (core share : Nat) : State := if share = shTeam then s else l1Acquire s core

/-- A core promotes its narrow releases (R306): the guest copies that writes before them made stale are acknowledged. -/
def promote (s : State) (core : Option Nat) : State :=
  let mine (c : Nat) : Bool := core.isNone || core == some c
  { (guestsAcked s) with
    records := s.records.map fun r => if mine r.core then { r with narrow := false } else r
    l1 := s.l1.map fun l => if mine l.core then { l with narrow := false } else l
    teams := s.teams.map fun (t : Team) => if mine t.core then
      { t with groups := t.groups.map fun (g : Group) => { g with threads := g.threads.map fun (x : Thread) => { x with narrow := false } } } else t }

/-- How a device access uses a host line (R435): a load, a load that keeps nothing, a write of a part, a write of all of it. -/
inductive HostUse where
  | load | once | part
  | whole (data : List Byte)
  deriving DecidableEq, Repr

/-- How one write of bytes at physical addresses uses the host line of an address (R435): a write that covers the line writes all of
it. -/
def lineUse (ws : List (Nat × List Byte)) (pa : Nat) : HostUse :=
  let init : List (Option Byte) := List.replicate 64 none
  let d := (ws.filter fun x => x.1 / 64 == pa / 64).foldl
    (fun (d : List (Option Byte)) x => (d.take (x.1 % 64) ++ x.2.map some ++ d.drop (x.1 % 64 + x.2.length)).take 64) init
  if d.all (·.isSome) then .whole (d.map fun b => b.getD 0) else .part

/-- A host line that the L2 owns is in M after an atomic, whether it wrote or not (R435). -/
def lineOwned (s : State) (pa : Nat) : State :=
  if s.host.lines.any fun l => l.line == pa / 64 && l.st == .e && l.req.isNone then
    updHostLines s (fun l => l.line == pa / 64) fun l => { l with st := .m }
  else s

/-- The line a device access needs is there (R435), and no host copy of a device line is outstanding (R394). Requests 8 and 9
stand for RdCurr data and an ItoMWr that the host has granted. -/
def hostReady (s : State) (share pa : Nat) (u : HostUse) : Bool :=
  if region pa = some 2 then
    match hostLine s pa with
    | some l =>
      match u with
      | .load => l.st != .i && (l.req.isNone || l.req == some 4)
      | .once => l.st != .i || l.req == some 8
      | .part => (l.st == .m || l.st == .e) && l.req.isNone
      | .whole d => ((l.st == .m || l.st == .e) && l.req.isNone) || (l.req == some 9 && l.data == d)
    | none => false
  else
    let reads : Bool := match u with | .load => true | .once => true | _ => false
    share != shSystem || !(s.host.held.contains (pa / 64)) || (reads && s.host.shared.contains (pa / 64))

/-- A request for the line is outstanding. -/
def hostAsked (s : State) (pa : Nat) : Bool :=
  if region pa = some 2 then
    match hostLine s pa with
    | some l => l.req.isSome && l.req != some 8 && l.req != some 9
    | none => false
  else s.host.snooping.any fun x => x.1 == pa / 64

/-- The request of R435 for a use, by the state held. -/
def hostRequest (st : Mesi) (u : HostUse) : Nat :=
  match u with
  | .load => 1
  | .once => 2
  | .part => if st == .s then 4 else 3
  | .whole _ => if st == .s then 4 else 5

/-- Send the request of R435 for a host line, or the back-invalidate snoop of R394. -/
def hostAsk (s : State) (share pa : Nat) (u : HostUse) : State :=
  let n := pa / 64
  if hostReady s share pa u || hostAsked s pa then s
  else if region pa = some 2 then
    let st : Mesi := match hostLine s pa with | some l => l.st | none => .i
    let k := hostRequest st u
    let put (l : HostLine) : HostLine :=
      match u with
      | .whole d => if k = 5 then { l with req := some k, writing := true, data := d } else { l with req := some k }
      | _ => { l with req := some k }
    let lines := match hostLine s pa with
      | some _ => s.host.lines.map fun l => if l.line == n then put l else l
      | none => put ⟨n, .i, List.replicate 64 0, false, false, none⟩ :: s.host.lines
    { s with host := { s.host with lines := lines, log := s.host.log ++ [.request n k (hostLink n)] } }
  else
    let inv : Bool := match u with | .load => false | .once => false | _ => true
    { s with host := { s.host with snooping := (n, inv) :: s.host.snooping, log := s.host.log ++ [.bisnp n inv] } }

/-- RdCurr data and granted ItoMWr of lines are used up. -/
def hostUsed (s : State) (lines : List Nat) : State :=
  if s.host.lines.any fun l => lines.contains l.line && (l.req == some 8 || l.req == some 9) then
    updHostLines s (fun l => lines.contains l.line && (l.req == some 8 || l.req == some 9)) fun l => { l with req := none }
  else s

end Sys2Proof.Machine
end

