-- ==== Sys2Proof/Machine/Ops.lean ====
section
/-! DEFINITION. Named operations over teams, groups, threads and registers: finding and changing them, lanes, the register
file with its states, Cuff and Brim, loop queues, and the launch record's fields. -/

namespace Sys2Proof.Machine

/-! Activity budgets (R415): 0 host DMA, 1 fabric, 2 Milliner, 3 copy engines, 4 scrub. -/

def budgetAt (s : State) (k : Nat) : Budget := s.budgets.getD k Budget.atReset
/-- The units of a budget in force: lowered while the package keeps its power limit, but never to 0 (R416, R418; log entry 104). -/
def effUnits (s : State) (k units : Nat) : Nat :=
  if s.boot.pwrlim then min units (max 1 (Config.loweredUnits k s.boot.milliwatts)) else units
/-- The bytes that an activity may still move in this period; none without a limit. -/
def budgetRoom (s : State) (k : Nat) : Option Nat :=
  let u := effUnits s k (budgetAt s k).units
  if u = 0xffffffff then none else some (4096 * u - (budgetAt s k).used)
/-- The activity has units left in this period. -/
def budgetOpen (s : State) (k : Nat) : Bool := match budgetRoom s k with | some n => decide (0 < n) | none => true
/-- The activity may go on with work of a partition: its period has room, or the partition halts (R416). -/
def budgetFor (s : State) (p k : Nat) : Bool := budgetOpen s k || s.parts.any fun x => x.num == p && x.life == .halted
/-- Charge `n` bytes moved. -/
def charge (s : State) (k n : Nat) : State :=
  { s with budgets := (s.budgets.zipIdx).map fun x => if x.2 == k then { x.1 with used := x.1.used + n } else x.1 }

/-! Finding and changing. -/

def teamAt (s : State) (t : TeamRef) : Option Team := s.teams.find? fun x => x.ref == t
def updTeam (s : State) (t : TeamRef) (f : Team → Team) : State :=
  { s with teams := s.teams.map fun x => if x.ref == t then f x else x }
def gridAt (s : State) (n : Nat) : Option Grid := s.grids.find? fun x => x.id == n
def updGrid (s : State) (n : Nat) (f : Grid → Grid) : State :=
  { s with grids := s.grids.map fun x => if x.id == n then f x else x }

/-- Change element `k` of a list. -/
def modAt {α : Type} (l : List α) (k : Nat) (f : α → α) : List α :=
  (l.zipIdx).map fun x => if x.2 == k then f x.1 else x.1

def groupAt (s : State) (g : GroupRef) : Option Group :=
  match teamAt s g.team with
  | some t => t.groups[g.grp]?
  | none => none
def updGroup (s : State) (g : GroupRef) (f : Group → Group) : State :=
  updTeam s g.team fun t => { t with groups := modAt t.groups g.grp f }
def updRegs (s : State) (t : TeamRef) (f : TeamRegs → TeamRegs) : State :=
  updTeam s t fun x => { x with regs := f x.regs }

/-- The registers of a core (R243, R244, R320); reset values for a core without an entry. -/
def CoreRegs.atReset (c : Nat) : CoreRegs :=
  { core := c, units := 0xffffffff, stalls := 0, remaining := 0xffffffff, cbClk := 0, cbMax := 0, cbLast := 0, periodAt := 0, atBegin := [] }
def coreRegsOf (s : State) (c : Nat) : CoreRegs := (s.coreRegs.find? fun x => x.core == c).getD (CoreRegs.atReset c)
def updCoreRegs (s : State) (c : Nat) (f : CoreRegs → CoreRegs) : State :=
  { s with coreRegs := f (coreRegsOf s c) :: s.coreRegs.filter fun x => x.core != c }

/-- The harvest code of a core (R276). -/
def hmapCode (s : State) (core : Nat) : Nat :=
  match s.pkg.hmap.find? fun x => x.1 == core with
  | some x => x.2
  | none => 1
def coreEnabled (s : State) (core : Nat) : Bool := core < 384 && hmapCode s core % 2 == 1
/-- The class of a core (R16): 0 F, 1 N, 2 V, 3 W. -/
def coreClass (s : State) (core : Nat) : Nat := hmapCode s core / 2 % 4

/-! The launch record (R374). -/

def lrNat (b : List Byte) (off n : Nat) : Nat := ofBytes ((b.drop off).take n)
def lrCtl (b : List Byte) : Nat := lrNat b 0 4
def lrRes (b : List Byte) : Nat := lrNat b 4 4
def lrNdie (b : List Byte) : Nat := bitsOf (lrCtl b) 15 12
def lrH (b : List Byte) : Nat := bitsOf (lrCtl b) 18 16 + 1
def lrW (b : List Byte) : Nat := bitsOf (lrCtl b) 21 19 + 1
/-- Teams of one instance (R253). -/
def lrInst (b : List Byte) : Nat := lrH b * lrW b
def lrNout (b : List Byte) : Nat := bitsOf (lrCtl b) 25 22
def lrTcsrc (b : List Byte) : Bool := abit (lrCtl b) 26 == 1
def lrSer (b : List Byte) : Bool := abit (lrCtl b) 27 == 1
def lrIrq (b : List Byte) : Bool := abit (lrCtl b) 28 == 1
def lrRegs (b : List Byte) : Nat := 8 * bitsOf (lrRes b) 5 0
def lrUni (b : List Byte) : Nat := 8 * bitsOf (lrRes b) 9 6
def lrSpad (b : List Byte) : Nat := bitsOf (lrRes b) 14 10
def lrAcc (b : List Byte) : Nat := bitsOf (lrRes b) 19 15
def lrCmask (b : List Byte) : Nat := bitsOf (lrRes b) 23 20
def lrPolicy (b : List Byte) : Nat := bitsOf (lrRes b) 25 24
def lrDet (b : List Byte) : Bool := abit (lrRes b) 26 == 1
def lrTdie (b : List Byte) : Bool := abit (lrRes b) 27 == 1
def lrCoop (b : List Byte) : Bool := abit (lrRes b) 28 == 1
def lrEntry (b : List Byte) : Nat := lrNat b 8 8
def lrNtx (b : List Byte) : Nat := lrNat b 0x10 4
def lrNty (b : List Byte) : Nat := lrNat b 0x14 4
def lrNtz (b : List Byte) : Nat := lrNat b 0x18 4
def lrTx (b : List Byte) : Nat := bitsOf (lrNat b 0x1c 4) 10 0
def lrTy (b : List Byte) : Nat := bitsOf (lrNat b 0x1c 4) 21 11
def lrTz (b : List Byte) : Nat := bitsOf (lrNat b 0x20 4) 10 0
def lrBpool (b : List Byte) : Nat := bitsOf (lrNat b 0x20 4) 14 11
def lrBranch (b : List Byte) : Nat := lrNat b 0x24 4
def lrParam (b : List Byte) : Nat := lrNat b 0x28 8
def lrOuttab (b : List Byte) : Nat := lrNat b 0x30 8
def lrCmpl (b : List Byte) : Nat := lrNat b 0x38 8
def lrTcaddr (b : List Byte) : Nat := lrNat b 0x40 8
/-- Threads and groups of a team. -/
def lrThreads (b : List Byte) : Nat := lrTx b * lrTy b * lrTz b
def lrGroups (b : List Byte) : Nat := (lrThreads b + 31) / 32
/-- The deterministic policy (R169, R199). -/
def lrDetPolicy (b : List Byte) : Bool := lrPolicy b == 1

/-- The logical die of team `L` (R277). -/
def logicalDie (g : Grid) (lin : Nat) : Nat := if lrNdie g.lr = 0 then 0 else lin * lrNdie g.lr / g.teams

/-! Lanes. -/

/-- A lane mask from a test. -/
def laneMask (f : Nat → Bool) : BitVec 32 :=
  BitVec.ofNat 32 ((List.range 32).foldl (fun r l => if f l then r + 2 ^ l else r) 0)
/-- The lanes of a mask, ascending. -/
def lanesOf (m : BitVec 32) : List Nat := (List.range 32).filter fun l => m.getLsbD l
/-- The lowest lane of a mask. -/
def lowLane (m : BitVec 32) : Option Nat := (lanesOf m).head?

def noThread : Thread :=
  { present := false, tid := 0, pc := 0, preds := 0, stack := [], depth := 0, mark := .none, park := none, rel := false,
    land := false, post := false, narrow := false }
def threadAt (g : Group) (l : Nat) : Thread := Lanes.at g.threads l noThread
/-- Change the threads of a mask. -/
def updThreads (g : Group) (m : BitVec 32) (f : Nat → Thread → Thread) : Group :=
  { g with threads := Lanes.mk fun l => if m.getLsbD l then f l (threadAt g l) else threadAt g l }
def presentMask (g : Group) : BitVec 32 := laneMask fun l => (threadAt g l).present
/-- Ready threads (R167). The marks of R218 that do not apply in a handler stand in the frame: an entry clears the threads' own,
and what the handler itself marks holds its threads as it would outside (log entry 94). -/
def readyMask (g : Group) : BitVec 32 := laneMask fun l => (threadAt g l).present && (threadAt g l).mark == .none

/-- A thread's predicate, p7 reading true (R56). -/
def predOf (t : Thread) (p : Pred) : Bool := (p.num == 7 || t.preds.getLsbD p.num.toNat) != p.neg

/-- The active lanes of an issue at `pc` (R56, R103). -/
def activeMask (g : Group) (pc : DWord) (p : Pred) : BitVec 32 :=
  laneMask fun l => (readyMask g).getLsbD l && (threadAt g l).pc == pc && predOf (threadAt g l) p

/-! The register file (R62, R63, R101, R102, R173) and the loop queues over it (R213). -/

def zeroWords : Lanes Word := Lanes.all 0
def regAt (g : Group) (n : Nat) : VReg := g.regs.getD n ⟨.dead, zeroWords⟩
def setReg (g : Group) (n : Nat) (r : VReg) : Group := { g with regs := g.regs.set n r }

/-- The loop queue whose run holds a register. -/
def runOf (g : Group) (n : Nat) : Option (Nat × LoopQ) :=
  (g.loopqs.toList.zipIdx).findSome? fun x => match x.1 with
    | some q => if q.base ≤ n ∧ n < q.base + q.len then some (x.2, q) else none
    | none => none

/-- Merge lanes of a mask into a register; unwritten lanes of a DEAD register become zero (R63). -/
def mergeReg (r : VReg) (m : BitVec 32) (v : Nat → Word) : VReg :=
  { st := .full
    vals := Lanes.mk fun l =>
      if m.getLsbD l then v l else if r.st == .dead then 0 else Lanes.at r.vals l 0 }

/-- A write of `vn` takes its tag from every Cuff slot, unless it also writes a slot with that tag: `keep` (R173). -/
def untag (g : Group) (n : Nat) (keep : Bool) : Group :=
  { g with cuffs := Vector.ofFn fun i =>
      let c := g.cuffs[i]
      if c.tag == some (BitVec.ofNat 8 n) && !keep then { c with tag := none } else c }

/-- Write lanes of one register: a loop-queue run takes the value as a push to its tail (R213). -/
def writeReg (g : Group) (n : Nat) (m : BitVec 32) (v : Nat → Word) : Group :=
  match runOf g n with
  | some (k, q) =>
    let t := q.base + (q.head + q.occ) % q.len
    let g := setReg g t (mergeReg { (regAt g t) with st := .dead } m v)
    { g with loopqs := g.loopqs.setIfInBounds k (some { q with occ := q.occ + 1, byProg := true }) }
  | none => setReg g n (mergeReg (regAt g n) m v)

/-- A dead read of `vn` (R62): the register is DEAD and its Cuff slots are released. -/
def killReg (g : Group) (n : Nat) : Group :=
  let g := setReg g n { (regAt g n) with st := .dead }
  { g with cuffs := g.cuffs.map fun c => if c.tag == some (BitVec.ofNat 8 n) then { c with valid := false, tag := none } else c }

/-- Mark a register EMPTY, as a long-latency producer does (R153). Lanes of a DEAD register that are not written become zero. -/
def emptyReg (g : Group) (n : Nat) : Group :=
  let r := regAt g n
  setReg g n { st := .empty, vals := if r.st == .dead then zeroWords else r.vals }

/-- Pop a loop queue (R213). -/
def popQueue (g : Group) (k : Nat) : Group :=
  match g.loopqs.toList.getD k none with
  | some q =>
    let n : LoopQ := { q with head := (q.head + 1) % q.len, occ := q.occ - 1, byProg := q.byProg && decide (1 < q.occ) }
    { g with loopqs := g.loopqs.setIfInBounds k (some n) }
  | none => g

def cuffAt (g : Group) (k : Nat) : CuffSlot := g.cuffs.toList.getD k ⟨false, none, zeroWords, none⟩
/-- Write a Cuff slot (R67): an invalid slot is zero-filled, a valid one merged. -/
def writeCuff (g : Group) (k : Nat) (tag : Option (BitVec 8)) (m : BitVec 32) (v : Nat → Word) (tok : Option Nat) : Group :=
  let c := cuffAt g k
  let base := if c.valid then c.vals else zeroWords
  let n : CuffSlot := ⟨true, tag, Lanes.mk fun l => if m.getLsbD l then v l else Lanes.at base l 0, tok⟩
  { g with cuffs := g.cuffs.setIfInBounds k n }

def noLatch : Latch := ⟨false, Lanes.all 0, none⟩
/-- The latch of a pipe (R63). -/
def latchOf (g : Group) (y : Bool) : Latch := if y then g.ly else g.lx
def setLatch (g : Group) (y : Bool) (l : Latch) : Group := if y then { g with ly := l } else { g with lx := l }
/-- A result's latch (R65): lanes of other threads read zero. -/
def writeLatch (g : Group) (y : Bool) (m : BitVec 32) (v : Nat → DWord) (tok : Option Nat) : Group :=
  setLatch g y ⟨true, Lanes.mk fun l => if m.getLsbD l then v l else 0, tok⟩

/-- A switch point (R174): Cuff and Brim become invalid. -/
def dropOperands (g : Group) : Group :=
  { g with
    cuffs := g.cuffs.map fun c => { c with valid := false, tag := none, await := none }
    lx := { g.lx with valid := false, await := none }
    ly := { g.ly with valid := false, await := none } }

/-! Program counters (R53, R135). -/

/-- R53. -/
def pcOk (pc : Nat) : Bool := canonical pc && bitsOf pc 5 3 == 0 && decide (bitsOf pc 2 0 < 5)
/-- R135: the sequential successor of a slot. -/
def pcNext (pc : DWord) : DWord := if pc.toNat % 8 < 4 then pc + 1 else pc - 4 + 64
/-- The line of a program counter. -/
def pcLine (pc : DWord) : Nat := pc.toNat / 64 * 64

/-- A byte of a grid's code: memory as it was at the enqueue (R54). -/
def codeByte (g : Grid) (pa : Nat) : Byte :=
  if (region pa).isSome then Memory.read g.code pa else Config.holeByte pa

/-- A fetch line of a grid by its physical address. -/
def lineOf (g : Grid) (pa : Nat) : Line := Line.ofBytes ((List.range 64).map fun k => codeByte g (pa + k))
/-- Where a line is fetched by a core (R54, R79 check 1): its physical address, or the trap code. -/
def fetchAddr (s : State) (g : Grid) (core line : Nat) : Nat ⊕ Nat :=
  match xlate s g.part core line 4 with
  | .ok pa _ _ => .inl pa
  | .err c => .inr c
/-- A fetch line of a grid from a core: the line, or the trap code. -/
def fetchLine (s : State) (g : Grid) (core : Nat) (pc : DWord) : Line ⊕ Nat :=
  match fetchAddr s g core (pcLine pc) with
  | .inl pa => .inl (lineOf g pa)
  | .inr c => .inr c

/-- The line of a group's slot: its fetch buffer holds it, and nothing is translated again, or it is fetched (R54). -/
def groupFetch (s : State) (gr : Grid) (core : Nat) (g : Group) (line : Nat) : Nat ⊕ Nat :=
  match g.lines.find? fun x => x.1 == line with
  | some x => .inl x.2
  | none => fetchAddr s gr core line
/-- The fetch buffer once the group stands in a line at `pa`: that line, and the next one if it can be fetched (R54). -/
def bufferLines (s : State) (gr : Grid) (core : Nat) (g : Group) (line pa : Nat) : List (Nat × Nat) :=
  (line, pa) :: match groupFetch s gr core g (wrap 64 ((line : Int) + 64)) with
    | .inl p => [(wrap 64 ((line : Int) + 64), p)]
    | .inr _ => []

/-- Whether a slot of a line is marked (R52); none where the line breaks another check of R79. -/
def slotMarked (l : Line) (pc : DWord) : Option Bool := if l.parityOk && l.wordOk then some (l.word.tgt.getLsbD (pc.toNat % 8)) else none
/-- R52: whether a landing slot is marked; none when the line cannot be entered, and the fetch decides. -/
def landingMarked (s : State) (g : Grid) (core : Nat) (pc : DWord) : Option Bool :=
  match fetchLine s g core pc with
  | .inl l => slotMarked l pc
  | .inr _ => none

/-! Group status (R197). -/

/-- Opcodes of queue entries that take the group out of issue until they end: ARRWAIT, MWAIT, TKWAIT, HQPUSH, HQPOP, ACCALLOC. -/
def isWaitOp (opc : Nat) : Bool :=
  opc == 0xbb || opc == 0x8c || opc == 0xe9 || opc == 0xbd || opc == 0xbe || opc == 0xc2
/-- Opcodes that hold the group's next issue while they are in the queue: FENCE, RACQ and the reload of RET. -/
def isStallOp (opc : Nat) : Bool := opc == 0x8a || opc == 0x8b || opc == 0x65

def groupWaits (g : Group) : Bool := g.queue.any fun a => isWaitOp a.opc

/-- Threads released from a barrier become ready when the group has no other ready thread (R171). -/
def wakeReleased (g : Group) : Group :=
  let m := laneMask fun l => (threadAt g l).present && (threadAt g l).rel
  if m = 0 then g
  else { (updThreads g m fun _ t => { t with mark := .none, park := none, rel := false }) with sel := true }

/-- READY, WAITING or DONE from the threads and the queue (R197); a handler keeps its state until it ends or resumes. -/
def refreshGroup (g : Group) : Group :=
  let p := presentMask g
  if p = 0 then
    if g.queue.isEmpty && g.status != .done then { g with status := .done, saved := [], joins := [] } else g
  else if g.status == .handler then (if readyMask g = 0 then wakeReleased g else g)
  else
    let g := if readyMask g = 0 then wakeReleased g else g
    let w := groupWaits g || (lanesOf p).all fun l => (threadAt g l).mark == .parked
    if w then { g with status := .waiting }
    else if g.status == .waiting then { g with status := .ready, sel := true, chosen := false } else { g with status := .ready }

/-- The thread number of a lane's thread within its team: %tid (R187). -/
def tidOf (g : Group) (l : Nat) : Nat := (threadAt g l).tid

/-- The moment of an issue, which orders a team's operations (R317, R335): later than that of every restored operation (R268, R390). -/
def stamp (s : State) : Nat := 2 ^ 64 + s.clk

/-- A byte as the share's youngest store entry has it (R321). -/
def shareByte (t : Team) (va : Nat) (b : Byte) : Byte :=
  t.tk.share.foldl (fun b e => if e.kind == .store && e.line == va / 128 && e.mask.getD (va % 128) false then
    e.data.getD (va % 128) 0 else b) b

/-! Reads and writes of the engines by virtual address of a partition. -/

/-- Translate for an engine of the package: canonical form, walk, permissions (R295). -/
def engXlate (s : State) (p va need : Nat) : Walked :=
  if canonical va then
    permitted need (walkFresh s p va).2.2
  else .err tcProt

/-- The first fault of `n` bytes at `va`, page by page. -/
def engFault (s : State) (p va n need : Nat) : Option Nat :=
  ((List.range ((va % 65536 + n + 65535) / 65536)).map fun k => if k = 0 then va else (va / 65536 + k) * 65536).findSome?
    fun a => match engXlate s p (a % 2 ^ 64) need with
      | .ok .. => none
      | .err c => some c

/-- `n` bytes at `va` cut at page boundaries: address, offset and length of each piece. -/
def virtPieces (va n : Nat) : List (Nat × Nat × Nat) :=
  (List.range ((va % 65536 + n + 65535) / 65536)).map fun k =>
    let lo := if k = 0 then 0 else (va / 65536 + k) * 65536 - va
    ((va + lo) % 2 ^ 64, lo, min n ((va / 65536 + k + 1) * 65536 - va) - lo)

/-- Read `n` bytes at a virtual address of a partition, or the trap code. -/
def virtRead (s : State) (p va n : Nat) : List Byte ⊕ Nat :=
  match engFault s p va n 1 with
  | some c => .inr c
  | none => .inl ((virtPieces va n).flatMap fun x => match engXlate s p x.1 1 with
    | .ok pa _ _ => (List.range x.2.2).map fun i => rdHome s (pa + i)
    | .err _ => List.replicate x.2.2 0)

/-- Lines in ranges of virtual addresses that the package cannot read yet, with their SHARE: host memory that the L2 does not hold (R435), and
lines of SYSTEM pages that the host may hold changed (R394). -/
def virtLacks (s : State) (p : Nat) (l : List (Nat × Nat)) : List (Nat × Nat) :=
  l.flatMap fun x => if x.2 = 0 then [] else
    (List.range ((x.1 % 64 + x.2 + 63) / 64)).filterMap fun k =>
      match engXlate s p ((x.1 / 64 + k) * 64 % 2 ^ 64) 1 with
      | .ok pa share _ => if (region pa == some 2 || share == shSystem) && !(hostReady s share pa .load) then some (share, pa) else none
      | .err _ => none
/-- A step of the package that reads ranges is made once their lines are there, which it asks for. -/
def withReads (s : State) (p : Nat) (l : List (Nat × Nat)) (f : Option State) : Option State :=
  let lacks := virtLacks s p l
  if lacks.isEmpty then f
  else if lacks.all fun x => hostAsked s x.2 then none
  else some (lacks.foldl (fun s x => hostAsk s x.1 x.2 .load) s)

/-- Ask for the host lines that a write of the package covers, each with an ItoMWr where the L2 does not hold it (R435). -/
def askWhole (s : State) (share pa : Nat) (b : List Byte) : State :=
  if region pa != some 2 then s
  else
    let first := (pa + 63) / 64
    (List.range ((pa + b.length) / 64 - first)).foldl (fun s k =>
      let at' := 64 * (first + k)
      if s.host.posted.any fun x => x.1 / 64 == at' / 64 then s
      else hostAsk s share at' (.whole ((b.drop (at' - pa)).take 64))) s

/-- Write bytes at a virtual address of a partition, or the trap code; nothing is written on a fault. -/
def virtWrite (s : State) (p va : Nat) (b : List Byte) : State ⊕ Nat :=
  match engFault s p va b.length 2 with
  | some c => .inr c
  | none => .inl ((virtPieces va b.length).foldl (fun t x => match engXlate s p x.1 2 with
    | .ok pa share _ =>
      let d := (b.drop x.2.1).take x.2.2
      (d.zipIdx).foldl (fun t y => wrHome t (some share) (pa + y.2) y.1) (askWhole t share pa d)
    | .err _ => t) s)

/-! Completion records, and stopping a partition (R99, R377, R388, R398, R414). -/

/-- A vector is raised (R398): sent when MSI-X is enabled and neither the function nor the vector is masked, else pending. -/
def raiseMsix (s : State) (v : Nat) : State :=
  let m := s.host.msix
  if m.on && !m.fmask && !(m.masked.contains v) then { s with host := { s.host with log := s.host.log ++ [.msix v] } }
  else { s with host := { s.host with msix := { m with pending := if m.pending.contains v then m.pending else m.pending ++ [v] } } }

/-- A write of the MSI-X capability by the host: 0 its control bits (14 function mask, 15 enable), 1 + 3·v + k word k of vector v (address,
data, and in bit 0 its mask). Pending vectors that may be sent are sent. -/
def msixWrite (s : State) (k x : Nat) : State :=
  let m := s.host.msix
  let v := (k - 1) / 3
  let m : Msix :=
    if k = 0 then { m with on := abit x 15 == 1, fmask := abit x 14 == 1 }
    else if 4 ≤ v then m
    else match (k - 1) % 3 with
      | 0 => { m with table := m.table.set v (x, (m.table.getD v (0, 0)).2) }
      | 1 => { m with table := m.table.set v ((m.table.getD v (0, 0)).1, x) }
      | _ => { m with masked := (m.masked.filter fun y => y != v) ++ if abit x 0 = 1 then [v] else [] }
  m.pending.foldl raiseMsix { s with host := { s.host with msix := { m with pending := [] } } }

/-- What follows a performed write of the package: PRQHEAD advances, a vector is raised (R396, R398). -/
def firePosted (s : State) (x : Posted) : State :=
  let s := if x.head then { s with host := { s.host with prqhead := s.host.prqhead + 1 } } else s
  match x.vector with
  | some v => raiseMsix s v
  | none => s

/-- Once every write of the package so far is performed at SYSTEM scope: host lines owned (R435), host copies snooped (R394). -/
def whenPosted (s : State) (head : Bool) (vector : Option Nat) : State :=
  let lines := s.host.posted.map (fun x => x.1 / 64) ++ (s.host.snooping.filter fun x => x.2).map (·.1)
  if lines.isEmpty && s.host.after.isEmpty then firePosted s ⟨[], head, vector⟩
  else { s with host := { s.host with after := s.host.after ++ [⟨lines, head, vector⟩] } }

/-- A host line's writes are performed, or its snoop is answered: what awaited only it goes on, in order. -/
def settlePosted (s : State) (line : Nat) : State :=
  let after := s.host.after.map fun x => { x with lines := x.lines.filter fun n => n != line }
  let ready := after.takeWhile fun x => x.lines.isEmpty
  ready.foldl firePosted { s with host := { s.host with after := after.drop ready.length } }

/-- The writes of the package to a host line are performed where the L2 owns it, and one that covers it at the GO of its ItoMWr; else
ownership is asked for (R435). -/
def flushPosted (s : State) (line : Nat) : State :=
  let mine := s.host.posted.filter fun x => x.1 / 64 == line
  let whole : Bool := s.host.lines.any fun l => l.line == line && l.req == some 9
    && mine.take 64 == (l.data.zipIdx).map fun x => (64 * line + x.2, x.1)
  if mine.isEmpty then s
  else if whole then
    let s := (mine.take 64).foldl (fun s x => wrHome s none x.1 x.2)
      { s with host := { s.host with posted := (s.host.posted.filter fun x => x.1 / 64 != line) ++ mine.drop 64 } }
    let s := hostUsed s [line]
    if (mine.drop 64).isEmpty then settlePosted s line else askOwn s line
  else if s.host.lines.any fun l => l.line == line && (l.st == .m || l.st == .e) && l.req.isNone then
    settlePosted (mine.foldl (fun s x => wrHome s none x.1 x.2)
      { s with host := { s.host with posted := s.host.posted.filter fun x => x.1 / 64 != line } }) line
  else askOwn s line

/-- An access has used its host lines: granted lines are used up, and writes that waited for them go on (R435). -/
def hostDone (s : State) (lines : List Nat) : State := lines.foldl flushPosted (hostUsed s lines)

/-- Set a bit of MGSTAT; vector 3 when it was clear (R398). -/
def setMgstat (s : State) (k : Nat) : State :=
  if s.host.mgstat.getLsbD k then s
  else raiseMsix { s with host := { s.host with mgstat := s.host.mgstat ||| BitVec.ofNat 5 (2 ^ k) } } 3

/-- A team stands on a core that a restore has not released yet (R390). -/
def coreHeld (s : State) (t : Team) : Bool :=
  (partOf s t.part).life == .restoring && (partOf s t.part).unreleased.contains t.core

/-- %clock of a partition (R116). -/
def clockOf (s : State) (p : Nat) : Nat := s.clk - (partOf s p).clock0

/-- The 64 bytes of a completion record (R377) at the present clk. -/
def completionBytes (s : State) (p status reason teams start : Nat) (ticket : List Byte) : List Byte :=
  toBytes 4 status ++ toBytes 4 reason ++ toBytes 8 teams ++ toBytes 8 start ++ toBytes 8 (clockOf s p) ++ ticket
    ++ List.replicate (16 - ticket.length) 0 ++ List.replicate 16 0

/-- Write a completion record as a release at SYSTEM scope; none when the write faults (R377). An address of 0 names no
record. -/
def writeCompletion (s : State) (p cmpl status reason teams start : Nat) (ticket : List Byte) (irq : Bool) : Option State :=
  if cmpl = 0 then some s
  else match virtWrite s p cmpl (completionBytes s p status reason teams start ticket) with
    | .inl s => some (if irq then whenPosted (guestsAcked s) false (some 2) else guestsAcked s)
    | .inr _ => none

/-- The ticket block of a deterministic grid (R333). LOWABORT without an aborted ticket is 0xffff_ffff as its table
says, not the zero of R421 (DEDUCED, log entry 106). -/
def ticketBlock (g : Grid) : List Byte :=
  if lrDet g.lr then
    toBytes 4 g.aborted.length ++ toBytes 4 (g.aborted.foldl min 0xffffffff) ++ toBytes 4 g.dflags ++ toBytes 4 0
  else []

def updQueue (s : State) (q : Nat) (f : Queue → Queue) : State :=
  if s.queues.any fun x => x.num == q then { s with queues := s.queues.map fun x => if x.num == q then f x else x }
  else { s with queues := f ⟨q, [], [], 0⟩ :: s.queues }
def queueOf (s : State) (q : Nat) : Queue := (s.queues.find? fun x => x.num == q).getD ⟨q, [], [], 0⟩

/-- Free a ring slot (R371). -/
def freeSlot (s : State) (q slot : Nat) : State :=
  updQueue s q fun x => { x with running := x.running.filter fun k => k != slot }

/-- The lowest linear index of logical die `k` of `n` teams (R277). -/
def dieFirst (b : List Byte) (n k : Nat) : Nat := (k * n + lrNdie b - 1) / lrNdie b
/-- Teams of a grid that have been placed (R279, R286). -/
def placedCount (g : Grid) : Nat :=
  if lrTdie g.lr then ((g.dieNext.zipIdx).map fun x => x.1 - dieFirst g.lr g.teams x.2).sum else g.nextL

/-- What the threads of a partition have written is performed at every scope, as a completion record's release asks (R377). -/
def partReleased (s : State) (p : Nat) : State :=
  guestsAcked (l1Clean s fun l => l.share != shTeam && (clusterOfCore s l.core).any fun c => c.ref.part == p)

/-- End every grid and graph run of a halted partition with KILLED and discard its context, also one that waits for its restore (R99,
R388, R409). CR.TEAMS counts the teams placed. -/
def killPartition (s : State) (p : Nat) : State :=
  let s := partReleased s p
  let kept := s.saves.filter fun c => c.live && c.part == p
  let gs := (s.grids.filter fun g => g.part == p) ++ kept.flatMap (·.grids)
  let s := gs.foldl (fun s g =>
    let s := (writeCompletion s p (lrCmpl g.lr) 3 0 (placedCount g) (g.startClk - (partOf s p).clock0) (ticketBlock g)
      (lrIrq g.lr)).getD s
    match g.link.run with | none => freeSlot s g.link.queue g.link.slot | some _ => s) s
  let s := ((partOf s p).runs ++ kept.flatMap (·.runs)).foldl (fun s r =>
    let n := ((gs.filter fun g => g.link.run.any fun x => x.1 == r.id).map placedCount).sum
    freeSlot ((writeCompletion s p r.cmpl 3 0 (r.teams + n) (r.startClk - (partOf s p).clock0) [] r.irq).getD s) r.queue r.slot) s
  let s := updPart s p fun x => { x with runs := [], life := .running, killing := false, unreleased := [] }
  { s with
    grids := s.grids.filter fun g => g.part != p
    teams := s.teams.filter fun t => t.part != p
    parked := s.parked.filter fun t => t.team.part != p
    saves := s.saves.map fun (c : SavedCtx) => if c.part == p then { c with live := false } else c
    monitors := s.monitors.filter fun m => match teamAt s m.grp.team with | some t => t.part != p | none => true
    clusters := s.clusters.map fun c => if c.ref.part == p then { c with slog := [], slogFull := false, copies := [], hqs := [] } else c
    fabric := { s.fabric with ops := s.fabric.ops.filter fun o => o.part != p }
    pkg := if s.pkg.ctxPart == p then { s.pkg with ctxBusy := false } else s.pkg
    cur := none }

/-- MCHECK: the host is told on vector 0, and the partition stops as KILL does: it halts, and ends with the halt (R99, R388, R414). -/
def mcheck (s : State) (p : Nat) : State :=
  let s := updPart s p fun x => { x with life := .halted, killing := true }
  raiseMsix { s with boot := { s.boot with mcheck := p :: s.boot.mcheck } } 0

/-- The fault of a side-log entry becomes pending in its group, or in the lowest of its team that is not DONE (R261). -/
def slogReturn (s : State) (team : TeamRef) (grp : Nat) (a : Access) (part : Nat) (c : Cause) : State :=
  match teamAt s team with
  | none => mcheck s part
  | some t =>
    let live (k : Nat) : Bool := (t.groups[k]?).any fun g => g.status != .done
    match if live grp then some grp else (List.range t.groups.length).find? live with
    | none => mcheck s part
    | some k => updGroup s ⟨t.ref, k⟩ fun g =>
        { g with side := g.side ++ [{ a with fault := some c, tok := g.tok }], tok := g.tok + 1 }

/-! Results of long-latency producers. -/

/-- The spill area of a thread (R141), before its reduction to canonical form. -/
def spillArea (s : State) (part lin tid : Nat) : Nat :=
  let p := partOf s part
  bitsOf p.tlsbase.toNat 56 6 * 64 + (lin * 1024 + tid) * p.tlssize * 64

/-- A reload of RET puts entries into the return stacks of its lanes (R140): each where its address names it, if it is still
awaited there. -/
def reloadStack (s : State) (part lin : Nat) (g : Group) (a : Access) (m : BitVec 32) (v : Nat → DWord) : Group :=
  updThreads g m fun l th =>
    let j := ((Lanes.at a.addr l 0).toNat + 2 ^ 58 - spillArea s part lin th.tid % 2 ^ 57) % 2 ^ 57 / 8
    let i := th.depth - 1 - j
    if th.stack[i]? == some none then { th with stack := th.stack.set i (some (v l)) } else th

/-- Registers that an access writes for one lane (R152, R204, R242, R345, R380). -/
def accRegs (a : Access) : Nat :=
  let w := a.mod % 8
  if a.opc == 0x80 || a.opc == 0x82 then (if w == 4 then 4 else if w == 3 then 2 else 1)
  else if a.opc == 0x85 || a.opc == 0x87 || a.opc == 0x88 then (if w == 3 then 2 else 1)
  else if a.opc == 0x8c || a.opc == 0xbb || a.opc == 0xbe || a.opc == 0xe9 || a.opc == 0xeb || a.opc == 0xfb then 1
  else if a.opc == 0xda || a.opc == 0xf4 || a.opc == 0xf7 || a.opc == 0xf8 then 2
  else if a.opc == 0xf6 then (if a.sub == 2 then 4 else 1)
  else if 0xf0 ≤ a.opc ∧ a.opc ≤ 0xf5 then 1
  else 0

def accDst (a : Access) : Dst := Dst.ofBits a.dst.toNat

/-- Put a result's lanes into the slot and the latch that still await it, or keep it for a trapped group (R221). -/
def deliverAux (g : Group) (tok : Nat) (m : BitVec 32) (v : Nat → LaneVal) : Group :=
  let g := { g with cuffs := g.cuffs.map fun (c : CuffSlot) =>
    if c.await == some tok then
      { c with vals := Lanes.mk fun l => if m.getLsbD l then (v l).setWidth 32 else Lanes.at c.vals l 0 } else c }
  let put (x : Latch) : Latch :=
    if x.await == some tok then
      { x with vals := Lanes.mk fun l => if m.getLsbD l then (v l).setWidth 64 else Lanes.at x.vals l 0 } else x
  { g with
    lx := put g.lx
    ly := put g.ly
    saved := g.saved.map fun (t : SavedTrap) =>
      if t.cuffAwait.contains (some tok) || t.brimAwait.contains (some tok) then
        { t with kept := t.kept ++ [(tok, m, Lanes.mk v)] } else t }

/-- Register `i` of an outstanding destination that starts at `n`: within a loop-queue run it wraps (R213). -/
def regIndex (g : Group) (n i : Nat) : Nat :=
  match runOf g n with
  | some (_, q) => q.base + (n - q.base + i) % q.len
  | none => n + i

/-- Write a result's lanes into the destination's registers, which stay as they are otherwise. -/
def deliverRegs (g : Group) (n k : Nat) (m : BitVec 32) (v : Nat → LaneVal) : Group :=
  (List.range k).foldl (fun g i =>
    let r := regAt g (regIndex g n i)
    let vals : Lanes Word := Lanes.mk fun l =>
      if m.getLsbD l then ((v l) >>> (32 * i)).setWidth 32 else Lanes.at r.vals l 0
    setReg g (regIndex g n i) { r with vals := vals }) g

/-- Deliver the lanes of a result to its file registers, Cuff slot and latch. -/
def deliver (g : Group) (a : Access) (m : BitVec 32) (v : Nat → LaneVal) : Group :=
  let d := accDst a
  let g := if d.nf then g else deliverRegs g d.index.toNat (accRegs a) m v
  deliverAux g a.tok m v

/-- All lanes are delivered: registers FULL, slot and latch no longer awaiting. -/
def finishDst (g : Group) (a : Access) : Group :=
  let d := accDst a
  let g := if d.nf || accRegs a == 0 then g
    else (List.range (accRegs a)).foldl (fun g i =>
      setReg g (regIndex g d.index.toNat i) { (regAt g (regIndex g d.index.toNat i)) with st := .full }) g
  let clr (x : Latch) : Latch := if x.await == some a.tok then { x with await := none } else x
  { g with
    cuffs := g.cuffs.map fun (c : CuffSlot) => if c.await == some a.tok then { c with await := none } else c
    lx := clr g.lx
    ly := clr g.ly }

/-! Taking a trap (R218 to R220). -/

def zeroBytes (n : Nat) : List Byte := List.replicate n 0

/-- The captured data a record shows (R220): for a group wait the lowest lane holds the remaining timeout. -/
def recordDatum (a : Access) (l : Nat) : Nat :=
  if isWaitOp a.opc && lowLane a.lanes == some l then a.wait.left.getD 0 else (Lanes.at a.data l 0).toNat

/-- A held-access record (R220). -/
def recordBytes (a : Access) : List Byte :=
  toBytes 8 (a.opc + 2 ^ 8 * a.sub + 2 ^ 12 * a.mod + 2 ^ 23) ++ toBytes 4 a.lanes.toNat ++ toBytes 4 a.dst.toNat
    ++ ((List.range 32).flatMap fun l => toBytes 8 (Lanes.at a.addr l 0).toNat)
    ++ ((List.range 32).flatMap fun l => toBytes 16 (recordDatum a l)) ++ zeroBytes 240

/-- The code of a wait mark (R220). -/
def markCode : Mark → Nat
  | .none => 0 | .parked => 1 | .joined => 2 | .held => 3
@[inherit_doc markCode] def markOf : Nat → Mark
  | 1 => .parked | 2 => .joined | 3 => .held | _ => .none

def causeBytes (c : CauseRegs) : List Byte :=
  toBytes 8 c.tcause.toNat ++ toBytes 8 c.tpoint.toNat ++ toBytes 8 c.tresume.toNat ++ toBytes 8 c.tlanes.toNat
    ++ toBytes 8 c.taddr.toNat ++ zeroBytes 8

/-- Sum of a value per index. -/
def sumOf (n : Nat) (f : Nat → Nat) : Nat := (List.range n).foldl (fun r k => r + f k) 0

/-- The frame of a group (R220), 32 KiB. -/
def frameBytes (g : Group) (c : CauseRegs) (held : List Access) : List Byte :=
  let flags := sumOf 8 (fun k => b2n (cuffAt g k).valid * 2 ^ k) + b2n g.lx.valid * 2 ^ 8 + b2n g.ly.valid * 2 ^ 9
    + b2n g.ser.opened * 2 ^ 10 + sumOf 8 (fun k => b2n (cuffAt g k).await.isSome * 2 ^ (11 + k))
    + b2n g.lx.await.isSome * 2 ^ 19 + b2n g.ly.await.isSome * 2 ^ 20
  let tag (k : Nat) : Nat := match (cuffAt g k).tag with | some t => t.toNat + 256 | none => 0
  causeBytes c ++ zeroBytes 16
    ++ ((List.range 32).flatMap fun l => toBytes 8 (threadAt g l).pc.toNat)
    ++ toBytes 8 (sumOf 32 fun l => markCode (threadAt g l).mark * 4 ^ l)
    ++ toBytes 8 flags ++ ((List.range 8).flatMap fun k => toBytes 2 (tag k))
    ++ toBytes 4 g.ser.set.toNat ++ toBytes 4 g.ser.done.toNat ++ toBytes 4 g.ser.cur ++ zeroBytes 4
    ++ toBytes 8 g.ser.entry.toNat ++ zeroBytes 0x288
    ++ ((List.range 8).flatMap fun k => (List.range 32).flatMap fun l => toBytes 4 (Lanes.at (cuffAt g k).vals l 0).toNat)
    ++ ((List.range 32).flatMap fun l => toBytes 8 (Lanes.at g.lx.vals l 0).toNat)
    ++ ((List.range 32).flatMap fun l => toBytes 8 (Lanes.at g.ly.vals l 0).toNat) ++ zeroBytes 0x600
    ++ held.flatMap recordBytes ++ zeroBytes (0x7000 - 0x400 * held.length)

/-- The address of a frame (R220). -/
def frameAddr (s : State) (p core gslot level : Nat) : Nat :=
  canon57 (bitsOf (partOf s p).tfbase.toNat 56 15 * 2 ^ 15 + (64 * core + gslot) * 65536 + (level - 1) * 32768)

/-- Write a frame's image in one page from a core, whose threads then read it (R299); bytes that already hold their value are left alone (log entry 9). -/
def frameWrite (s : State) (p core va : Nat) (b : List Byte) : Option State :=
  match xlate s p core va 2 with
  | .ok pa share _ =>
    let s := l1Drop s fun l => l.core == core && decide (pa / 128 ≤ l.pline) && decide (l.pline < pa / 128 + 256)
    let s := (b.zipIdx).foldl (fun s x => if rdHome s (pa + x.2) == x.1 then s else wrHome s (some share) (pa + x.2) x.1) s
    some (ownGuests s core share pa 256)
  | .err _ => none

/-- The vector entry of a code (R99): none where it cannot be read, breaks R53 or is not marked. So is one whose
target line cannot be fetched (DEDUCED, log entry 114). -/
def vectorEntry (s : State) (t : Team) (gr : Grid) (code : Nat) : Option DWord :=
  let v := (partOf s t.part).tvbase.toNat
  if abit v 0 = 0 then none
  else match xlate s t.part t.core (canon57 (bitsOf v 56 8 * 256 + 8 * code)) 1 with
    | .ok pa share _ =>
      let pc := ofBytes ((List.range 8).map fun k => rdFrom s t.core share (pa + k))
      if pcOk pc && landingMarked s gr t.core (BitVec.ofNat 64 pc) == some true then some (BitVec.ofNat 64 pc) else none
    | .err _ => none

/-- A group wait while its group is in the handler (R209): what is left of its timeout, and in `since` the clk that have passed;
a BARHANG by an untimed ARRWAIT starts the count again (R208). -/
def freezeWait (clk : Nat) (c : Cause) (a : Access) : Access :=
  if isWaitOp a.opc then
    let n := clk - a.wait.since
    { a with wait := ⟨a.wait.left.map fun k => k - n, if c.code = tcBarhang ∧ c.info = 17 then 0 else n⟩ }
  else a
/-- The wait goes on after the handler. -/
def thawWait (clk : Nat) (a : Access) : Access :=
  if isWaitOp a.opc then
    { a with
      wait := ⟨a.wait.left, if a.wait.left.isSome then clk else clk - a.wait.since⟩
      stage := if a.opc == 0xbb then 0 else a.stage }
  else a

/-- Take a trap (R218): the cause registers are loaded, the frame written with the held accesses, every present thread set to
the vector entry, and the group enters its handler with Cuff and Brim invalid. `stay` are the accesses that go on in the
queue. A trap at level 2, and every failure of R99 and R220, stops the partition. -/
def takeTrap (s : State) (r : GroupRef) (c : Cause) (slot2 : Bool) (tpoint tresume : DWord) (held stay : List Access) : State :=
  match teamAt s r.team, groupAt s r, gridAt s r.team.grid with
  | some t, some g, some gr =>
    let level := g.saved.length + 1
    let held := held.map (freezeWait s.clk c)
    match vectorEntry s t gr c.code with
    | none => mcheck s t.part
    | some entry =>
      if 2 < level then mcheck s t.part
      else
        let va := frameAddr s t.part t.core g.gslot level
        let regs : CauseRegs :=
          { tcause := BitVec.ofNat 64 (c.code + 2 ^ 5 * b2n slot2 + 2 ^ 6 * level + 2 ^ 8 * c.kind + 2 ^ 32 * c.info)
            tpoint := tpoint, tresume := tresume, tlanes := c.lanes, taddr := c.addr, tframe := BitVec.ofNat 64 va }
        match frameWrite s t.part t.core va (frameBytes g regs held) with
        | none => mcheck s t.part
        | some s =>
          updGroup s r fun g =>
            let sv : SavedTrap :=
              { outer := g.cause, wasWaiting := g.status == .waiting
                parks := Lanes.mk fun l => ((threadAt g l).park, (threadAt g l).rel)
                cuffAwait := g.cuffs.toList.map (·.await), brimAwait := [g.lx.await, g.ly.await], kept := [], held := held
                pcs := Lanes.mk fun l => (threadAt g l).pc, lands := laneMask fun l => (threadAt g l).land }
            let barts := if g.status == .handler then g.barts
              else g.barts.map fun (x : Bart) => { x with left := x.left - (s.clk - x.since), since := s.clk }
            let g := updThreads { g with barts := barts } (presentMask g) fun _ th =>
              { th with pc := entry, mark := .none, park := none, rel := false, land := false }
            { (dropOperands g) with
              status := .handler, cause := regs, saved := sv :: g.saved, queue := stay, gpc := entry, sel := true
              chosen := false, lines := [], ser := ⟨false, 0, 0, 0, 0⟩ }
  | _, _, _ => s

end Sys2Proof.Machine
end

