-- ==== Sys2Proof/Machine/Barriers.lean ====
section
/-! DEFINITION. Barriers of a team, a cluster instance, a logical die and a grid (R203, R273, R284, R379), GJOIN (R189), serial
regions (R185) and what the end of a thread does to all of them (R144). -/

namespace Sys2Proof.Machine

/-- A barrier by its holder and number. -/
inductive BarKey where
  | team (b : Nat)
  | inst (b : Nat)
  | die (b : Nat)
  | grid (b : Nat)
  deriving DecidableEq, Repr

def Bar.atStart : Bar := { phase := false, arrived := [], again := [], since := none, hung := [] }
/-- The park mark of a barrier. -/
def BarKey.park (k : BarKey) (again : Bool) : Park :=
  match k with
  | .team b => .team b again
  | .inst b => .cluster b again
  | .die b => .die b again
  | .grid b => .grid b again

def keyBarOf (l : List KeyBar) (key num : Nat) : Bar :=
  match l.find? fun x => x.key == key && x.num == num with
  | some x => x.bar
  | none => Bar.atStart
def keyBarPut (l : List KeyBar) (key num : Nat) (b : Bar) : List KeyBar :=
  ⟨key, num, b⟩ :: l.filter fun x => !(x.key == key && x.num == num)

/-- The instance of a team (R253): teams n·k to n·k + n − 1. -/
def instOf (g : Grid) (lin : Nat) : Nat := lin / lrInst g.lr

/-- The linear indices that take part in a team's barrier. -/
def barMembers (g : Grid) (lin : Nat) (k : BarKey) : List Nat :=
  match k with
  | .team _ => [lin]
  | .inst _ => (List.range (lrInst g.lr)).map fun p => lrInst g.lr * instOf g lin + p
  | .die _ => (List.range g.teams).filter fun l => logicalDie g l == logicalDie g lin
  | .grid _ => List.range g.teams

def barGet (s : State) (t : TeamRef) (k : BarKey) : Bar :=
  match k with
  | .team b => match teamAt s t with | some x => x.regs.bars.getD b Bar.atStart | none => Bar.atStart
  | .inst b => match gridAt s t.grid with | some g => keyBarOf g.instBars (instOf g t.lin) b | none => Bar.atStart
  | .die b => match gridAt s t.grid with | some g => keyBarOf g.dieBars (logicalDie g t.lin) b | none => Bar.atStart
  | .grid b => match gridAt s t.grid with | some g => keyBarOf g.gridBars 0 b | none => Bar.atStart
def barPut (s : State) (t : TeamRef) (k : BarKey) (v : Bar) : State :=
  match k with
  | .team b => updRegs s t fun r => { r with bars := r.bars.set b v }
  | .inst b => updGrid s t.grid fun g => { g with instBars := keyBarPut g.instBars (instOf g t.lin) b v }
  | .die b => updGrid s t.grid fun g => { g with dieBars := keyBarPut g.dieBars (logicalDie g t.lin) b v }
  | .grid b => updGrid s t.grid fun g => { g with gridBars := keyBarPut g.gridBars 0 b v }

/-- A thread's number in its grid: L · 1,024 + %tid. -/
def threadNo (lin tid : Nat) : Nat := lin * 1024 + tid

/-- The numbers of the present threads of a team. -/
def presentNos (t : Team) : List Nat :=
  t.groups.flatMap fun g => (lanesOf (presentMask g)).map fun l => threadNo t.ref.lin (tidOf g l)

/-- Every present thread of every member has arrived; a released team counts as arrived, a team not placed does not. -/
def barComplete (s : State) (t : TeamRef) (k : BarKey) : Bool :=
  match gridAt s t.grid with
  | none => false
  | some g =>
    let arrived := (barGet s t k).arrived
    !arrived.isEmpty && (barMembers g t.lin k).all fun l =>
      g.released.contains l || (match teamAt s ⟨t.grid, l⟩ with
        | some x => (presentNos x).all fun n => arrived.contains n
        | none => false)

/-- The status 0 of BART for the threads of a lane mask that wait at barrier `b` (R204). -/
def bartDone (g : Group) (b : Nat) (m : BitVec 32) (status : Nat) : Group :=
  let hit := g.barts.filter fun x => x.bar == b && m.getLsbD x.lane
  let rest := g.barts.filter fun x => !(x.bar == b && m.getLsbD x.lane)
  hit.foldl (fun g x =>
    let r := regAt g x.dst
    let vals : Lanes Word := Lanes.put r.vals x.lane (BitVec.ofNat 32 status)
    let st : RegState := if rest.any fun y => y.dst == x.dst then r.st else .full
    setReg g x.dst { st := st, vals := vals }) { g with barts := rest }

/-- Release the threads of a group parked at a barrier (R171): they become ready under R171; those that wait in the next phase too
stay parked. -/
def releaseGroup (g : Group) (k : BarKey) : Group :=
  let m := laneMask fun l => (threadAt g l).park == some (k.park false) && !(threadAt g l).rel
  let a := laneMask fun l => (threadAt g l).park == some (k.park true)
  let g := updThreads g m fun _ t => { t with rel := true }
  let g := updThreads g a fun _ t => { t with park := some (k.park false) }
  let held := laneMask fun l => g.saved.any fun sv => (Lanes.at sv.parks l (none, false)).1 == some (k.park false)
  let saved := g.saved.map fun (sv : SavedTrap) =>
    { sv with parks := sv.parks.map fun (x : Option Park × Bool) =>
        if x.1 == some (k.park false) then (x.1, true)
        else if x.1 == some (k.park true) then (some (k.park false), false) else x }
  let g := { g with saved := saved }
  let g := match k with | .team b => bartDone g b (m ||| held) 0 | _ => g
  refreshGroup g

/-- Pending transfers on a team barrier take effect (R194). -/
def applyTransfers (r : TeamRegs) (b : Nat) : TeamRegs :=
  { r with
    owner := (r.owner.zip r.xfer).map fun x => match x.2 with
      | some (g, c) => if c == b then g else x.1
      | none => x.1
    xfer := r.xfer.map fun x => match x with
      | some (g, c) => if c == b then none else some (g, c)
      | none => none }

/-- TCAUSE.INFO of BARHANG for a barrier (R219). -/
def BarKey.info : BarKey → Nat
  | .team b => b
  | .inst b => 32 + b
  | .die b => 48 + b
  | .grid b => 64 + b
/-- Withdraw a pending BARHANG (R100). -/
def dropHang (g : Group) (info : Nat) : Group :=
  { g with pending := g.pending.filter fun c => !(c.code == tcBarhang && c.info == info) }

/-- The scope at which a barrier orders (R274, R285, R379). -/
def BarKey.scope : BarKey → Nat
  | .team _ => shTeam
  | .inst _ => shCluster
  | .die _ => shDie
  | .grid _ => shPackage

/-- Complete a phase (R203): the phase advances, parked threads are released, repeated arrivals open the next phase;
released threads acquire at the barrier's scope (R274, R285, R379). -/
def fireBar (s : State) (t : TeamRef) (k : BarKey) : State :=
  match gridAt s t.grid with
  | none => s
  | some g =>
    let members := barMembers g t.lin k
    let b := barGet s t k
    let s := barPut s t k
      { phase := !b.phase, arrived := b.again, again := [], since := if b.again.isEmpty then none else some s.clk, hung := [] }
    let s := match k with
      | .team b => updRegs s t fun r => applyTransfers r b
      | _ => s
    let s := members.foldl (fun s l => updTeam s ⟨t.grid, l⟩ fun x =>
      { x with groups := x.groups.map fun gr =>
          let gr := dropHang (releaseGroup gr k) k.info
          match k with | .team _ => { gr with issues := 0 } | _ => gr }) s
    match k with
    | .team _ => s
    | _ => s.teams.foldl (fun s x =>
        if x.ref.grid == t.grid && members.contains x.ref.lin then acquireAt s x.core k.scope else s) s

/-- Complete every barrier of a list that can complete. -/
def fireBars (s : State) (t : TeamRef) (ks : List BarKey) : State :=
  ks.foldl (fun s k =>
    let s := if barComplete s t k then fireBar s t k else s
    if barComplete s t k then fireBar s t k else s) s

/-- The barriers a team takes part in. -/
def barKeys : List BarKey :=
  (List.range 16).map BarKey.team ++ (List.range 4).map BarKey.inst ++ (List.range 4).map BarKey.die
    ++ (List.range 4).map BarKey.grid

/-- Threads of a mask arrive at a barrier; `wait` parks them. A thread that has arrived already parks until the phase completes and
then arrives first in the next one, where it goes on waiting only with `wait` (R203, R204). -/
def arrive (s : State) (r : GroupRef) (k : BarKey) (m : BitVec 32) (wait : Bool) : State :=
  match groupAt s r with
  | none => s
  | some g =>
    let b := barGet s r.team k
    let no (l : Nat) : Nat := threadNo r.team.lin (tidOf g l)
    let twice := laneMask fun l => m.getLsbD l && b.arrived.contains (no l)
    let fresh := (lanesOf m).filter fun l => !(twice.getLsbD l)
    let b' : Bar := { b with
      arrived := b.arrived ++ fresh.map no
      again := b.again ++ ((lanesOf twice).map no).filter fun n => !(b.again.contains n)
      since := if b.arrived.isEmpty && !fresh.isEmpty then some s.clk else b.since }
    let s := barPut s r.team k b'
    updGroup s r fun g =>
      updThreads g m fun l t =>
        if wait || twice.getLsbD l then
          { t with mark := .parked, park := some (k.park (wait && twice.getLsbD l)), rel := false }
        else t

/-! GJOIN and serial regions. -/

/-- R189: when every present thread is joined at one GJOIN, they go on at its successor. -/
def joinCheck (g : Group) : Group :=
  let p := presentMask g
  match lowLane p with
  | none => g
  | some l0 =>
    let pc := (threadAt g l0).pc
    if (lanesOf p).all fun l => (threadAt g l).mark == .joined && (threadAt g l).pc == pc then
      { (updThreads g p fun _ t => { t with mark := .none, pc := pcNext pc }) with
        sel := true, joins := g.joins.filter fun j => j.pc != pc }
    else g

/-- Hand the turn of a serial region on (R185): the next lane of the set is released at the entry, or the region closes. -/
def serialNext (g : Group) : Group :=
  let r := g.ser
  let left := (lanesOf r.set).filter fun l => (threadAt g l).present && !(r.done.getLsbD l)
  match left with
  | l :: _ =>
    { (updThreads g (laneMask fun i => i == l) fun _ t => { t with mark := .none, pc := r.entry }) with
      ser := { r with cur := l }, sel := true }
  | [] =>
    let m := laneMask fun l => (threadAt g l).mark == .held
    { (updThreads g m fun _ t => { t with mark := .none }) with ser := ⟨false, 0, 0, 0, 0⟩, sel := true }

/-- When the lane whose turn it is has exited, the next one is released (R185). -/
def serialCheck (g : Group) : Group :=
  if g.ser.opened && !(threadAt g g.ser.cur).present then serialNext g else g

/-- Remove queue-wait entries of a group that its handler completed, that ended otherwise, or whose group ended (R165, R212). -/
def hqForget (s : State) (r : GroupRef) (gone : Nat → Bool) : State :=
  { s with clusters := s.clusters.map fun c =>
      { c with hqs := c.hqs.map fun q =>
          { q with waiters := q.waiters.filter fun w => !(w.1 == r.team && w.2.1 == r.grp && gone w.2.2) } } }

/-! Returning from a trap (R221). -/

/-- Read the frame of the current level for a team, with what its share holds (R221, R321). -/
def frameRead (s : State) (t : Team) (va : Nat) : Option (List Byte) :=
  match xlate s t.part t.core va 1 with
  | .ok pa _ _ =>
    some ((List.range 32768).map fun k => shareByte t (va + k)
      (match s.l1.find? fun l => l.core == t.core && l.pline == (pa + k) / 128 with
      | some l => l.data.getD ((pa + k) % 128) 0
      | none => rdHome s (pa + k)))
  | .err _ => none

/-- How a frame's image is read: `n` bytes at an offset, as a number. -/
abbrev ImageReader := Nat → Nat → Nat

def frameNat (b : List Byte) : ImageReader := fun off n => ofBytes ((b.drop off).take n)

/-- The access that record `i` of a frame asks to replay, with the identity the device kept; none when its VALID bit is clear
or no lane remains (R220, R221). -/
def recordAccess (rd : ImageReader) (i : Nat) (a : Access) : Option Access :=
  let o := 0x1000 + 0x400 * i
  let w := rd o 8
  let lanes := BitVec.ofNat 32 (rd (o + 8) 4)
  if abit w 23 = 1 ∧ lanes ≠ 0 then
    if isWaitOp a.opc then
      let left := rd (o + 0x110 + 16 * (lowLane a.lanes).getD 0) 8
      some { a with lanes := lanes, fault := none, wait := { a.wait with left := a.wait.left.map fun _ => left } }
    else some { a with
      lanes := lanes
      addr := Lanes.mk fun l => BitVec.ofNat 64 (rd (o + 0x10 + 8 * l) 8)
      data := Lanes.mk fun l => BitVec.ofNat 128 (rd (o + 0x110 + 16 * l) 16)
      fault := none }
  else none

/-- The captured data of a record as the handler left it. -/
def recordData (rd : ImageReader) (i l : Nat) : LaneVal := BitVec.ofNat 128 (rd (0x1000 + 0x400 * i + 0x110 + 16 * l) 16)

/-- The Cuff of a frame (R220); `await` gives the producer of a slot that awaits one. -/
def cuffsBack (rd : ImageReader) (await : Nat → Option Nat) : Vector CuffSlot 8 :=
  let fl := rd 0x148 8
  Vector.ofFn fun i =>
    let k := i.val
    let tg := rd (0x150 + 2 * k) 2
    ⟨abit fl k == 1, if abit tg 8 = 1 then some (BitVec.ofNat 8 tg) else none,
      Lanes.mk fun l => BitVec.ofNat 32 (rd (0x400 + 128 * k + 4 * l) 4), if abit fl (11 + k) = 1 then await k else none⟩
/-- A Brim latch of a frame: lx 0, ly 1. -/
def latchBack (rd : ImageReader) (k : Nat) (await : Option Nat) : Latch :=
  let fl := rd 0x148 8
  ⟨abit fl (8 + k) == 1, Lanes.mk fun l => BitVec.ofNat 64 (rd (0x800 + 256 * k + 8 * l) 8), if abit fl (19 + k) = 1 then await else none⟩
/-- The serial region of a frame. -/
def serialBack (rd : ImageReader) : Serial :=
  ⟨abit (rd 0x148 8) 10 == 1, BitVec.ofNat 32 (rd 0x160 4), BitVec.ofNat 32 (rd 0x164 4), rd 0x168 4 % 32, BitVec.ofNat 64 (rd 0x170 8)⟩

/-- R52: a resume point that needs no mark: the trap point, or the trap point advanced by one issue. -/
def resumeFree (s : State) (t : Team) (gr : Grid) (c : CauseRegs) (new : DWord) : Bool :=
  let pair : Bool := match fetchLine s gr t.core c.tpoint with
    | .inl l => l.word.pair.getLsbD (c.tpoint.toNat % 8)
    | .inr _ => false
  new == c.tpoint || new == (if pair then pcNext (pcNext c.tpoint) else pcNext c.tpoint)
/-- R52, R53: any other resume point that the handler changed must be well formed and marked; where its line cannot be entered yet, its
fetch decides. -/
def resumeOk (s : State) (t : Team) (gr : Grid) (c : CauseRegs) (old new : DWord) : Bool :=
  new == old || resumeFree s t gr c new || (pcOk new.toNat && landingMarked s gr t.core new != some false)

/-- What TRAPRET finds: the frame cannot be read, a resume point is bad, or the group as restored (R221). -/
inductive Resumed where
  | unreadable
  | badTarget (m : BitVec 32) (pc : DWord)
  | group (g : Group) (uni : List (Nat × DWord))

/-- A result that a handler supplied for lanes of a record; a reload puts it under the return stack (R140). -/
def supply (s : State) (t : Team) (g : Group) (a : Access) (m : BitVec 32) (v : Nat → LaneVal) : Group :=
  if a.opc == 0x65 then reloadStack s t.part t.ref.lin g a m fun l => (v l).setWidth 64
  else deliver g a m v

/-- Write the results that handlers supplied and re-enter what is left of the held accesses (R165, R221). -/
def replayHeld (s : State) (t : Team) (b : ImageReader) (g : Group) (held : List Access) : Group :=
  (held.zipIdx).foldl (fun g x =>
    let a := x.1
    if a.stage = 6 then g
    else match recordAccess b x.2 a with
    | some r =>
      let done := a.lanes &&& ~~~r.lanes
      let g := if done = 0 then g else supply s t g a done fun l => recordData b x.2 l
      { g with queue := g.queue ++ [thawWait s.clk r] }
    | none =>
      let g := supply s t g a a.lanes fun l => recordData b x.2 l
      let g := if a.opc == 0xbb then dropHang g 17 else g
      if a.owed = 0 then finishDst g a else { g with queue := g.queue ++ [{ a with lanes := 0, fault := none }] }) g

/-- The uniform registers that handlers supplied: LDU and ACCALLOC records that they completed (R221). -/
def suppliedUni (b : ImageReader) (held : List Access) : List (Nat × DWord) :=
  (held.zipIdx).filterMap fun x =>
    if (x.1.opc == 0x84 || x.1.opc == 0xc2) && (recordAccess b x.2 x.1).isNone then
      some (x.1.dst.toNat % 64, (recordData b x.2 ((lowLane x.1.lanes).getD 0)).setWidth 64)
    else none

/-- A slot or a latch awaits its producer as long as that is in the queue, held, or `sent` to another package; a result that came
whole while the handler ran is there (R176, R221). -/
def settleAwait (sent : List Nat) (g : Group) : Group :=
  let live (x : Option Nat) : Option Nat := match x with
    | some k => if sent.contains k || (g.queue ++ g.saved.flatMap fun v => v.held).any fun a => a.tok == k then some k else none
    | none => none
  { g with
    cuffs := g.cuffs.map fun (c : CuffSlot) => { c with await := live c.await }
    lx := { g.lx with await := live g.lx.await }
    ly := { g.ly with await := live g.ly.await } }

/-- GJOINs at which no thread is joined any more, as one that only the handler's threads reached, are forgotten. -/
def dropJoins (g : Group) : Group :=
  let live (j : Join) : Bool := (lanesOf (presentMask g)).any fun l => (threadAt g l).mark == .joined && (threadAt g l).pc == j.pc
  { g with joins := g.joins.filter live }

/-- The tokens of a group's fabric messages whose CMPL has not come (R403). -/
def sentToks (s : State) (t : Team) (g : Group) : List Nat :=
  (s.fabric.ops.filter fun o => o.grp.team == t.ref && (t.groups[o.grp.grp]?).any fun x => x.gslot == g.gslot).map (·.acc.tok)

/-- TRAPRET (R221). -/
def trapReturn (s : State) (t : Team) (gr : Grid) (g : Group) : Resumed :=
  match g.saved with
  | [] => .group g []
  | sv :: rest =>
    match frameRead s t g.cause.tframe.toNat with
    | none => .unreadable
    | some img =>
      let b := frameNat img
      let pc (l : Nat) : DWord := BitVec.ofNat 64 (b (0x40 + 8 * l) 8)
      let bad := laneMask fun l => (presentMask g).getLsbD l && !(resumeOk s t gr g.cause (Lanes.at sv.pcs l 0) (pc l))
      if bad ≠ 0 then .badTarget bad (pc ((lowLane bad).getD 0))
      else
        let marks := b 0x140 8
        let g := updThreads g (presentMask g) fun l th =>
          let m := markOf (marks / 4 ^ l % 4)
          let p := Lanes.at sv.parks l (none, false)
          { th with pc := pc l, mark := m, park := if m == .parked then p.1 else none, rel := m == .parked && p.2
                    land := if pc l == Lanes.at sv.pcs l 0 then sv.lands.getLsbD l else !(resumeFree s t gr g.cause (pc l)) }
        let g := { g with
          cuffs := cuffsBack b fun k => sv.cuffAwait.getD k none
          lx := latchBack b 0 (sv.brimAwait.getD 0 none), ly := latchBack b 1 (sv.brimAwait.getD 1 none)
          ser := serialBack b
          cause := sv.outer, saved := rest, sel := true, chosen := false, lines := []
          status := if rest.isEmpty then .ready else .handler
          barts := if rest.isEmpty then g.barts.map fun (x : Bart) => { x with since := s.clk } else g.barts }
        let g := sv.kept.foldl (fun g k => deliverAux g k.1 k.2.1 fun l => Lanes.at k.2.2 l 0) g
        let g := settleAwait (sentToks s t g) (replayHeld s t b g sv.held)
        let g := if rest.isEmpty then dropJoins g else g
        .group (refreshGroup (joinCheck (serialCheck g))) (suppliedUni b sv.held)

end Sys2Proof.Machine
end

