-- ==== Sys2Proof/Machine/Flags.lean ====
section
/-! DEFINITION. Status flags: FPSTAT of a group (R40), MSTAT of a team (R225), DFLAGS of a grid (R333), and the integer
saturation flag (R26, R109). -/

namespace Sys2Proof.Machine

/-- OR flags into FPSTAT. -/
def orFlags (g : Group) (f : Flags) : Group := { g with fpstat := g.fpstat ||| f }
/-- OR flags into MSTAT. -/
def orMstat (s : State) (t : TeamRef) (f : Flags) : State := updRegs s t fun r => { r with mstat := r.mstat ||| f }
/-- OR the flags of an integer-scaled addition into DFLAGS: NV, IS and NX in bits 0 to 2 (R333). -/
def orDflags (s : State) (grid : Nat) (f : Flags) : State :=
  updGrid s grid fun g => { g with dflags := g.dflags ||| (b2n (f.getLsbD 0) + 2 * b2n (f.getLsbD 5) + 4 * b2n (f.getLsbD 4)) }

/-- The OR of the flags of the lanes of a mask. -/
def laneFlags (m : BitVec 32) (f : Nat → Flags) : Flags :=
  (lanesOf m).foldl (fun r l => r ||| f l) 0

end Sys2Proof.Machine
end

