-- ==== Sys2Proof/Machine/Operands.lean ====
section
/-! DEFINITION. Source and destination operands: values (R60 to R69), source states (R62), dead bits, and results to the file,
the Cuff, the Brim, predicates and uniform registers (R63, R65, R67, R107). -/

namespace Sys2Proof.Machine

/-- The constant table (R69). -/
def constTable : List Nat :=
  ((List.range 16).map fun n => n + 1) ++
  [32, 64, 128, 256, 0xff, 0xffff, 0x7fffffff, 0x80000000, 0xffffffff,
   0x3f000000, 0x3f800000, 0x40000000, 0xbf800000, 0x3e800000, 0x40800000,
   0x7f800000, 0xff800000, 0x7fc00000, 0x7f7fffff, 0x00800000,
   0x3f317218, 0x3fb8aa3b, 0x40490fdb, 0x3e22f983,
   0x3c003c00, 0x3f803f80, 0x38003800, 0x3f003f00,
   0xfc00fc00, 0xff80ff80, 0x7bff7bff, 0x7e7e7e7e,
   0x3ff0000000000000, 0x3fe0000000000000, 0x4000000000000000, 0xbff0000000000000,
   0x3fe62e42fefa39ef, 0x3ff71547652b82fe, 0x400921fb54442d18, 0x7ff0000000000000,
   0x7ff8000000000000, 0x7fefffffffffffff, 0x0010000000000000, 0xfff0000000000000,
   0x3fd0000000000000, 0x4010000000000000, 0x3ff6a09e667f3bcd, 0x3fe6a09e667f3bcd]

/-- Where an instruction issues: the state, the group with its team and grid, the slot, and the active lanes (R103). -/
structure Ctx where
  s : State
  r : GroupRef
  t : Team
  gr : Grid
  g : Group
  pc : DWord
  slot2 : Bool
  i : Instr
  h : Shape
  act : BitVec 32
  a : Lanes LaneVal
  b : Lanes LaneVal
  c : Lanes LaneVal

/-- A uniform register (R194). -/
def sregOf (t : Team) (n : Nat) : DWord := t.regs.sregs.getD n 0

/-- The value `k` places behind the head of a loop queue (R213). -/
def queueHead (g : Group) (q k : Nat) : Lanes Word :=
  match g.loopqs.toList.getD q none with
  | some x => (regAt g (x.base + (x.head + k) % x.len)).vals
  | none => zeroWords

/-- Registers of a source of a given width, least significant first. -/
def fileVal (g : Group) (n k : Nat) (l : Nat) : LaneVal :=
  (List.range k).foldl (fun r i => r ||| ((Lanes.at (regAt g (n + i)).vals l 0).setWidth 128 <<< (32 * i))) 0

/-- A source's value in one lane; `w` registers wide; `pops` pops of the same loop queue come before it. -/
def srcVal (t : Team) (g : Group) (src : Src) (w pops l : Nat) : LaneVal :=
  match src with
  | .file n _ _ => fileVal g n.toNat w l
  | .cuff k _ _ => (Lanes.at (cuffAt g k.toNat).vals l 0).setWidth 128
  | .brim y _ =>
    let v : DWord := Lanes.at (latchOf g y).vals l 0
    if w = 1 then ((v.setWidth 32 : Word)).setWidth 128 else v.setWidth 128
  | .uni n =>
    let v := sregOf t n.toNat
    if w = 1 then ((v.setWidth 32 : Word)).setWidth 128
    else if w = 4 then (v.setWidth 128) ||| ((sregOf t (n.toNat + 1)).setWidth 128 <<< 64)
    else v.setWidth 128
  | .const k => BitVec.ofNat 128 (constTable.getD k.toNat 0)
  | .loopq k _ => (Lanes.at (queueHead g k.toNat pops) l 0).setWidth 128
  | .zero => 0

/-- Registers a kind reads: the width in words. -/
def kindWords (k : SrcKind) : Nat := k.width / 32

/-- How many sources before index `n` read the same loop queue. -/
def popsBefore (l : List (Src × Nat)) (n : Nat) : Nat :=
  match l[n]? with
  | some (.loopq k _, _) => ((l.take n).filter fun x => match x.1 with | .loopq j _ => j == k | _ => false).length
  | _ => 0

/-- The outcome of the source checks (R62). -/
inductive Check where
  | go
  | wait
  | trap (code kind addr : Nat) (info : Nat := 0)
  deriving DecidableEq, Repr

/-- Checks in order: the first that does not pass decides. -/
def firstCheck : List Check → Check
  | [] => .go
  | .go :: r => firstCheck r
  | c :: _ => c

/-- Whether a uniform register awaits an outstanding LDU or ACCALLOC (R154, R195). -/
def uniBusy (t : Team) (n : Nat) : Bool :=
  t.groups.any fun g => (g.queue ++ g.saved.flatMap fun x => x.held).any fun a =>
    (a.opc == 0x84 || a.opc == 0xc2) && a.dst.toNat % 256 == n

/-- Whether the team's running stream feeds a loop queue of a group (R213, R214). -/
def streamFeeds (t : Team) (grp k : Nat) : Bool :=
  t.stream.st == .running && decide (bitsOf t.stream.ctl 4 3 < 2) && bitsOf t.stream.ctl 8 6 == k
    && bitsOf t.stream.ctl 13 9 == grp

/-- First pass of R62: DEADREAD and STALE; a file read inside a loop-queue run is QUEUEERR (R213). -/
def srcDead (g : Group) (x : Src × Nat) : Check :=
  match x.1 with
  | .file n _ _ =>
    firstCheck ((List.range x.2).map fun i =>
      if (runOf g (n.toNat + i)).isSome then .trap tcQueueerr 0 0
      else if (regAt g (n.toNat + i)).st == .dead then .trap tcDeadread 0 0 else .go)
  | .cuff k _ _ => if (cuffAt g k.toNat).valid then .go else .trap tcStale 0 0
  | .brim y _ => if (latchOf g y).valid then .go else .trap tcStale 0 0
  | .loopq k _ => if (g.loopqs.toList.getD k.toNat none).isSome then .go else .trap tcQueueerr 0 0
  | _ => .go

/-- Second pass of R62: EMPTY sources wait or trap EMPTYREAD; an empty loop queue per R213, with the fault of a stopped stream
(R216). -/
def srcEmpty (t : Team) (grp : Nat) (g : Group) (x : Src × Nat) (pops : Nat) : Check :=
  let w (fe : Bool) : Check := if fe then .wait else .trap tcEmptyread 0 0
  match x.1 with
  | .file n fe _ => if (List.range x.2).any fun i => (regAt g (n.toNat + i)).st == .empty then w fe else .go
  | .cuff k fe _ => if (cuffAt g k.toNat).await.isSome then w fe else .go
  | .brim y fe => if (latchOf g y).await.isSome then w fe else .go
  | .uni n => if uniBusy t n.toNat || (x.2 == 4 && uniBusy t (n.toNat + 1)) then .wait else .go
  | .loopq k fe =>
    match g.loopqs.toList.getD k.toNat none with
    | some q =>
      if pops < q.occ then
        (if (regAt g (q.base + (q.head + pops) % q.len)).st == .empty then w fe else .go)
      else match t.stream.fault with
        | some (code, info, addr) =>
          if t.stream.st == .stopped && bitsOf t.stream.ctl 8 6 == k.toNat && bitsOf t.stream.ctl 13 9 == grp then .trap code 7 addr info
          else if !fe then .trap tcEmptyread 0 0 else if streamFeeds t grp k.toNat then .wait else .trap tcQueueerr 0 0
        | none =>
          if !fe then .trap tcEmptyread 0 0 else if streamFeeds t grp k.toNat then .wait else .trap tcQueueerr 0 0
    | none => .trap tcQueueerr 0 0
  | _ => .go

/-- Check 9 of R79 over the sources an instruction reads: every source for DEAD and STALE, then every source for EMPTY and its queue, each time
in operand order (log entry 20). -/
def srcChecks (t : Team) (grp : Nat) (g : Group) (l : List (Src × Nat)) : Check :=
  firstCheck (l.map (srcDead g) ++ (l.zipIdx).map fun x => srcEmpty t grp g x.1 (popsBefore l x.2))

/-- A destination that is EMPTY waits (R63, R73), be it a register or a Cuff slot that awaits a long-latency write (R62); a push
into a full loop queue waits or traps QUEUEERR (R213). -/
def dstCheck (t : Team) (grp : Nat) (g : Group) (k : DstKind) (d : Dst) : Check :=
  firstCheck (((List.range (k.regs d)).map fun i =>
    let n := d.index.toNat + i
    match runOf g n with
      | some (q, x) => if x.occ + i < x.len then .go else if streamFeeds t grp q then .wait else .trap tcQueueerr 0 0
      | none => if (regAt g n).st == .empty then .wait else .go)
    ++ [if k == .v32 && d.cw && (cuffAt g d.cslot.toNat).await.isSome then .wait else .go])

/-- Dead bits and loop-queue pops of the sources (R62, R213). -/
def consume (g : Group) (l : List (Src × Nat)) : Group :=
  l.foldl (fun g x => match x.1 with
    | .file n _ d => if d then (List.range x.2).foldl (fun g i => killReg g (n.toNat + i)) g else g
    | .cuff k _ d =>
      if d then { g with cuffs := g.cuffs.setIfInBounds k.toNat { (cuffAt g k.toNat) with valid := false, tag := none } } else g
    | .loopq k _ => popQueue g k.toNat
    | _ => g) g

/-- Write a vector result (R63, R65, R67, R173) of `w` registers in the lanes of a mask. -/
def writeVec (g : Group) (d : Dst) (w : Nat) (y : Bool) (brim : Bool) (m : BitVec 32) (v : Nat → LaneVal) : Group :=
  let n := d.index.toNat
  let g := if d.nf then g
    else (List.range w).foldl (fun g i =>
      let g := untag g (n + i) (d.cw && i == 0)
      writeReg g (n + i) m fun l => ((v l) >>> (32 * i)).setWidth 32) g
  let g := if d.cw then
      writeCuff g d.cslot.toNat (if d.nf then none else some d.index) m (fun l => (v l).setWidth 32) none
    else g
  if brim then writeLatch g y m (fun l => if w = 1 then (((v l).setWidth 32 : Word)).setWidth 64 else (v l).setWidth 64) none else g

/-- Mark one register of a long-latency destination EMPTY; in a loop-queue run it takes the tail (R213). -/
def awaitReg (g : Group) (n i : Nat) : Group :=
  match runOf g n with
  | some (k, q) =>
    let t := q.base + (q.head + q.occ) % q.len
    let g := emptyReg (setReg g t { (regAt g t) with st := .dead }) t
    { g with loopqs := g.loopqs.setIfInBounds k (some { q with occ := q.occ + 1, byProg := true }) }
  | none => emptyReg g (n + i)

/-- Mark a long-latency destination: registers EMPTY, slot and latch awaiting `tok` (R62, R153). -/
def awaitVec (g : Group) (d : Dst) (w : Nat) (brim : Bool) (m : BitVec 32) (tok : Nat) : Group :=
  let n := d.index.toNat
  let g := if d.nf then g
    else (List.range w).foldl (fun g i =>
      awaitReg (untag g (n + i) (d.cw && i == 0)) n i) g
  let g := if d.cw then
      writeCuff g d.cslot.toNat (if d.nf then none else some d.index) m
        (fun l => Lanes.at (cuffAt g d.cslot.toNat).vals l 0) (some tok)
    else g
  if brim then writeLatch g true m (fun _ => 0) (some tok) else g

/-- Write predicates of the lanes of a mask (R107). -/
def writePred (g : Group) (n : Nat) (m : BitVec 32) (v : Nat → Bool) : Group :=
  updThreads g m fun l t =>
    { t with preds := if n < 7 then (if v l then t.preds ||| BitVec.ofNat 7 (2 ^ n) else t.preds &&& ~~~(BitVec.ofNat 7 (2 ^ n)))
                      else t.preds }

/-- Write a uniform register (R194). -/
def writeUni (s : State) (t : TeamRef) (n : Nat) (v : DWord) : State :=
  updRegs s t fun r => { r with sregs := r.sregs.set n v }

end Sys2Proof.Machine
end

