-- ==== Sys2Proof/Machine/Issue.lean ====
section
/-! DEFINITION. Issuing one instruction: checks 6, 7, 9 and 10 of R79, operands, results, program counters (R56, R135, R168), and
the end of a step, where the writes land in memory and wake monitors (R308). -/

namespace Sys2Proof.Machine

/-- What `exec` and `step` answer. -/
abbrev Out := Host.Outcome State Fault Refusal

/-- What an instruction does once its checks pass. `pcs` gives the next program counter of each active lane; `lazy` marks a
long-latency producer, whose destination becomes EMPTY (R72); `jump` holds the lanes that transfer, whose landing slot is checked (R52);
`post` is the effect on everything else. -/
structure Done where
  vec : Option (Nat → LaneVal) := none
  noBrim : Bool := false
  prd : Option (Nat → Bool) := none
  uni : Option DWord := none
  flags : Flags := 0
  pcs : Option (Nat → DWord) := none
  jump : BitVec 32 := 0
  drop : Bool := false
  lazy : Bool := false
  post : State → State := fun s => s

/-- The outcome of an instruction's own part (check 10 of R79 and its effect): it cannot issue yet, it cannot issue yet and
that is counted, it traps, or it issues. -/
inductive Act where
  | stall
  | hold (f : State → State)
  | trap (c : Cause)
  | go (d : Done)

/-- A cause found at issue: no lanes, no address. -/
def causeOf (code : Nat) : Cause := ⟨code, 0, 0, 0, 0⟩
/-- A cause with INFO (R219). -/
def causeInfo (code info : Nat) : Cause := ⟨code, info, 0, 0, 0⟩

/-! The end of a step. -/

/-- A group wait or any other single-result entry ends with a status in every lane that remains (R209). -/
def endWait (g : Group) (tok status : Nat) : Group :=
  match g.queue.find? fun a => a.tok == tok with
  | some a =>
    let g := finishDst (deliver g a a.lanes fun _ => BitVec.ofNat 128 status) a
    let g := if a.opc == 0xbb then dropHang g 17 else g
    refreshGroup { g with queue := g.queue.filter fun x => x.tok != tok, sel := true, chosen := false }
  | none => g

/-- Mark a wait that a trapped group holds, so that it ends when it is replayed (R209): stage 3 completed, 4 spurious. -/
def markHeld (g : Group) (tok stage : Nat) : Group :=
  { g with saved := g.saved.map fun (t : SavedTrap) =>
      { t with held := t.held.map fun a => if a.tok == tok && a.stage == 1 then { a with stage := stage } else a } }

/-- The armed MWAIT of a group, in its queue or held. -/
def armedWait (g : Group) : Option Access :=
  match g.queue.find? fun a => a.opc == 0x8c && a.stage == 1 with
  | some a => some a
  | none => (g.saved.flatMap fun t => t.held).find? fun a => a.opc == 0x8c && a.stage == 1

/-- The armed MWAIT of a group ends (R308); COMPLETED is an acquire at its page's scope. -/
def endMwait (s : State) (r : GroupRef) (status : Nat) : State :=
  match teamAt s r.team, groupAt s r with
  | some t, some g =>
    let s := { s with monitors := s.monitors.filter fun m => !(m.armed && m.grp == r) }
    match armedWait g with
    | some a =>
      let s := updGroup s r fun g => endWait (markHeld g a.tok (if status = 0 then 3 else 4)) a.tok status
      if status = 0 then acquireAt s t.core shPackage else s
    | none => s
  | _, _ => s

/-- A thread of a core has read the waking write of a word (R308): its reload finds that write. -/
def wokenAt (s : State) (r : GroupRef) (share word : Nat) : State :=
  match teamAt s r.team with
  | some t => ownGuest s t.core share word
  | none => s

/-- clk that a wait has counted (R209): those in a handler do not count. -/
def waited (s : State) (a : Access) : Nat := s.clk - a.wait.since
/-- The timeout of a wait has passed. -/
def expired (s : State) (a : Access) : Bool :=
  match a.wait.left with
  | some n => decide (n ≤ waited s a)
  | none => false

/-- The status of an MWAIT that something interrupts (R308): TIMEOUT wins over SPURIOUS. -/
def spuriousStatus (timedOut : Bool) : Nat := if timedOut then 1 else 2

/-- The timeout of a group's armed MWAIT has passed: while the MWAIT is held, or its group is in a handler, no clk counts (R209). -/
def mwaitOver (s : State) (r : GroupRef) : Bool :=
  (groupAt s r).any fun g => (armedWait g).any fun a =>
    if g.status != .handler && g.queue.any fun x => x.tok == a.tok then expired s a else a.wait.left == some 0

/-- What a write or a displacement of this step does to a table entry (R307, R308): an armed MWAIT ends, COMPLETED where both came; a
watch remembers it, and its entry goes with a displacement. -/
def settleMonitor (s : State) (m : Monitor) : State :=
  if m.armed then
    endMwait (if m.hit then wokenAt s m.grp m.share m.word else s) m.grp (if m.hit then 0 else spuriousStatus (mwaitOver s m.grp))
  else
    let mine (x : Monitor) : Bool := x.grp == m.grp && !x.armed
    let l := s.monitors.map fun x => if mine x then { x with hit := false } else x
    updGroup { s with monitors := l.filter fun x => !(mine x && x.gone) } m.grp fun g =>
      { g with watch := g.watch.map fun w => { w with hit := w.hit || m.hit, interrupted := w.interrupted || m.gone } }

/-- Settle the table's entries in waves: the acquire of a woken MWAIT writes lines back, which may wake another. -/
def settleMonitors : Nat → State → State
  | 0, s => s
  | n + 1, s =>
    match s.monitors.filter fun m => m.hit || m.gone with
    | [] => s
    | l => settleMonitors n (l.foldl settleMonitor s)

/-- Tell the monitors of the words written in this step (R307, R308). -/
def wakeMonitors (s : State) : State := settleMonitors (s.monitors.length + 1) s

/-- A team's current group under the deterministic policy after a step (R199): one that is WAITING or DONE gives way to the lowest
that is READY or HANDLER; with none there is no current group until one becomes ready. -/
def settleCurrent (t : Team) : Team :=
  let active (k : Nat) : Bool := (t.groups[k]?).any fun g => g.status == .ready || g.status == .handler
  { t with curG := if t.curG.any active then t.curG else (List.range t.groups.length).find? active }

/-- The end of a step from `s0`: monitors wake, every team's current group is settled, and the writes of the step land in memory. -/
def commit (s0 s : State) : State :=
  let t := wakeMonitors s
  let t := { t with teams := t.teams.map settleCurrent }
  { t with mem := Memory.writes s0.mem t.wbuf, wbuf := [], cur := none, clk := s0.clk }

/-- The outcome of a step. -/
def next (s0 s : State) : Host.Outcome State Fault Refusal := .next (commit s0 s)

/-! Checks. -/

def Act.isGo : Act → Bool
  | .go _ => true
  | _ => false

/-- The registers a map's format takes per column of sparsity metadata (R232), by its TYPE code. -/
def sparseWords (fmt : Nat) : Nat :=
  if fmt = 11 ∨ fmt = 12 then 1 else if fmt = 16 ∨ fmt = 19 then 4 else 2

/-- A tile map of a team. -/
def mapOf (t : Team) (k : Nat) : Nat := (t.regs.maps.getD k 0).toNat

/-- The lowest active lane of each quarter that has one (R230). -/
def quarterLanes (act : BitVec 32) : List Nat :=
  (List.range 4).filterMap fun q => ((List.range 8).map fun i => 8 * q + i).find? fun l => act.getLsbD l

/-- A source can hold `w` words of metadata: a register, an aligned pair or quad of the file (R108, R232). -/
def metaFits (g : Group) (sb : Src) (w : Nat) : Bool :=
  w == 1 || (match sb with
    | .file n _ _ => n.toNat % w == 0 && decide (n.toNat + w ≤ g.regs.length)
    | _ => false)

/-- The words of MQMAS's metadata that SB is read for: the most that the B map of an active quarter takes; one where SB cannot hold
them, which check 10 finds (R232). -/
def metaWords (t : Team) (g : Group) (act : BitVec 32) (sa sb : Src) : Nat :=
  let w := ((quarterLanes act).map fun l => sparseWords (bitsOf (mapOf t (bitsOf (srcVal t g sa 1 0 l).toNat 7 4)) 5 1)).foldl max 1
  if metaFits g sb w then w else 1

/-- The sources an instruction reads, with their widths in words. -/
def srcList (t : Team) (g : Group) (act : BitVec 32) (h : Shape) : List (Src × Nat) :=
  (h.srcs.filter fun x => x.2 != .unused).map fun x =>
    (x.1, if x.2 == .sparse then metaWords t g act h.sa x.1 else kindWords x.2)

/-- Where an instruction issues; none without a cursor. -/
def ctxOf (i : Instr) (s : State) : Option Ctx :=
  match s.cur with
  | none => none
  | some k =>
    match teamAt s k.grp.team, groupAt s k.grp, gridAt s k.grp.team.grid with
    | some t, some g, some gr =>
      let h := i.shape
      let act := if h.pred.never then 0 else activeMask g k.pc h.pred
      let l := srcList t g act h
      let val (n : Nat) : Lanes LaneVal :=
        match (h.srcs)[n]? with
        | some (src, kd) =>
          if kd == .unused then Lanes.all 0
          else
            let idx := ((h.srcs.take n).filter fun x => x.2 != .unused).length
            let w := if kd == .sparse then metaWords t g act h.sa src else kindWords kd
            Lanes.mk fun ln => srcVal t g src w (popsBefore l idx) ln
        | none => Lanes.all 0
      some ⟨s, k.grp, t, gr, g, k.pc, k.slot2, i, h, act, val 0, val 1, val 2⟩
    | _, _, _ => none

/-- R68: register numbers below the team's allocation; s0 is always there; the limits of UOWN (R196) and LQCFG (R213). -/
def boundsOk (c : Ctx) : Bool :=
  let uni (n w : Nat) : Bool := n + w ≤ lrUni c.gr.lr || (n == 0 && w == 1)
  (c.h.srcs.all fun x => match x.1, x.2 with
      | _, .unused => true
      | .file n _ _, k => n.toNat + max 1 (kindWords k) ≤ lrRegs c.gr.lr
      | .uni n, .uniEven => uni n.toNat 2
      | .uni n, _ => uni n.toNat (if c.i.opc == 0xd0 then 4 else 1)
      | _, _ => true)
    && (match c.h.kd with
      | .uni => uni c.h.dst.index.toNat 1
      | k => k.regs c.h.dst == 0 || c.h.dst.index.toNat + k.regs c.h.dst ≤ lrRegs c.gr.lr)
    && (match c.i with
      | .uown f => decide (f.imm.toNat % 64 < lrUni c.gr.lr) && decide (bitsOf f.imm.toNat 10 6 < lrGroups c.gr.lr)
      | .lqcfg f => !(f.imm.toNat.testBit 3)
          || decide (bitsOf f.imm.toNat 11 4 + bitsOf f.imm.toNat 15 12 + 1 ≤ lrRegs c.gr.lr)
      | _ => true)

/-- Checks 6 and 7 of R79, for a decoded instruction: the trap code, or none. -/
def staticTrap (c : Ctx) : Option Nat :=
  if !c.i.wf || !boundsOk c then some tcIllfmt
  else if c.i.privileged && c.g.status != .handler then some tcPriv
  else none

/-- The uniform register an instruction writes or transfers, under the single-writer rule (R194). -/
def uniTarget (c : Ctx) : Option Nat :=
  match c.i with
  | .uown f => some (f.imm.toNat % 64)
  | _ => if c.h.kd == .uni then some c.h.dst.index.toNat else none

/-- Check 9 of R79, and the destinations of R73. -/
def operandCheck (c : Ctx) : Check :=
  firstCheck [srcChecks c.t c.r.grp c.g (srcList c.t c.g c.act c.h), dstCheck c.t c.r.grp c.g c.h.kd c.h.dst]

/-- Check 9 of R79 and the first parts of check 10: UWRITE (R194) and NOUNIT (R95). -/
def sourceCheck (c : Ctx) : Check :=
  firstCheck [operandCheck c,
    (match uniTarget c with
      | some n => if uniBusy c.t n then .wait else if c.t.regs.owner.getD n 0 == c.r.grp then .go else .trap tcUwrite 0 0
      | none => .go),
    if c.i.matrix && decide (2 ≤ coreClass c.s c.t.core) then .trap tcNounit 0 0 else .go]

/-- The group can issue: not waiting, nothing holds its next issue (R62, R148), no fault and no cause is pending (R100, R164). -/
def issuable (g : Group) : Bool :=
  (g.status == .ready || g.status == .handler) && !groupWaits g && !g.csrw && (g.queue.all fun a => !isStallOp a.opc && a.fault.isNone)
    && ((g.pending.isEmpty && g.side.isEmpty) || g.status == .handler)

/-- What the common part of an issue decides: nothing happens now, a trap, or the instruction's own part runs. -/
inductive Ready where
  | stall
  | trap (c : Cause)
  | skip
  | run
  deriving DecidableEq, Repr

/-- R79 up to the instruction's own check 10; `skip` is a "never"-predicated instruction (R56). -/
def readyOf (c : Ctx) : Ready :=
  if !issuable c.g then .stall
  else match staticTrap c with
    | some code => .trap (causeOf code)
    | none =>
      if c.h.pred.never then .skip
      else match sourceCheck c with
        | .go => .run
        | .wait => .stall
        | .trap code kind addr info => .trap ⟨code, info, kind, 0, BitVec.ofNat 64 addr⟩

/-! Retiring. -/

/-- The destination's width in registers. -/
def dstWords (h : Shape) : Nat :=
  match h.kd with
  | .v64 | .regPair => 2
  | .quad | .regQuad => 4
  | _ => 1

/-- The vector result of an instruction, written now or awaited under the group's next token. -/
def putResult (c : Ctx) (d : Done) (sw : Bool) (g : Group) : Group :=
  match d.vec with
  | none => g
  | some v =>
    let brim := !sw && !d.noBrim
    if d.lazy then
      { (awaitVec g { c.h.dst with cw := c.h.dst.cw && !sw } (dstWords c.h) brim c.act g.tok) with tok := g.tok + 1 }
    else writeVec g c.h.dst (dstWords c.h) (c.i.pipe == .y) brim c.act v

/-- Program counters after the issue (R135): active lanes as `pcs` says, every other ready lane at the slot goes on. -/
def putPcs (c : Ctx) (d : Done) (g : Group) : Group :=
  let succ := pcNext c.pc
  let here := laneMask fun l => (readyMask c.g).getLsbD l && (threadAt c.g l).pc == c.pc
  let dest (l : Nat) : DWord := match d.pcs with | some f => if c.act.getLsbD l then f l else succ | none => succ
  let g := updThreads g here fun l t => { t with pc := dest l, land := d.jump.getLsbD l }
  { g with gpc := succ, chosen := false, sel := g.sel || (lanesOf c.act).any fun l => dest l != succ }

/-- The group after the instruction's operands, results and program counters (R62 to R67, R107, R174). -/
def retireGroup (c : Ctx) (d : Done) (g : Group) : Group :=
  let sw := c.i.switches || d.drop
  let g := consume g (srcList c.t c.g c.act c.h)
  let g := if sw then dropOperands g else g
  let g := putResult c d sw g
  let g := match d.prd with
    | some p => writePred g c.h.dst.index.toNat c.act p
    | none => g
  putPcs c d (orFlags g d.flags)

/-- The whole effect of an instruction whose checks passed. -/
def retire (c : Ctx) (d : Done) : State :=
  let s := updGroup { c.s with cur := none } c.r (retireGroup c d)
  let s := match d.uni with
    | some v => writeUni s c.r.team c.h.dst.index.toNat v
    | none => s
  updGroup (d.post s) c.r refreshGroup

/-- A "never"-predicated instruction only lets the threads at its slot go on (R56). -/
def skipIssue (c : Ctx) : State := updGroup { c.s with cur := none } c.r (putPcs c {})

/-- The trap point: the first slot of a pair (R79). -/
def trapPoint (c : Ctx) : DWord := if c.slot2 then c.pc - 1 else c.pc

/-- A trap at issue: no effect of the instruction, outstanding accesses go on (R79, R218). -/
def issueTrap (c : Ctx) (k : Cause) : State :=
  takeTrap { c.s with cur := none } c.r k c.slot2 (trapPoint c) (trapPoint c) [] c.g.queue

/-- Issue of one instruction: the checks of R79, then its own part. -/
def issue (i : Instr) (s : State) (k : Ctx → Act) : Host.Outcome State Fault Refusal :=
  match ctxOf i s with
  | none => .next s
  | some c =>
    match readyOf c with
    | .stall => .next s
    | .trap e => next s (issueTrap c e)
    | .skip => next s (skipIssue c)
    | .run =>
      match k c with
      | .stall => .next s
      | .hold f => next s (f { c.s with cur := none })
      | .trap e => next s (issueTrap c e)
      | .go d => next s (retire c d)

/-! Short forms for the meanings. -/

def Ctx.av (c : Ctx) (l : Nat) : Nat := (Lanes.at c.a l 0).toNat
def Ctx.bv (c : Ctx) (l : Nat) : Nat := (Lanes.at c.b l 0).toNat
def Ctx.cv (c : Ctx) (l : Nat) : Nat := (Lanes.at c.c l 0).toNat

/-- A vector result lane by lane, with flags. -/
def vecAct (c : Ctx) (f : Nat → Nat × Flags) : Act :=
  .go { vec := some fun l => BitVec.ofNat 128 (f l).1, flags := laneFlags c.act fun l => (f l).2 }
/-- A vector result without flags. -/
def vecOf (f : Nat → Nat) : Act := .go { vec := some fun l => BitVec.ofNat 128 (f l) }
/-- An effect outside the group's operands, only with an active lane (R56). -/
def effect (c : Ctx) (f : State → State) : Act := .go { post := if c.act = 0 then fun s => s else f }

end Sys2Proof.Machine
end

