-- ==== Sys2Proof/Machine/Places.lean ====
section
/-! DEFINITION. Where accesses fall and what forbids them: the cluster window (R151, R255), range locks (R266 to R268), output
ranges and tickets (R286, R311 to R317, R325, R326), the side log's order (R262), and the state of tickets. -/

namespace Sys2Proof.Machine

/-! The cluster window. -/

/-- The team that a CWA.CORE of a team's instance names (R255); none for a core beyond the instance. -/
def windowTeam (gr : Grid) (lin core : Nat) : Option TeamRef :=
  let n := lrInst gr.lr
  if core = 15 then some ⟨gr.id, lin⟩ else if core < n then some ⟨gr.id, n * (lin / n) + core⟩ else none

/-- A window access of `n` bytes (R151, R255): team, bank and offset, or the trap code. -/
def windowPlace (s : State) (gr : Grid) (lin a n : Nat) : (TeamRef × Nat × Nat) ⊕ Nat :=
  if bitsOf a 31 24 ≠ 0 ∨ a % n ≠ 0 then .inr tcAlign
  else match windowTeam gr lin (bitsOf a 23 20) with
    | none => .inr tcProt
    | some r => match teamAt s r with
      | none => .inr tcProt
      | some t => match t.banks[bitsOf a 19 16]? with
        | none => .inr tcProt
        | some b => if b.mode == .spad then .inl (r, bitsOf a 19 16, a % 65536) else .inr tcBankoff

/-- The word of an addition in the bank of a team that has released its slot (R207): such an addition is discarded. -/
def releasedWord (gr : Grid) (lin a : Nat) : Option (TeamRef × Nat × Nat) :=
  match windowTeam gr lin (bitsOf a 23 20) with
  | some r => if gr.released.contains r.lin && decide (bitsOf a 19 16 < lrSpad gr.lr) then some (r, bitsOf a 19 16, a % 65536) else none
  | none => none

def updBank (s : State) (t : TeamRef) (b : Nat) (f : Bank → Bank) : State :=
  updTeam s t fun x => { x with banks := modAt x.banks b f }

/-- `n` bytes of a bank as a number. -/
def bankGet (s : State) (t : TeamRef) (b off n : Nat) : Nat :=
  match teamAt s t with
  | some x => match x.banks[b]? with
    | some k => (List.range n).foldl (fun r i => r + sparseGet k.bytes (off + i) * 256 ^ i) 0
    | none => 0
  | none => 0
/-- Write `n` bytes of a bank. -/
def bankPut (s : State) (t : TeamRef) (b off n v : Nat) : State :=
  updBank s t b fun k => { k with bytes := (List.range n).foldl (fun m i => sparseSet m (off + i) (byteOf v i)) k.bytes }

/-! Range locks. -/

/-- A locked range (R267): virtual addresses of a partition, or bank bytes of a team. Virtual bounds are signed. -/
structure LockRange where
  part : Nat
  team : Option TeamRef
  lo : Int
  hi : Int
  dst : Bool
  deriving DecidableEq, Repr

/-- A field of a descriptor. -/
def dNat (d : List Byte) (off n : Nat) : Nat := ofBytes ((d.drop off).take n)
def dInt (d : List Byte) (off : Nat) : Int := signed 64 (dNat d off 8)

/-- The bounding interval of `n2` planes of `n1` rows of `len` bytes, widened to 128 B (R266). -/
def spanOf (base : Int) (n1 : Nat) (s1 : Int) (n2 : Nat) (s2 : Int) (len : Nat) : Int × Int :=
  let d1 := ((n1 : Int) - 1) * s1
  let d2 := ((n2 : Int) - 1) * s2
  let lo := base + min 0 d1 + min 0 d2
  let hi := base + max 0 d1 + max 0 d2 + len
  (lo / 128 * 128, (hi + 127) / 128 * 128)

/-- One range of an operation of a team: in the window the bank bytes of the team it names. -/
def lockRange (gr : Option Grid) (part lin : Nat) (window dst : Bool) (base : Nat) (n1 : Nat) (s1 : Int) (n2 : Nat) (s2 : Int)
    (len : Nat) : LockRange :=
  if window then
    let x := spanOf (base % 2 ^ 20 : Nat) n1 s1 n2 s2 len
    let t := match gr with | some g => windowTeam g lin (bitsOf base 23 20) | none => none
    ⟨part, some (t.getD ⟨0, 0⟩), x.1, x.2, dst⟩
  else
    let x := spanOf (signed 64 base) n1 s1 n2 s2 len
    ⟨part, none, x.1, x.2, dst⟩

/-- The ranges of a COPY or GATHER descriptor (R266), the destination last. -/
def descRanges (gr : Option Grid) (part lin : Nat) (gather : Bool) (d : List Byte) : List LockRange :=
  let ctl := dNat d 0 8
  let rng := lockRange gr part lin
  if gather then
    let rows := dNat d 0x1c 4
    [rng (abit ctl 0 == 1) false (dNat d 8 8) (dNat d 0x20 4) (dInt d 0x28) 1 0 (dNat d 0x18 4),
     rng true false (dNat d 0x38 4) 1 0 1 0 (4 * rows),
     rng (abit ctl 1 == 1) true (dNat d 0x10 8) rows (dInt d 0x30) 1 0 (dNat d 0x18 4)]
  else
    let n1 := dNat d 0x1c 4
    let n2 := dNat d 0x20 4
    [rng (abit ctl 0 == 1) false (dNat d 8 8) n1 (dInt d 0x28) n2 (dInt d 0x30) (dNat d 0x18 4),
     rng (abit ctl 1 == 1) true (dNat d 0x10 8) n1 (dInt d 0x38) n2 (dInt d 0x40) (dNat d 0x18 4)]

/-- The registered ranges of an operation (R267): those of a cancelled one are released (R272); a graph's copy is in no cluster's
table (log entry 51). -/
def copyRanges (s : State) (o : CopyOp) (part : Nat) : List LockRange :=
  if o.cancelled || o.run.isSome then [] else descRanges (gridAt s o.team.grid) part o.team.lin o.gather o.desc

/-- The copies of restored teams that wait for their place: they hold their locks in every cluster of the partition (R271, R390; log
entry 103). -/
def parkedCopies (s : State) (c : Cluster) : List CopyOp := (s.parked.filter fun x => x.team.part == c.ref.part).flatMap (·.copies)
/-- The locks of a cluster. -/
def clusterLocks (s : State) (c : Cluster) : List LockRange := (c.copies ++ parkedCopies s c).flatMap fun o => copyRanges s o c.ref.part

/-- Whether bytes [lo, hi) of a space overlap a range. -/
def LockRange.meets (r : LockRange) (part : Nat) (team : Option TeamRef) (lo hi : Int) : Bool :=
  r.team == team && (team.isSome || r.part == part) && decide (lo < r.hi) && decide (r.lo < hi)

/-- Whether an access from a core meets a lock (R268): reads only destination ranges, writes every range. -/
def lockedAt (s : State) (core part : Nat) (team : Option TeamRef) (lo : Int) (n : Nat) (write : Bool) : Bool :=
  match clusterOfCore s core with
  | some c => (clusterLocks s c).any fun r => (write || r.dst) && r.meets part team lo (lo + n)
  | none => false

/-! Tickets (R311 to R317). -/

/-- Teams of one ticket sequence (R311, R286). -/
def sameSeq (gr : Grid) (a b : Nat) : Bool := !lrTdie gr.lr || logicalDie gr a == logicalDie gr b

/-- The ticket is the head of its sequence (R311). -/
def isHead (gr : Grid) (lin : Nat) : Bool :=
  !(gr.retired.contains lin) && (List.range lin).all fun k => !(sameSeq gr k lin) || gr.retired.contains k

/-- The team closes, or has closed (R314). -/
def teamClosed (t : Team) : Bool :=
  t.tk.closed || t.groups.all fun g => g.status != .handler && (lanesOf (presentMask g)).all fun l => (threadAt g l).post

/-- The state of a ticket (R313). -/
def ticketState (gr : Grid) (t : Team) : Ticket :=
  if !lrDet gr.lr then .none
  else if t.tk.retired != .none then t.tk.retired
  else if isHead gr t.ref.lin then (if teamClosed t then .draining else .headOpen)
  else if teamClosed t then .closed else .opened

/-- The buffered and waiting treatments of R317 apply to the team now. -/
def ticketBuffers (gr : Grid) (t : Team) : Bool :=
  match ticketState gr t with
  | .opened | .closed => true
  | .headOpen => !t.tk.share.isEmpty
  | _ => false
/-- What an engine writes for an operation issued before the close follows the entries that are still in the share (R313, R317; log
entry 96). -/
def drainBuffers (gr : Grid) (t : Team) : Bool := ticketBuffers gr t || (ticketState gr t == .draining && !t.tk.share.isEmpty)

/-- How R317 treats an operation. -/
inductive Treat where
  | direct | buffered | waiting
  deriving DecidableEq, Repr

/-- A 64-bit address of an access in a declared output range, by its index (R325, R326). -/
def outRange (gr : Grid) (va n : Nat) : Option (Nat × OutRange) :=
  (gr.outs.zipIdx).findSome? fun x => if x.1.base < va + n ∧ va < x.1.base + x.1.len then some (x.2, x.1) else none

/-! Memory instructions. -/

/-- Instructions at cluster-window addresses: LDS, STS, ATOMS and the arrival-word instructions. -/
def isWindowOp (opc : Nat) : Bool :=
  opc == 0x82 || opc == 0x83 || opc == 0x87 || opc == 0xb9 || opc == 0xba || opc == 0xbb
/-- Call spills, and the reload of RET. -/
def isSpillOp (opc : Nat) : Bool := opc == 0x63 || opc == 0x64
/-- LD, LDS, LDU, MWAIT and the return reload read. -/
def isReadOp (opc : Nat) : Bool := opc == 0x80 || opc == 0x82 || opc == 0x84 || opc == 0x8c || opc == 0x65
/-- Stores, reductions and call spills (R163). -/
def isStoreOp (opc : Nat) : Bool := opc == 0x81 || opc == 0x83 || opc == 0x86 || isSpillOp opc
/-- ATOM, ATOMS and CAS. -/
def isAtomOp (opc : Nat) : Bool := opc == 0x85 || opc == 0x87 || opc == 0x88
/-- FENCE and RACQ, which access nothing. -/
def isFenceOp (opc : Nat) : Bool := opc == 0x8a || opc == 0x8b
/-- Entries of the access queue that the memory unit performs. -/
def isMemOp (opc : Nat) : Bool :=
  isReadOp opc || isStoreOp opc || isAtomOp opc || isFenceOp opc || opc == 0xb9 || opc == 0xba || opc == 0xbb

/-- MOD.ORD and MOD.CPOL of an access (R149). -/
def Access.ord (a : Access) : Nat := if isReadOp a.opc || isStoreOp a.opc || isAtomOp a.opc then a.mod / 16 % 4 else 0
def Access.cpol (a : Access) : Nat := if a.opc == 0x80 || a.opc == 0x81 || a.opc == 0x84 then a.mod / 64 % 4 else 0

/-- The integer-scaled additions of a deterministic launch (R327). -/
def isScaledAdd (gr : Grid) (a : Access) : Bool := lrDet gr.lr && (a.opc == 0x85 || a.opc == 0x86) && a.sub == 9

/-- The type width in bytes (R149). -/
def Access.width (a : Access) : Nat :=
  if isSpillOp a.opc || a.opc == 0x65 then 8 else if isFenceOp a.opc then 1 else 2 ^ (a.mod % 8)
/-- Bytes an access touches in a lane; a scaled addition acts on 8 (R327). -/
def accBytes (gr : Grid) (a : Access) : Nat := if isScaledAdd gr a then 8 else a.width

/-- The permissions an access needs (R295): R 1, W 2; a program's write (8) keeps off executable pages (R54). -/
def accNeed (a : Access) : Nat :=
  if isFenceOp a.opc then 0 else if isReadOp a.opc then 1 else if isStoreOp a.opc then 10 else 11

/-- An access that the core's L1 may answer (R257, R289): a plain load or store, or any access to a line of a TEAM page. -/
def l1Serves (a : Access) (share : Nat) : Bool :=
  a.cpol != 2 && !isFenceOp a.opc && a.opc != 0x8c && (share == shTeam || (a.ord == 0 && (isReadOp a.opc || (isStoreOp a.opc && a.opc != 0x86))))

/-- The translation of an access (R257): that of the L1 line it hits, else the TLB's or the tables'. -/
def accXlate (s : State) (t : Team) (a : Access) (va : Nat) : Walked :=
  match (l1Find s t.core (partAsid s t.part) va).filter fun l => l1Serves a l.share with
  | some l => if canonical va then permitted (accNeed a) (entryLeaf l.size l.leaf va) else .err tcProt
  | none => xlate s t.part t.core va (accNeed a)

/-- The access kind of R219 (log entry 13). -/
def accKind (a : Access) : Nat :=
  if isSpillOp a.opc then 5 else if a.opc == 0x65 then 6 else if isReadOp a.opc || isFenceOp a.opc || a.opc == 0xeb then 2
  else if isStoreOp a.opc then 3 else if a.opc == 0xbb then 8 else 4

/-- The lowest active lane as a mask, for instructions issued once for the group. -/
def oneLane (m : BitVec 32) : BitVec 32 :=
  match lowLane m with
  | some l => laneMask fun i => i == l
  | none => 0

/-- Where a lane's access falls. -/
inductive Place where
  | bank (t : TeamRef) (b off : Nat)
  | virt (va pa share : Nat)
  deriving DecidableEq, Repr

/-- The checks of R314, R325, R326 and R286 on `n` bytes of a virtual page by team `lin`: code and INFO. `rel`: released for
output reads; `post`: the thread is post-commit. -/
def detFault (gr : Grid) (lin : Nat) (rel post reads writes : Bool) (va n share : Nat) : Option (Nat × Nat) :=
  let late : Bool := writes && decide (shCluster ≤ share) && post
  if !lrDet gr.lr then none
  else match outRange gr va n with
    | some x =>
      if reads && !rel then some (tcDetrace, 0)
      else if late then some (tcDetrace, 1)
      else if share = shTeam then some (tcDetrace, 2)
      else if writes && lrTdie gr.lr && x.2.die != logicalDie gr lin then some (tcDetdie, 0)
      else none
    | none => if late then some (tcDetrace, 1) else none

/-- These checks for one lane of an access; the return reload and call spills are no accesses they name. -/
def ticketFault (t : Team) (gr : Grid) (g : Group) (a : Access) (l va share : Nat) : Option (Nat × Nat) :=
  detFault gr t.ref.lin g.outRel (threadAt g l).post ((isReadOp a.opc || isAtomOp a.opc) && a.opc != 0x65)
    (!isReadOp a.opc && !isSpillOp a.opc) va (accBytes gr a) share

/-- R317 for one lane at its place, while the treatments apply. -/
def treatOf (a : Access) (p : Place) : Treat :=
  match p with
  | .bank .. => .direct
  | .virt _ _ share =>
    let wide : Bool := decide (shCluster ≤ share)
    if (a.opc == 0x81 && wide) || (a.opc == 0x86 && (wide || a.sub == 9)) then .buffered
    else if (a.opc == 0x85 && (wide || a.sub == 9)) || (a.opc == 0x88 && wide) then .waiting
    else .direct

/-- A lane of an aborted team that writes to a wide page, which is discarded without a trap (R315). -/
def discardPlace (s : State) (t : Team) (gr : Grid) (a : Access) (va : Nat) : Option Place :=
  if !(t.tk.abortMark && lrDet gr.lr && !isReadOp a.opc) then none
  else match xlate s t.part t.core va 0 with
    | .ok pa share _ =>
      if shCluster ≤ share ∧ treatOf a (.virt va pa share) ≠ .direct then some (.virt va pa share) else none
    | .err _ => none

/-- The place of one lane's access, or the code and INFO of its fault (R100: the lowest code). -/
def lanePlace (s : State) (t : Team) (gr : Grid) (g : Group) (a : Access) (l : Nat) : Place ⊕ (Nat × Nat) :=
  let va := (Lanes.at a.addr l 0).toNat
  let n := accBytes gr a
  let wr : Bool := !isReadOp a.opc
  if isWindowOp a.opc then
    match windowPlace s gr t.ref.lin (va % 2 ^ 32) n with
    | .inr c => match (releasedWord gr t.ref.lin (va % 2 ^ 32)).filter fun _ => a.opc == 0xba && c == tcProt with
      | some (r, b, off) => .inl (.bank r b off)
      | none => .inr (c, 0)
    | .inl (r, b, off) =>
      if lockedAt s t.core t.part (some r) ((65536 * b + off : Nat) : Int) n wr then .inr (tcLockhit, 0) else .inl (.bank r b off)
  else if va % n ≠ 0 then .inr (tcAlign, 0)
  else match discardPlace s t gr a va with
    | some p => .inl p
    | none => match accXlate s t a va with
      | .err c => .inr (c, 0)
      | .ok pa share _ =>
        if isFenceOp a.opc then .inl (.virt va pa share)
        else if a.opc == 0x8c && (share = shTeam || region pa == some 2) then .inr (tcProt, 0)
        else if lockedAt s t.core t.part none (signed 64 va) n wr then .inr (tcLockhit, 0)
        else match ticketFault t gr g a l va share with
          | some f => .inr f
          | none => .inl (.virt va pa share)

/-! The side log's order (R262) and the share's (R321). -/

/-- Whether two runs of bytes overlap. -/
def bytesMeet (a n b m : Nat) : Bool := decide (a < b + m) && decide (b < a + n)

/-- The entries of the core's cluster log. -/
def slogOf (s : State) (core : Nat) : List SlogEntry :=
  match clusterOfCore s core with
  | some c => c.slog
  | none => []

/-- A side-log entry covers bytes of an access (R262). -/
def slogTouches (e : SlogEntry) (va n : Nat) : Bool :=
  (lanesOf e.acc.lanes).any fun l => bytesMeet (Lanes.at e.acc.addr l 0).toNat e.acc.width va n

/-- R262: a release waits until every earlier entry of its group has been replayed, or its fault has been taken. -/
def slogHolds (s : State) (r : GroupRef) (core : Nat) : Bool :=
  ((slogOf s core).any fun e => e.team == r.team && e.grp == r.grp) || (groupAt s r).any fun g => !g.side.isEmpty

/-- An entry of the share that is no store overlaps bytes (R321). -/
def shareHolds (t : Team) (va n : Nat) : Bool :=
  t.tk.share.any fun e => e.kind != .store &&
    (List.range n).any fun i => e.line == (va + i) / 128 && e.mask.getD ((va + i) % 128) false

end Sys2Proof.Machine
end

