-- ==== Sys2Proof/Machine/Maps.lean ====
section
/-! DEFINITION. Tile maps (R226, R227), operand elements in bit planes, chunked sums (R43, R44) and the quarter operation (R230,
R232) on numbers. -/

namespace Sys2Proof.Machine

/-- A tile map's fields (R227). -/
structure TileMap where
  valid : Bool
  fmt : Ty
  prec : Nat
  trans : Bool
  base : Nat
  rows : Nat
  cols : Nat
  ps : Nat
  rs : Nat
  scale : Nat
  deriving DecidableEq, Repr

def TileMap.ofNat (m : Nat) : TileMap :=
  { valid := abit m 0 == 1, fmt := (Ty.ofCode (bitsOf m 5 1)).getD .none, prec := bitsOf m 8 6, trans := abit m 9 == 1
    base := bitsOf m 35 16, rows := bitsOf m 43 36 + 1, cols := bitsOf m 51 44 + 1, ps := bitsOf m 95 64, rs := bitsOf m 127 96
    scale := bitsOf m 147 128 }

/-- The reserved bits of a map. -/
def mapReserved (m : Nat) : Bool := bitsOf m 15 10 != 0 || bitsOf m 63 52 != 0 || bitsOf m 255 148 != 0

/-- The element formats of R227. -/
def mapFormats : List Ty := [.f64, .f32, .f16, .bf16, .e5m2, .e4m3, .e2m1, .i8, .x4e2, .x4e4]

/-- A map that an instruction may use, as far as the map itself decides. -/
def TileMap.ok (t : TileMap) : Bool :=
  t.valid && mapFormats.contains t.fmt && t.prec != 1 && (t.prec == 0 || t.fmt == .i8) && t.base % 4 == 0 && t.ps % 4 == 0
    && t.rs % 4 == 0

def Ty.isBx (t : Ty) : Bool := t == .x4e2 || t == .x4e4

/-- Planes the engine reads (R226). -/
def TileMap.planes (t : TileMap) : Nat :=
  if t.fmt == .i8 && t.prec != 0 then t.prec
  else if t.fmt == .x4e2 then 4
  else if t.fmt == .x4e4 then 8
  else t.fmt.bits

/-- Operand rows and columns after MAP.TRANS. -/
def TileMap.shape (t : TileMap) : Nat × Nat := if t.trans then (t.cols, t.rows) else (t.rows, t.cols)

/-- The runs of pool bytes of a map's planes: offset and length. -/
def TileMap.runs (t : TileMap) : List (Nat × Nat) :=
  (List.range t.planes).flatMap fun k => (List.range t.rows).map fun r => (t.base + k * t.ps + r * t.rs, (t.cols + 7) / 8)

/-- The scale plane of a BX4 map whose K has `kb` blocks per stored row (R226, R232). -/
def TileMap.scaleRun (t : TileMap) (kb : Nat) : List (Nat × Nat) := if Ty.isBx t.fmt then [(t.scale, 3 * t.rows * kb)] else []

/-- The code of stored element (r, j). -/
def TileMap.code (t : TileMap) (rd : Nat → Nat) (r j : Nat) : Nat :=
  (List.range t.planes).foldl (fun c k => c + (rd (t.base + k * t.ps + r * t.rs + j / 8) >>> (j % 8)) % 2 * 2 ^ k) 0

/-- The code of operand element (i, j). -/
def TileMap.at (t : TileMap) (rd : Nat → Nat) (i j : Nat) : Nat := if t.trans then t.code rd j i else t.code rd i j

/-- An integer element. -/
def TileMap.int (t : TileMap) (c : Nat) : Int := signed t.planes c

/-- The S24 of block `q` of stored row `r`, with `kb` blocks per row. -/
def TileMap.s24 (t : TileMap) (rd : Nat → Nat) (kb r q : Nat) : Nat :=
  let a := t.scale + 3 * (r * kb + q)
  rd a + 256 * rd (a + 1) + 65536 * rd (a + 2)

/-! Chunked sums. -/

/-- EXACT_SUM of a chunk's products (R44); `zero`: a block of the chunk is a zero block. A NaN product
answers NaN without the NV of infinities of both signs beside it (DESIGN CHOICE, log entry 111). -/
def chunkSum (ps : List (FV × FV)) (zero : Bool) : FV × Flags :=
  let xs := ps.map fun p => fvMul p.1 p.2
  let fl := xs.foldl (fun f x => f ||| x.2) (0 : Flags)
  let vs := xs.map (·.1)
  let pos := vs.any fun v => v == .inf false
  let neg := vs.any fun v => v == .inf true
  if vs.any FV.isNan then (.nan false, fl)
  else if pos && neg then (.nan false, fl ||| flNV)
  else if pos || neg then (.inf neg, fl)
  else if zero then (.zero false, fl)
  else
    let d := vs.foldl (fun d v => Dy.add d v.dy) Dy.zero
    if d.m = 0 then (.zero (vs.all fun v => v == .zero true), fl) else (.num d, fl)

/-- One accumulation step (R44). -/
def accStep (f : Fmt) (c : Nat × Flags) (ps : List (FV × FV)) (zero : Bool) : Nat × Flags :=
  let s := chunkSum ps zero
  let x := xadd .rne (f.val c.1) s.1
  let r := rnd f .rne false x.1
  (r.1, c.2 ||| s.2 ||| x.2 ||| r.2)

/-- Consecutive chunks of a list; `n` chunks of `k`. -/
def chunksOf {α : Type} (k : Nat) : Nat → List α → List (List α)
  | 0, _ => []
  | n + 1, l => l.take k :: chunksOf k n (l.drop k)

/-- The sum of a list of products into an accumulator by chunks of `k` (R44). -/
def accChunks (f : Fmt) (k : Nat) (c : Nat × Flags) (ps : List (FV × FV)) : Nat × Flags :=
  (chunksOf k (ps.length / k) ps).foldl (fun c p => accStep f c p false) c

/-! Quarter operations. -/

/-- K_op and K_c of a pair of formats (R230, R43); none for a pair that has no quarter operation. -/
def pairK (a b : Ty) : Option (Nat × Nat) :=
  let f8 (t : Ty) : Bool := t == .e4m3 || t == .e5m2
  if a == .f64 && b == .f64 then some (4, 1)
  else if a == .f32 && b == .f32 then some (8, 4)
  else if (a == .f16 && b == .f16) || (a == .bf16 && b == .bf16) then some (32, 16)
  else if f8 a && f8 b then some (64, 64)
  else if a == .i8 && b == .i8 then some (64, 64)
  else if a == .e2m1 && b == .e2m1 then some (128, 64)
  else if a == .x4e4 && b == .x4e4 then some (64, 4)
  else if a == .x4e2 && b == .x4e2 then some (128, 4)
  else none

/-- Bits [4g + 1 : 4g] and [4g + 3 : 4g + 2] of a column's metadata (R232). -/
def metaPos (md g : Nat) : Nat × Nat := (bitsOf md (4 * g + 1) (4 * g), bitsOf md (4 * g + 3) (4 * g + 2))
/-- The first position of every group lies below the second. -/
def metaOk (md kop : Nat) : Bool := (List.range (kop / 4)).all fun g => decide ((metaPos md g).1 < (metaPos md g).2)

/-- The stored K row of B for logical row `k` of column metadata `md`; none where the position is not named. -/
def storedK (md k : Nat) : Option Nat :=
  let p := metaPos md (k / 4)
  if p.1 = k % 4 then some (2 * (k / 4)) else if p.2 = k % 4 then some (2 * (k / 4) + 1) else none

/-- The code of B at logical (k, n); unnamed positions of a sparse B hold +0. -/
def bCode (b : TileMap) (rd : Nat → Nat) (md : Option (List Nat)) (k n : Nat) : Nat :=
  match md with
  | none => b.at rd k n
  | some l => match storedK (l.getD n 0) k with
    | some i => b.at rd i n
    | none => 0

/-- A floating or block-scaled element value; `s` is its block's scale. -/
def elemVal (t : TileMap) (s c : Nat) : FV := if Ty.isBx t.fmt then bxVal t.fmt s c else (Ty.fmt t.fmt).val c

/-- The operands of a quarter operation as tables: codes of A by (i, k) and of B by (k, n), and block scales by row and block. -/
structure Quarter where
  a : TileMap
  b : TileMap
  sati : Bool
  kop : Nat
  kc : Nat
  ac : Array Nat
  bc : Array Nat
  sa : Array Nat
  sb : Array Nat

def tableOf (n : Nat) (f : Nat → Nat) : Array Nat := ((List.range n).map f).toArray

/-- Read the operands (R226, R232). -/
def Quarter.read (a b : TileMap) (rd : Nat → Nat) (md : Option (List Nat)) (sati : Bool) (kop kc : Nat) : Quarter :=
  let bx := Ty.isBx a.fmt
  let kb := kop / 4
  { a := a, b := b, sati := sati, kop := kop, kc := kc
    ac := tableOf (32 * kop) fun x => a.at rd (x / kop) (x % kop)
    bc := tableOf (32 * kop) fun x => bCode b rd md (x / 32) (x % 32)
    sa := if bx then tableOf (32 * kb) fun x => a.s24 rd kb (x / kb) (x % kb) else #[]
    sb := if bx then tableOf (32 * kb) fun x => b.s24 rd kb (x / kb) (x % kb) else #[] }

/-- Element (i, n) of C after the quarter operation, from its old code (R44, R230). -/
def Quarter.elem (o : Quarter) (i n old : Nat) : Nat × Flags :=
  let a (k : Nat) : Nat := o.ac.getD (i * o.kop + k) 0
  let b (k : Nat) : Nat := o.bc.getD (k * 32 + n) 0
  (List.range (o.kop / o.kc)).foldl (fun (c : Nat × Flags) j =>
    let ks := (List.range o.kc).map fun q => j * o.kc + q
    if o.a.fmt == .i8 then
      let x := ks.foldl (fun r k => r + o.a.int (a k) * o.b.int (b k)) (signed 32 c.1)
      if o.sati then
        let y := clamp x (intMin true 32) (intMax true 32)
        (wrap 32 y.1, c.2 ||| flIf y.2 flIS)
      else (wrap 32 x, c.2)
    else
      let sa := o.sa.getD (i * (o.kop / 4) + j) 0
      let sb := o.sb.getD (n * (o.kop / 4) + j) 0
      let zero := Ty.isBx o.a.fmt && (s24Exp sa == 0 || s24Exp sb == 0)
      accStep (if o.a.fmt == .f64 then fmtF64 else fmtF32) c
        (ks.map fun k => (elemVal o.a sa (a k), elemVal o.b sb (b k))) zero) (old, 0)

/-! Accumulator tiles. -/

/-- Word `j` of row `i` of a tile. -/
def accWord (acc : Sparse) (tile i j : Nat) : Nat := sparseGet acc (1024 * tile + 32 * i + j)

/-- Replace the words of a tile. -/
def accPut (acc : Sparse) (tile : Nat) (v : List Nat) : Sparse :=
  let lo := 1024 * tile
  (acc.filter fun x => decide (x.1 < lo)) ++ ((v.zipIdx).filterMap fun x => if x.1 = 0 then none else some (lo + x.2, x.1))
    ++ acc.filter fun x => decide (lo + 1024 ≤ x.1)

/-- Element (i, j) of an accumulator at `tile`: an FP64 element takes two words of the pair (R230). -/
def accElem (acc : Sparse) (wide : Bool) (tile i j : Nat) : Nat :=
  if wide then
    let t := tile + j / 16
    let k := 2 * (j % 16)
    accWord acc t i k + accWord acc t i (k + 1) * 2 ^ 32
  else accWord acc tile i j

/-- Write all elements of an accumulator, given row by row. -/
def accFill (acc : Sparse) (wide : Bool) (tile : Nat) (f : Nat → Nat → Nat) : Sparse :=
  if wide then
    (List.range 2).foldl (fun acc h => accPut acc (tile + h) ((List.range 1024).map fun x =>
      let v := f (x / 32) (16 * h + x % 32 / 2)
      if x % 2 = 0 then v % 2 ^ 32 else v / 2 ^ 32)) acc
  else accPut acc tile ((List.range 1024).map fun x => f (x / 32) (x % 32))

/-- The tiles of an accumulator. -/
def accTiles (wide : Bool) (tile : Nat) : List Nat := if wide then [tile, tile + 1] else [tile]

end Sys2Proof.Machine
end

