-- ==== Sys2Proof/Machine/Access.lean ====
section
/-! DEFINITION. Performing the accesses of a group's queue (R153 to R165, R287 to R289, R297 to R308), the commit buffer's entries
(R317 to R321, R327) and the side log's insertion (R163, R260, R396). -/

namespace Sys2Proof.Machine

/-! Reading and writing at a place. -/

/-- An access to host memory by the L2, or to a page of host memory, does not use the L1 (log entry 7). -/
def bypasses (pa cpol : Nat) : Bool := region pa == some 2 || cpol == 2

/-- An access that a core's L1 does not answer is translated by the cluster's TLB, which remembers it (R257). -/
def useTlb (s : State) (t : Team) (va pa share ord cpol : Nat) : State :=
  let cached : Bool := cpol != 2 && (share == shTeam || ord == 0)
  if cached && (l1Find s t.core (partAsid s t.part) va).any fun l => l.pline == pa / 128 then s else tlbFill s t.part t.core va

/-- Read `n` bytes at a place from a core (R153, R156, R289): ordered reads of wider pages at the home, `.SC` and the 64-bit loads that
set a watch past every guest copy, which goes (R299, R307). -/
def placeRead (s : State) (t : Team) (p : Place) (ord cpol n : Nat) : State × List Byte :=
  match p with
  | .bank r b off => (s, toBytes n (bankGet s r b off n))
  | .virt va pa share =>
    let s := useTlb s t va pa share ord cpol
    let (s, b) :=
      if share = shTeam && cpol != 2 then l1Read s t.core t.part va pa share n
      else if share != shTeam && 2 ≤ ord then
        let s := l1Flush s t.core (pa / 128)
        if ord = 3 || n = 8 then (ownGuest s t.core share pa, (List.range n).map fun i => rdHome s (pa + i))
        else (s, (List.range n).map fun i => rdFrom s t.core share (pa + i))
      else if bypasses pa cpol then
        let s := l1Flush s t.core (pa / 128)
        (s, (List.range n).map fun i => rdFrom s t.core share (pa + i))
      else l1Read s t.core t.part va pa share n
    (s, if lrDet (match gridAt s t.ref.grid with | some g => g.lr | none => []) then
        (b.zipIdx).map fun x => shareByte t (va + x.2) x.1 else b)

/-- Write bytes at a place from a core (R153, R287 to R289): plain stores are held by the L1, ordered ones reach the home. -/
def placeWrite (s : State) (t : Team) (p : Place) (ord cpol : Nat) (narrow : Bool) (b : List Byte) : State :=
  match p with
  | .bank r k off => bankPut s r k off b.length (ofBytes b)
  | .virt va pa share =>
    let s := useTlb s t va pa share ord cpol
    if share != shTeam && ord = 0 && !bypasses pa cpol || share = shTeam && cpol != 2 then
      l1Write s t.core t.part va pa share narrow b
    else
      let s := l1Flush s t.core (pa / 128)
      let s := coreWrote (wrHomeN s (some share) pa b.length (ofBytes b)) t.core narrow share pa
      if ord = 3 && shPackage ≤ share then guestsAcked s else s

/-- The old value at a place and a change of it, indivisibly (R155 to R157, R299): at the L1 for TEAM pages, else at the home. Where
`f` answers none, as a CAS whose compare fails does (R157), nothing is written. -/
def placeUpdate (s : State) (t : Team) (p : Place) (n : Nat) (narrow : Bool) (f : Nat → Option Nat) : State × Nat :=
  match p with
  | .bank r b off =>
    let old := bankGet s r b off n
    (match f old with | some v => bankPut s r b off n v | none => s, old)
  | .virt va pa share =>
    let s := useTlb s t va pa share 0 (if share = shTeam then 0 else 2)
    if share = shTeam then
      let (s, b) := l1Read s t.core t.part va pa share n
      let old := ofBytes b
      (match f old with | some v => l1Write s t.core t.part va pa share narrow (toBytes n v) | none => s, old)
    else
      let s := l1Flush s t.core (pa / 128)
      let old := rdHomeN s pa n
      (match f old with
        | some v => coreWrote (wrHomeN s (some share) pa n v) t.core narrow share pa
        | none => ownGuest (lineOwned s pa) t.core share pa, old)

/-- The new value of an atomic operation of SUB code `sub` on `w` bytes (R155). -/
def atomNew (sub w : Nat) (sgn : Bool) (old b : Nat) : Nat :=
  let m := 2 ^ (8 * w)
  let b := b % m
  let less := decide (intVal sgn (8 * w) b < intVal sgn (8 * w) old)
  match sub with
  | 0 => (old + b) % m
  | 1 => if less then b else old
  | 2 => if less then old else b
  | 3 => old &&& b
  | 4 => old ||| b
  | 5 => old ^^^ b
  | 6 => b
  | 7 => if b ≤ old then 0 else old + 1
  | 8 => if old = 0 ∨ b < old then b else old - 1
  | _ => (fpAdd (if w = 8 then fmtF64 else fmtF32) ⟨.rne, false, false⟩ old b).1

/-- The addend of R327 and its flags NV, IS, NX, for an operand of `w` bytes under exponent `e`. -/
def scaledAddend (w e b : Nat) : Int × Flags :=
  let lo := intMin true 64
  let hi := intMax true 64
  match (if w = 8 then fmtF64 else fmtF32).val b with
  | .nan _ => (0, flNV)
  | .inf n => (if n then lo else hi, flNV)
  | .zero _ => (0, 0)
  | .num v =>
    let d : Dy := ⟨v.m, v.e + signed 12 e⟩
    if 70 < (bitLen v.m.natAbs : Int) + d.e then (if v.m < 0 then lo else hi, flIS ||| flNX)
    else
      let (n, x) := dyToInt .rne d
      let (k, out) := clamp n lo hi
      (k, flIf out flIS ||| flIf (x || out) flNX)

/-- The scale register of an address (R327). -/
def scaleOf (gr : Grid) (va : Nat) : BitVec 12 :=
  gr.ds.getD (match (gr.outs.zipIdx).findSome? fun x => if x.1.base ≤ va ∧ va < x.1.base + x.1.len then some x.2 else none with
    | some k => k | none => 8) 0

/-- What a scaled atomic returns (R327). -/
def scaledOld (w e old : Nat) : Nat :=
  (rnd (if w = 8 then fmtF64 else fmtF32) .rne false (XR.ofDy ⟨signed 64 old, -(signed 12 e)⟩ false)).1

/-! Arrival words (R207). -/

/-- One addition of `n` bytes to an arrival word (R207). -/
def arwAdd (w n : Nat) (canc : Bool) : Nat :=
  let target := w % 2 ^ 24
  let sum := bitsOf w 47 24 + n
  let gen := bitsOf w 62 48
  let (gen, count) :=
    if target = 0 then (if n = 0 then gen else gen + 1, 0) else (gen + sum / target, sum % target)
  target + count * 2 ^ 24 + gen % 2 ^ 15 * 2 ^ 48 + (if canc || abit w 63 == 1 then 2 ^ 63 else 0)

/-- The generation has passed `g` (R208). -/
def arwPassed (w g : Nat) : Bool :=
  let d := (bitsOf w 62 48 + 2 ^ 15 - g % 2 ^ 15) % 2 ^ 15
  decide (1 ≤ d) && decide (d ≤ 2 ^ 14)

/-- The bank word an ARRWAIT waits on, if its place still exists. -/
def arwOf (s : State) (gr : Grid) (lin : Nat) (a : Access) : Option (TeamRef × Nat × Nat) :=
  match lowLane a.lanes with
  | some l => match windowPlace s gr lin ((Lanes.at a.addr l 0).toNat % 2 ^ 32) 8 with
    | .inl x => some x
    | .inr _ => none
  | none => none

/-- End the waits on an arrival word that its generation has passed (R208): an acquire at CLUSTER scope. -/
def arwCheck (s : State) (r : TeamRef) (b off : Nat) : State :=
  let w := bankGet s r b off 8
  s.teams.foldl (fun s t =>
    match gridAt s t.ref.grid with
    | none => s
    | some gr =>
      (t.groups.zipIdx).foldl (fun s x =>
        match x.1.queue.find? fun a => a.opc == 0xbb && a.stage == 1 with
        | some a =>
          if arwOf s gr t.ref.lin a == some (r, b, off)
              && arwPassed w (Lanes.at a.data ((lowLane a.lanes).getD 0) 0).toNat then
            acquireAt (updGroup s ⟨t.ref, x.2⟩ fun g => endWait g a.tok (if abit w 63 = 1 then 3 else 0)) t.core shCluster
          else s
        | none => s) s) s

/-- Add to an arrival word of the window of a team; an addition to a released bank is discarded (R207). -/
def arwAddAt (s : State) (gr : Grid) (lin va n : Nat) (canc : Bool) : State :=
  if va = 0xffffffff then s
  else match windowPlace s gr lin va 8 with
    | .inl (r, b, off) => arwCheck (bankPut s r b off 8 (arwAdd (bankGet s r b off 8) n canc)) r b off
    | .inr _ => s

/-! Monitors (R307, R308). -/

/-- Displace the oldest entry of a full slice: the end of the step says how, since a write of the same clk counts first (R308). -/
def displace (s : State) (slice : Nat) : State :=
  let mine (m : Monitor) : Bool := m.slice == slice && !m.gone
  if (s.monitors.filter mine).length < 64 then s
  else match s.monitors.findIdx? mine with
    | some k => { s with monitors := modAt s.monitors k fun m => { m with gone := true } }
    | none => s

/-- The watch entry of a group. -/
def watchEntry (r : GroupRef) (m : Monitor) : Bool := m.grp == r && !m.armed && !m.gone

/-- An ordered 64-bit load sets its group's watch (R307); a watch of the same word keeps its entry. -/
def setWatch (s : State) (r : GroupRef) (share slice word : Nat) : State :=
  let keep : Bool := s.monitors.any fun m => watchEntry r m && m.word == word && m.share == share
  let s := if keep then { s with monitors := s.monitors.map fun m => if watchEntry r m then { m with hit := false } else m }
    else
      let s := displace { s with monitors := s.monitors.filter fun m => !(watchEntry r m) } slice
      { s with monitors := s.monitors ++ [⟨slice, word, share, r, false, false, false⟩] }
  updGroup s r fun g => { g with watch := some ⟨word, share, slice, false, false⟩ }

/-! Page requests (R396). -/

/-- The physical address of host physical address `a` (R394). -/
def hostPa (a : Nat) : Nat := 0x8000000000000 + a

def ringSize (s : State) : Nat := 2 ^ (7 + bitsOf s.host.prqbase.toNat 3 0)
/-- PRQHEAD as it will be once the records being written are performed. -/
def ringHead (s : State) : Nat := (s.host.prqhead.toNat + (s.host.after.filter fun x => x.head).length) % 2 ^ 32
def ringFull (s : State) : Bool := ringHead s == (s.host.prqtail.toNat + ringSize s) % 2 ^ 32

/-- Put a request's record into the ring: PRQHEAD and vector 1 follow once it is performed (R396). -/
def ringPut (s : State) (q : PageReq) : State :=
  let a := bitsOf s.host.prqbase.toNat 63 12 * 4096 + ringHead s % ringSize s * 32
  let s := wrHomeN s none (hostPa a) 32
    (ofBytes (toBytes 8 (q.page * 65536) ++ toBytes 8 (q.asid + 2 ^ 16 * q.part + 2 ^ 20 * q.kind) ++ zeroBytes 16))
  whenPosted { s with host := { s.host with requests := s.host.requests ++ [q] } } true (some 1)

/-- Ask system software for a page, once while a request for it is outstanding (R396). -/
def pageRequest (s : State) (part va kind : Nat) : State :=
  let q : PageReq := ⟨partAsid s part, va / 65536, part, kind⟩
  let same (x : PageReq) : Bool := x.asid == q.asid && x.page == q.page
  if s.host.requests.any same || s.host.queued.any same then s
  else if ringFull s then { s with host := { s.host with queued := s.host.queued ++ [q] } }
  else ringPut s q

/-! The commit buffer (R318). -/

/-- Masked bytes of one lane in a line. -/
def linePut (e : Entry) (off : Nat) (b : List Byte) : Entry :=
  { e with data := setBytes e.data off b, mask := e.mask.take off ++ b.map (fun _ => true) ++ e.mask.drop (off + b.length) }

def newEntry (line : Nat) (k : EntryKind) (born : Nat) : Entry :=
  ⟨line, k, List.replicate 128 0, List.replicate 128 false, born, false, false, none, []⟩

/-- The entries an instruction forms (R318): lines by their lowest lane; a store takes one entry per line, a reduction one per
repetition of a word. -/
def formEntries (k : EntryKind) (born : Nat) (l : List (Nat × List Byte)) : List Entry :=
  l.foldl (fun es x =>
    let off := x.1 % 128
    let fits (e : Entry) : Bool := e.line == x.1 / 128 && (k == .store || !(e.mask.getD off false))
    match es.findIdx? fits with
    | some i => modAt es i fun e => linePut e off x.2
    | none =>
      let e := linePut (newEntry (x.1 / 128) k born) off x.2
      let i := (es.zipIdx).foldl (fun r y => if y.1.line == e.line then y.2 + 1 else r) es.length
      es.take i ++ [e] ++ es.drop i) []

/-- Operations of a team that wait for its turn, by the stamp of their issue (R317). -/
def waitingBorn (s : State) (t : Team) : List Nat :=
  (t.groups.flatMap fun g => ((g.queue ++ g.saved.flatMap fun v => v.held).filter fun a => a.stage == 2).map (·.born))
    ++ s.clusters.flatMap fun c => (c.copies.filter fun o => o.team == t.ref && o.waiting).map (·.born)

/-- Drains of a team that have not ended, by the stamp of their issue: what they buffer keeps their place in program order (R317). -/
def drainBorn (t : Team) : List Nat :=
  (t.eops.filter fun o => (o.kind == .drain || o.kind == .drainAdd) && !o.cancelled).map (·.born)

/-- A direct operation of a team in a deterministic launch follows what the team has waiting or undrained from before it, so that its
outcome does not depend on the moment (R317, R335); a handler does not wait for what it may have to mend. -/
def followsOwed (s : State) (t : Team) (gr : Grid) (g : Group) (a : Access) : Bool :=
  lrDet gr.lr && g.status != .handler && a.stage != 2 && (waitingBorn s t ++ drainBorn t).any fun b => decide (b < a.born)

/-- The share after entries are formed: the first store entry may merge into the youngest entry (R318); an entry of an engine's
write stands where its MDRAIN was issued (R317, log entry 96). -/
def shareAfter (s : State) (t : Team) (es : List Entry) : List Entry :=
  es.foldl (fun sh e =>
    match sh.getLast? with
    | some y =>
      if e.born < y.born then (sh.filter fun x => decide (x.born ≤ e.born)) ++ [e] ++ sh.filter fun x => decide (e.born < x.born)
      else if y.kind == .store && e.kind == .store && y.line == e.line && !(waitingBorn s t).any fun b => decide (y.born < b) then
        sh.dropLast ++ [((List.range 128).foldl (fun r i =>
          if e.mask.getD i false then linePut r i [e.data.getD i 0] else r) { y with rels := y.rels ++ e.rels })]
      else sh ++ [e]
    | none => sh ++ [e]) t.tk.share

/-- The highest occupancy of a share of the core's commit buffer so far (R320). -/
def noteOcc (s : State) (core : Nat) : State :=
  let now := (s.teams.filter fun t => t.core == core).foldl (fun n t => max n (min t.tk.share.length 0xffff)) 0
  updCoreRegs s core fun c => { c with cbMax := max c.cbMax now }

/-- Add entries to a team's share if they fit; the head never waits for room (R318 to R320). -/
def addEntries (s : State) (t : Team) (gr : Grid) (es : List Entry) : Option State :=
  let sh := shareAfter s t es
  if sh.length ≤ t.tk.cap || isHead gr t.ref.lin then
    let s := updTeam s t.ref fun t => { t with tk := { t.tk with share := sh } }
    some (noteOcc s t.core)
  else none

/-- Count `n` clk up to now in which a team of the core waited for room, once (R320). -/
def countRoom (s : State) (core n : Nat) : State :=
  updCoreRegs s core fun c =>
    if c.cbLast = s.clk then c else { c with cbClk := min (c.cbClk + n) 0xffffffff, cbLast := s.clk }
/-- The instruction that issues is refused for want of room: it waits, and the clk counts (R320). -/
def countStall (c : Ctx) (s : State) : State :=
  countRoom (updTeam s c.r.team fun t => { t with tk := { t.tk with
    waits := (c.r.grp, c.pc, t.tk.share.length) :: t.tk.waits.filter fun x => x.1 != c.r.grp } }) c.t.core 1
/-- An instruction of a group still waits for room: its group stands at it and nothing has left the share. -/
def roomWait (s : State) (t : Team) (x : Nat × DWord × Nat) : Bool :=
  (gridAt s t.ref.grid).any (fun gr => !(isHead gr t.ref.lin)) && decide (x.2.2 ≤ t.tk.share.length) && (t.groups[x.1]?).any fun g =>
    issuable g && g.gpc == x.2.1 && (lanesOf (readyMask g)).any fun l => (threadAt g l).pc == x.2.1

/-! Order in the queue (R159, R164, R300, R305). -/

/-- Opcodes of Milliner requests. -/
def isRequest (opc : Nat) : Bool := 0xf0 ≤ opc && opc ≤ 0xf8
/-- An access that orders the ones after it: an acquire, a fence, or a request, whose completion acquires (R348). -/
def acquires (a : Access) : Bool := 2 ≤ a.ord || isFenceOp a.opc || isWaitOp a.opc || isRequest a.opc
/-- FENCE.ACQ and RACQ, which follow only the earlier reads (R305, R306). -/
def readsOnly (a : Access) : Bool := a.opc == 0x8b || (a.opc == 0x8a && a.sub == 1)
/-- Fences that follow the earlier reads of their threads: all but FENCE.REL (R305, R306). -/
def needsReads (a : Access) : Bool := isFenceOp a.opc && !(a.opc == 0x8a && a.sub == 0)
/-- Some thread issued both entries. -/
def sameThread (a b : Access) : Bool :=
  (lanesOf a.all).any fun l => (lanesOf b.all).any fun m => Lanes.at a.thr l 0 == Lanes.at b.thr m 0
/-- An access that the ones before it must precede: a release, a releasing fence, or an arrival. -/
def releases (a : Access) : Bool :=
  a.ord == 1 || a.ord == 3 || (isFenceOp a.opc && !readsOnly a) || a.opc == 0xba || a.opc == 0xbd

/-- Two entries touch, for one thread (R159) or in the turns of one serial region (R186), bytes that may be the same: compared
within a 64-KiB page or bank (log entry 14). -/
def mayTouch (gr : Grid) (a b : Access) : Bool :=
  isMemOp a.opc && isMemOp b.opc && !isFenceOp a.opc && !isFenceOp b.opc &&
    (lanesOf a.lanes).any fun l => (lanesOf b.lanes).any fun m =>
      ((a.ser && b.ser) || Lanes.at a.thr l 0 == Lanes.at b.thr m 0)
        && bytesMeet ((Lanes.at a.addr l 0).toNat % 65536) (accBytes gr a) ((Lanes.at b.addr m 0).toNat % 65536) (accBytes gr b)

/-- Entry `k` may perform now: no older fault, no older acquire, its release order, and its bytes' order. `lax`: it only enters
the share or waits for its turn, where the stamp of issue keeps it behind older waiting operations. An operation that waits for its turn
orders the later accesses of its own threads as an acquire and its read precedes their fences; releases do not follow it (R322). -/
def inOrder (gr : Grid) (g : Group) (k : Nat) (a : Access) (lax : Bool) : Bool :=
  (g.queue.take k).all fun b =>
    let waits := b.stage == 2
    let orders := !waits || sameThread a b
    b.fault.isNone && ((lax && waits)
      || (!(acquires b && orders) && !(releases a && !waits) && !(mayTouch gr b a)
        && !(needsReads a && orders && (isReadOp b.opc || isAtomOp b.opc))))

/-- A wait looks at its condition in front of older accesses (R208, R209; log entry 130): an ARRWAIT at its issue; an MWAIT too, but behind
the load that sets its watch and what touches its word; and every wait at the end of its time. -/
def looksAhead (s : State) (gr : Grid) (g : Group) (k : Nat) (a : Access) : Bool :=
  isWaitOp a.opc && (a.opc == 0xbb || expired s a
    || (g.queue.take k).all fun b => !(mayTouch gr b a) && !(isReadOp b.opc && 2 ≤ b.ord))

/-! Performing. -/

/-- What a release at a scope leaves on the threads of a mask (R306): narrow releases of CLUSTER and DIE scope, none beyond. -/
def markRelease (s : State) (r : GroupRef) (m : BitVec 32) (share : Nat) : State :=
  if share = shTeam then s
  else updGroup s r fun g => updThreads g m fun _ t => { t with narrow := decide (share < shPackage) }

/-- A write of a team is one after a narrow release of its thread (R306): one of these lanes of a group holds such a release. -/
def narrowLanes (s : State) (r : GroupRef) (m : BitVec 32) : Bool :=
  (groupAt s r).any fun g => (lanesOf m).any fun l => (threadAt g l).narrow

/-- What trying an access answers: nothing can happen, only a full share is in the way, or the state after. -/
inductive Perf where
  | blocked
  | full
  | done (s : State)

/-- Extend a loaded value (R153, R154). -/
def extendLoad (a : Access) (v : Nat) : Nat :=
  let w := a.mod % 8
  if a.opc == 0x84 then (if w = 2 && abit a.mod 3 = 1 then wrap 64 (signed 32 v) else v)
  else if abit a.mod 3 = 1 && w < 2 then wrap 32 (signed (8 * 2 ^ w) v) else v

/-- A store to a heap row that a pending .HEAP drain fills leaves the row's entries open (R240). -/
def heapRace (s : State) (p : Place) (a : Access) : State :=
  match p with
  | .bank r b off =>
    let rowOf (t : Team) : Bool := t.eops.any fun o => o.kind == .drain && o.rows.contains (b, off / 2048)
    if !isReadOp a.opc && (teamAt s r).any rowOf then
      let n := s.drawn
      bankPut { s with drawn := n + 1 } r b (off / 2048 * 2048) 2048
        ((List.range 256).foldl (fun v k => v + Config.freeWord n k % 2 ^ 64 * 2 ^ (64 * k)) 0)
    else s
  | .virt .. => s

/-- Perform one lane at its place: the state and the lane's result. -/
def performLane (s : State) (t : Team) (gr : Grid) (a : Access) (l : Nat) (p : Place) : State × Nat :=
  let d := (Lanes.at a.data l 0).toNat
  let n := a.width
  if isReadOp a.opc then
    let (s, b) := placeRead s t p a.ord a.cpol n
    (s, extendLoad a (ofBytes b))
  else if isAtomOp a.opc || a.opc == 0x86 then
    if isScaledAdd gr a then
      let va := (Lanes.at a.addr l 0).toNat
      let e := (scaleOf gr va).toNat
      let (x, fl) := scaledAddend n e (d % 2 ^ (8 * n))
      let (s, old) := placeUpdate s t p 8 a.narrow fun old => some (wrap 64 ((old : Int) + x))
      (orDflags s gr.id fl, scaledOld n e old)
    else if a.opc == 0x88 then
      placeUpdate s t p n a.narrow fun old => if old = d % 2 ^ (8 * n) then some (d / 2 ^ (8 * n) % 2 ^ (8 * n)) else none
    else placeUpdate s t p n a.narrow fun old => some (atomNew a.sub n (abit a.mod 3 == 1) old d)
  else if a.opc == 0xb9 then
    placeUpdate s t p 8 a.narrow fun old => some (d % 2 ^ 24 + bitsOf old 62 48 * 2 ^ 48)
  else if a.opc == 0xba then
    let (s, old) := placeUpdate s t p 8 a.narrow fun old => some (arwAdd old (d % 2 ^ 32) false)
    match p with
    | .bank r b off => (arwCheck s r b off, old)
    | .virt .. => (s, old)
  else (placeWrite s t p a.ord a.cpol a.narrow (toBytes n d), 0)

/-- Remove an entry of a group's queue by its token. -/
def dropEntry (s : State) (r : GroupRef) (tok : Nat) : State :=
  updGroup s r fun g => refreshGroup { g with queue := g.queue.filter fun a => a.tok != tok }
/-- Change an entry of a group's queue by its token. -/
def setEntry (s : State) (r : GroupRef) (tok : Nat) (f : Access → Access) : State :=
  updGroup s r fun g => { g with queue := g.queue.map fun a => if a.tok == tok then f a else a }

/-- Lanes of an entry are done: results are delivered, and the entry retires with its last lane (R162). -/
def finishLanes (s : State) (r : GroupRef) (a : Access) (m : BitVec 32) (v : Nat → Nat) : State :=
  let left := a.lanes &&& ~~~m
  let s := if a.opc == 0x84 then
      writeUni s r.team (a.dst.toNat % 64) (BitVec.ofNat 64 (v ((lowLane m).getD 0)))
    else if a.opc == 0x65 then
      match teamAt s r.team with
      | some t => updGroup s r fun g => reloadStack s t.part r.team.lin g a m fun l => BitVec.ofNat 64 (v l)
      | none => s
    else if accRegs a = 0 then s else updGroup s r fun g => deliver g a m fun l => BitVec.ofNat 128 (v l)
  if left = 0 ∧ a.owed = 0 then
    dropEntry (updGroup s r fun g => finishDst g a) r a.tok
  else setEntry s r a.tok fun x => { x with lanes := left }

/-- Record the fault of an entry (R100, R164): the lowest code, its lanes and its lowest lane's address. -/
def faultEntry (s : State) (r : GroupRef) (a : Access) (bad : List (Nat × Nat × Nat)) : State :=
  let code := bad.foldl (fun m x => min m x.2.1) 0xff
  let hit := bad.filter fun x => x.2.1 == code
  let info := match hit with | x :: _ => x.2.2 | [] => 0
  let mask := laneMask fun l => hit.any fun x => x.1 == l
  let addr := match lowLane mask with | some l => Lanes.at a.addr l 0 | none => 0
  setEntry s r a.tok fun x => { x with fault := some ⟨code, info, accKind a, mask, addr⟩ }

/-- Put lanes of a store into the cluster's side log and ask for their pages (R163, R260, R261). An ordered one counts as a narrow release
from here on, since the scope of its page is not known (R306): a mark too many only promotes early. -/
def slogInsert (s : State) (t : Team) (gr : Grid) (r : GroupRef) (c : Cluster) (a : Access) (m : BitVec 32) : State :=
  let n := lrInst gr.lr
  let e : SlogEntry := ⟨r.team, r.grp, if n = 1 then 0 else r.team.lin % n, t.core, { a with lanes := m, narrow := narrowLanes s r m }, [], stamp s⟩
  let s := if a.ord = 1 ∨ a.ord = 3 then markRelease s r m shCluster else s
  let s := updCluster s c.ref fun c =>
    { c with slog := c.slog ++ [e], slogFull := c.slogFull || decide (256 ≤ c.slog.length + 1) }
  (lanesOf m).foldl (fun s l => pageRequest s t.part (Lanes.at a.addr l 0).toNat 2) s

/-- Perform lanes in ascending order (R153, R155). -/
def performLanes (s : State) (t : Team) (gr : Grid) (a : Access) (l : List (Nat × Place)) : State × List (Nat × Nat) :=
  l.foldl (fun r x =>
    let (s, v) := performLane r.1 ((teamAt r.1 t.ref).getD t) gr a x.1 x.2
    (heapRace s x.2 a, r.2 ++ [(x.1, v)])) (s, [])

/-- The widest SHARE among places. -/
def widest (l : List (Nat × Place)) : Nat :=
  l.foldl (fun m x => match x.2 with | .virt _ _ sh => max m sh | .bank .. => m) 0

/-- How an access uses the host line of one of its lanes (R435): a store whose lanes cover the line writes all of it. -/
def hostUse (a : Access) (l : List (Nat × Place)) (pa : Nat) : HostUse :=
  if isReadOp a.opc then (if a.cpol = 1 then .once else .load)
  else if a.opc == 0x81 then
    lineUse (l.filterMap fun x => match x.2 with
      | .virt _ p _ => some (p, toBytes a.width (Lanes.at a.data x.1 0).toNat)
      | .bank .. => none) pa
  else .part

/-- Host lines, and host copies of device lines, that an access still lacks (R394, R435). -/
def hostLacks (s : State) (a : Access) (l : List (Nat × Place)) : List (Nat × Nat × HostUse) :=
  l.filterMap fun x => match x.2 with
    | .virt _ pa sh => if (region pa == some 2 || sh = shSystem) && !(hostReady s sh pa (hostUse a l pa)) then
        some (sh, pa, hostUse a l pa) else none
    | .bank .. => none

/-- The host lines of an access. -/
def hostLinesOf (l : List (Nat × Place)) : List Nat :=
  l.filterMap fun x => match x.2 with
    | .virt _ pa _ => if region pa == some 2 then some (pa / 64) else none
    | .bank .. => none

/-- Perform the lanes of an entry directly, with its release before and its acquire after (R289, R300, R303); the lane that was the
lowest active one sets the watch (R307). -/
def performDirect (s : State) (t : Team) (gr : Grid) (r : GroupRef) (a : Access) (ok : List (Nat × Place)) : State :=
  let sh := widest ok
  let m := laneMask fun l => ok.any fun x => x.1 == l
  let s := if a.ord = 1 ∨ a.ord = 3 then markRelease (releaseAt s t.core sh) r m sh else s
  let s := if a.opc == 0xba then markRelease (releaseAt s t.core shCluster) r m shCluster else s
  let (s, vs) := performLanes s t gr { a with narrow := narrowLanes s r m } ok
  let s := hostDone s (hostLinesOf ok)
  let s := if 2 ≤ a.ord then acquireAt s t.core sh else s
  let s := match ok.find? fun x => lowLane a.all == some x.1 with
    | some (_, .virt _ pa share) =>
      if (a.opc == 0x80 || a.opc == 0x84) && 2 ≤ a.ord && a.width = 8 && share != shTeam then
        setWatch s r share (homeSlice share pa) (pa / 8 * 8) else s
    | _ => s
  finishLanes s r a (laneMask fun l => ok.any fun x => x.1 == l) fun l =>
    match vs.find? fun x => x.1 == l with | some x => x.2 | none => 0

/-- Lanes of a buffered store or reduction as bytes by address (R318): a scaled addition covers the 8 B it updates (R327). -/
def bufferBytes (gr : Grid) (a : Access) (l : List (Nat × Place)) : List (Nat × List Byte) :=
  l.map fun x => ((Lanes.at a.addr x.1 0).toNat, toBytes (accBytes gr a) ((Lanes.at a.data x.1 0).toNat % 2 ^ (8 * a.width)))

/-- Arm an MWAIT, or end it at once (R307, R308). -/
def mwaitStart (s : State) (t : Team) (r : GroupRef) (a : Access) (pa share : Nat) : State :=
  let word := pa / 8 * 8
  let w : Option Watch := (groupAt s r).bind fun g => g.watch
  let same : Bool := w.any fun x => x.word == word && x.share == share
  let s := updGroup s r fun g => { g with watch := none }
  let free : State := { s with monitors := s.monitors.filter fun m => !(watchEntry r m) }
  let wait (s : State) : State := setEntry s r a.tok fun y => { y with stage := 1 }
  if same && w.any fun x => x.hit then
    acquireAt (updGroup (wokenAt free r share word) r fun g => endWait g a.tok 0) t.core shPackage
  else if w.any fun x => x.interrupted then updGroup free r fun g => endWait g a.tok (spuriousStatus (a.wait.left == some 0))
  else if same then
    wait { s with monitors := s.monitors.map fun m => if watchEntry r m then { m with armed := true } else m }
  else
    let s := displace free (homeSlice share pa)
    wait { s with monitors := s.monitors ++ [⟨homeSlice share pa, word, share, r, true, false, false⟩] }

/-- An MWAIT that a handler interrupted may have ended meanwhile (R209). -/
def mwaitTry (s : State) (t : Team) (r : GroupRef) (a : Access) (pa share : Nat) : State :=
  if a.stage = 3 then acquireAt (updGroup (wokenAt s r share (pa / 8 * 8)) r fun g => endWait g a.tok 0) t.core shPackage
  else if a.stage = 4 then updGroup s r fun g => endWait g a.tok (spuriousStatus (a.wait.left == some 0))
  else mwaitStart s t r a pa share

/-- RACQ (R306): a home record without narrow releases promotes nothing, a lost one asks every core; then an acquire at PACKAGE
scope. -/
def racqEffect (s : State) (core pa : Nat) : State :=
  let s := match s.records.find? fun r => r.pline == pa / 128 with
    | some r => if r.narrow then promote s (some r.core) else s
    | none => promote s none
  acquireAt s core shPackage

/-- The effect of FENCE and RACQ at the scope of the named page (R305, R306). -/
def fenceEffect (s : State) (r : GroupRef) (core : Nat) (a : Access) (pa share : Nat) : State :=
  if a.opc == 0x8b then racqEffect s core pa
  else
    let s := if a.sub = 1 then s else markRelease (releaseAt s core share) r a.all share
    if a.sub = 0 then s else acquireAt s core share

/-! Descriptors of fabric messages (R402). -/

/-- A field of a fabric descriptor (R402). -/
def xdPkg (d : List Byte) : Nat := dNat d 0 2
@[inherit_doc xdPkg] def xdPart (d : List Byte) : Nat := bitsOf (dNat d 0 4) 19 16
@[inherit_doc xdPkg] def xdFlow (d : List Byte) : Nat := bitsOf (dNat d 0 4) 23 20
@[inherit_doc xdPkg] def xdType (d : List Byte) : Nat := bitsOf (dNat d 4 4) 4 0
@[inherit_doc xdPkg] def xdAccum (d : List Byte) : Bool := abit (dNat d 4 4) 5 == 1
@[inherit_doc xdPkg] def xdDsr (d : List Byte) : Nat := bitsOf (dNat d 4 4) 9 6
@[inherit_doc xdPkg] def xdQueue (d : List Byte) : Nat := bitsOf (dNat d 4 4) 15 10
@[inherit_doc xdPkg] def xdLocal (d : List Byte) : Nat := dNat d 8 8
@[inherit_doc xdPkg] def xdRemote (d : List Byte) : Nat := dNat d 0x10 8
@[inherit_doc xdPkg] def xdLen (d : List Byte) : Nat := dNat d 0x18 4
@[inherit_doc xdPkg] def xdArrive (d : List Byte) : Nat := dNat d 0x1c 4
@[inherit_doc xdPkg] def xdSignal (d : List Byte) : Nat := dNat d 0x20 8
@[inherit_doc xdPkg] def xdColl (d : List Byte) : Nat := dNat d 0x28 2
@[inherit_doc xdPkg] def xdRank (d : List Byte) : Nat := bitsOf (dNat d 0x2c 4) 11 0
/-- Rank count minus 1. -/
def xdNrank (d : List Byte) : Nat := bitsOf (dNat d 0x2c 4) 23 12

/-- The class of a fabric instruction (R401). -/
def fabClass (opc : Nat) : MsgClass :=
  if opc = 0xf9 then .put else if opc = 0xfa then .get else if opc = 0xfb then .work else if opc = 0xfc then .red else .sred
def isFabric (opc : Nat) : Bool := decide (0xf9 ≤ opc) && decide (opc ≤ 0xfd)

/-- Bytes of an element of an XFRED type. -/
def redSize (ty : Nat) : Nat :=
  match Ty.ofCode ty with
  | some .i64 | some .f64 => 8
  | _ => 4

/-- The total T of a message (R403). -/
def fabTotal (k : MsgClass) (d : List Byte) : Nat :=
  match k with
  | .put | .get => xdLen d
  | .work => 64
  | .red => xdLen d * redSize (xdType d)
  | _ => 16 * xdLen d

/-- The descriptor that an entry captured. -/
def entryDesc (a : Access) : List Byte := (List.range 4).flatMap fun k => toBytes 16 (Lanes.at a.data k 0).toNat

/-! Withdrawing (R315). -/

/-- A fabric message that is not sent: its bytes are added with ARW.CANC (R315). -/
def unsent (s : State) (r : GroupRef) (a : Access) : State :=
  match gridAt s r.team.grid with
  | some gr =>
    if isFabric a.opc then arwAddAt s gr r.team.lin (xdArrive (entryDesc a)) (fabTotal (fabClass a.opc) (entryDesc a)) true else s
  | none => s

/-- Complete every lane with zero, or drop what is stored: the team is marked aborted (R315). -/
def withdraw (s : State) (r : GroupRef) (a : Access) (m : BitVec 32) : State := finishLanes (unsent s r a) r a m fun _ => 0

/-- Only a write issued in this step can be one of a post-commit thread (R314). -/
def postNow (s : State) (g : Group) (a : Access) : Group :=
  if a.born == stamp s then g else { g with threads := g.threads.map fun (t : Thread) => { t with post := false } }

/-- A release at SYSTEM scope performs once the host copies of what it orders are snooped (R288, R394): until then only the writes it
orders go home. -/
def releaseWaits (s : State) (core share : Nat) : Option Perf :=
  if share != shSystem then none
  else
    let u := releaseAt s core share
    if u.host.posted.isEmpty && !(u.host.snooping.any fun x => x.2) then none
    else if u.host == s.host then some .blocked else some (.done u)
@[inherit_doc releaseWaits] def releasing (s : State) (core share : Nat) (f : State → State) : Perf :=
  (releaseWaits s core share).getD (.done (f s))

/-- Places in host lines whose ItoMWr, of the bytes that `u` tells, has its GO. -/
def grantedOf (s : State) (u : Nat → HostUse) (l : List (Nat × Place)) : List (Nat × Place) :=
  l.filter fun x => match x.2 with
    | .virt _ pa _ => region pa == some 2 && (hostLine s pa).any fun h => h.req == some 9 && u pa == .whole h.data
    | .bank .. => false

/-- An access that lacks host lines: what has its GO is performed (R435), else the lines are asked for; nothing while all of them
are. -/
def askHost (s : State) (t : Team) (gr : Grid) (r : GroupRef) (a : Access) (l : List (Nat × Place))
    (lacks : List (Nat × Nat × HostUse)) : Perf :=
  let now := if isStoreOp a.opc then grantedOf s (hostUse a l) l else []
  if !now.isEmpty then .done (performDirect s t gr r a now)
  else if lacks.all fun x => hostAsked s x.2.1 then .blocked
  else .done (lacks.foldl (fun s x => hostAsk s x.1 x.2.1 x.2.2) s)

/-- Try entry `k` of a group's queue; `turn` at its team's turn (R317). -/
def tryAccess (s : State) (r : GroupRef) (k : Nat) (turn : Bool) : Perf :=
  match teamAt s r.team, groupAt s r, gridAt s r.team.grid with
  | some t, some g, some gr =>
    match g.queue[k]? with
    | none => .blocked
    | some a =>
      if !isMemOp a.opc || a.fault.isSome || a.stage == 1 || (a.stage == 2 && !turn) then .blocked
      else
        let ps := (lanesOf (if isWaitOp a.opc then oneLane a.lanes else a.lanes)).map fun l => (l, lanePlace s t gr (postNow s g a) a l)
        let bad : List (Nat × Nat × Nat) := ps.filterMap fun x => match x.2 with | .inr e => some (x.1, e.1, e.2) | .inl _ => none
        let ok : List (Nat × Place) := ps.filterMap fun x => match x.2 with | .inl p => some (x.1, p) | .inr _ => none
        let rel := releases a
        let stalls : Bool := ok.any fun x => match x.2 with
          | .virt va _ _ => (!isFenceOp a.opc && (slogOf s t.core).any fun e => slogTouches e va (accBytes gr a))
              || ((isReadOp a.opc || isAtomOp a.opc) && shareHolds t va (accBytes gr a))
          | .bank .. => false
        let logged : Bool := (isReadOp a.opc || isAtomOp a.opc) && bad.any fun x => x.2.1 == tcPfload
          && (slogOf s t.core).any fun e => slogTouches e (Lanes.at a.addr x.1 0).toNat (accBytes gr a)
        let buf := ticketBuffers gr t && !turn
        let lax : Bool := buf && !isReadOp a.opc && ok.all fun x => treatOf a x.2 != .direct
        let ahead := looksAhead s gr g k a
        if !(ahead || inOrder gr g k a lax) || (rel && slogHolds s r t.core) || logged || (stalls && !lax && !ahead) then .blocked
        else if isFenceOp a.opc || a.opc == 0x8c then
          match bad, ok with
          | [], (_, .virt _ pa share) :: _ =>
            if a.opc == 0x8c then .done (mwaitTry s t r a pa share)
            else if readsOnly a then .done (dropEntry (fenceEffect s r t.core a pa share) r a.tok)
            else releasing s t.core share fun s => dropEntry (fenceEffect s r t.core a pa share) r a.tok
          | [], _ => .done (dropEntry s r a.tok)
          | bad, _ => .done (faultEntry s r a bad)
        else if a.opc == 0xbb then
          match bad, ok with
          | [], (l, .bank q b off) :: _ =>
            let w := bankGet s q b off 8
            if arwPassed w (Lanes.at a.data l 0).toNat then
              .done (acquireAt (updGroup s r fun g => endWait g a.tok (if abit w 63 = 1 then 3 else 0)) t.core shCluster)
            else .done (setEntry s r a.tok fun x => { x with stage := 1 })
          | bad, _ => .done (faultEntry s r a bad)
        else
          let treat := ok.map fun x => (x, if buf then treatOf a x.2 else .direct)
          let mask (l : List (Nat × Place)) : BitVec 32 := laneMask fun i => l.any fun x => x.1 == i
          let drop := if ok.any fun x => treatOf a x.2 == .waiting then ok else ok.filter fun x => treatOf a x.2 != .direct
          let goes := (treat.filter fun x => x.2 == .direct).map (·.1)
          let owes := if (a.ord = 1 ∨ a.ord = 3) ∧ !(treat.any fun x => x.2 == .waiting) then releaseWaits s t.core (widest goes) else none
          if t.tk.abortMark && lrDet gr.lr && !drop.isEmpty then .done (withdraw s r a (mask drop))
          else if owes.isSome then owes.getD .blocked
          else if !bad.isEmpty && !lrDet gr.lr && !(hostLacks s a ok).isEmpty then askHost s t gr r a ok (hostLacks s a ok)
          else if !bad.isEmpty then
            let only := isStoreOp a.opc && !lrDet gr.lr && bad.all fun x => x.2.1 == tcPfload
            match only, clusterOfCore s t.core with
            | true, some c =>
              if (g.queue.take k).any fun b => isStoreOp b.opc && !isWindowOp b.opc then .blocked
              else if c.slog.length < 256 then
                let m := laneMask fun l => bad.any fun x => x.1 == l
                let s := slogInsert s t gr r c a m
                if ok.isEmpty then .done (finishLanes s r a m fun _ => 0)
                else
                  let s := setEntry s r a.tok fun x => { x with lanes := a.lanes &&& ~~~m }
                  .done (performDirect s t gr r { a with lanes := a.lanes &&& ~~~m } ok)
              else .done (faultEntry s r a bad)
            | _, _ =>
              if lrDet gr.lr || ok.isEmpty then .done (faultEntry s r a bad)
              else .done (faultEntry (performDirect s t gr r a ok) r a bad)
          else if treat.any fun x => x.2 == .waiting then .done (setEntry s r a.tok fun x => { x with stage := 2 })
          else if !buf && !drop.isEmpty && followsOwed s t gr g a then .blocked
          else
            let bufd := (treat.filter fun x => x.2 == .buffered).map (·.1)
            let dir := goes
            let lacks := hostLacks s a dir
            if !lacks.isEmpty then askHost s t gr r a dir lacks
            else
              if bufd.isEmpty then .done (performDirect s t gr r a ok)
              else
                let kind : EntryKind := if a.opc == 0x86 then .reduce a.sub a.width (abit a.mod 3 == 1) else .store
                let rels := if a.ord = 1 ∨ a.ord = 3 then [(r.grp, mask bufd)] else []
                match addEntries s t gr ((formEntries kind a.born (bufferBytes gr a bufd)).map fun e => { e with rels := rels }) with
                | none => .full
                | some s =>
                  if dir.isEmpty then .done (finishLanes s r a (mask bufd) fun _ => 0)
                  else
                    let s := setEntry s r a.tok fun x => { x with lanes := mask dir }
                    .done (performDirect s t gr r { a with lanes := mask dir } dir)
  | _, _, _ => .blocked

/-- The state after trying an entry. -/
def runAccess (s : State) (r : GroupRef) (k : Nat) (turn : Bool) : State :=
  match tryAccess s r k turn with
  | .done s => s
  | .full => match teamAt s r.team with | some t => countRoom s t.core 1 | none => s
  | .blocked => s

end Sys2Proof.Machine
end

