-- ==== Sys2Proof/Machine/TicketOps.lean ====
section
/-! DEFINITION. Abort marks (R315), retirement of tickets (R313), the completion of TKWAIT (R330) and a group's own queue
pushes. -/

namespace Sys2Proof.Machine

/-- Withdraw the waiting operations that trapped groups hold (R315): stage 6 keeps them from their replay. -/
def withdrawHeld (g : Group) : Group :=
  let g := ((g.saved.flatMap fun v => v.held).filter fun a => a.stage == 2).foldl (fun g a =>
    finishDst (deliver g a a.lanes fun _ => 0) a) g
  { g with saved := g.saved.map fun (v : SavedTrap) =>
      { v with held := v.held.map fun (a : Access) => if a.stage == 2 then { a with stage := 6 } else a } }

/-- Withdraw the waiting operations of a team's groups (R315): their destinations are completed with zero. -/
def withdrawQueue (s : State) (t : Team) : State :=
  (t.groups.zipIdx).foldl (fun s x =>
    let r : GroupRef := ⟨t.ref, x.2⟩
    let s := (x.1.queue.filter fun a => a.stage == 2).foldl (fun s a => withdraw s r a a.lanes) s
    let s := ((x.1.saved.flatMap fun v => v.held).filter fun a => a.stage == 2).foldl (fun s a => unsent s r a) s
    updGroup s r withdrawHeld) s

/-- Mark a team aborted (R315): its entries are discarded and its waiting operations withdrawn; a mark after the commit has no
effect. -/
def markAborted (s : State) (r : TeamRef) : State :=
  match teamAt s r, gridAt s r.grid with
  | some t, some gr =>
    if !lrDet gr.lr || t.tk.retired != .none || t.tk.abortMark then s
    else
      let s := updTeam s r fun t => { t with tk := { t.tk with abortMark := true, share := [] } }
      let s := withdrawQueue s t
      { s with clusters := s.clusters.map fun c =>
          { c with copies := c.copies.map fun (o : CopyOp) => if o.team == r && o.waiting && !o.started then { o with cancelled := true } else o } }
  | _, _ => s

/-- Engine writes of the team to memory are pending (R313). -/
def drainsPending (t : Team) : Bool := t.eops.any fun o => o.kind == .drain || o.kind == .drainAdd

/-- A direct operation of the team that writes beyond it is not performed (R313): a store, atomic, LNCH, request or message in a queue. -/
def directPending (t : Team) : Bool :=
  let wide (a : Access) : Bool := (isStoreOp a.opc && !isWindowOp a.opc) || a.opc == 0x85 || a.opc == 0x88 || a.opc == 0xeb
    || isRequest a.opc || isFabric a.opc
  t.groups.any fun g => (g.queue ++ g.saved.flatMap fun v => v.held).any fun a => wide a && a.stage != 6

/-- What the team's ticket retires as now, if it can (R313): every engine write of the team, its copies among them, is complete. -/
def retiresAs (s : State) (gr : Grid) (t : Team) : Option Ticket :=
  if ticketState gr t != .draining then none
  else if t.tk.abortMark then some .aborted
  else if t.tk.share.isEmpty && (waitingBorn s t).isEmpty && !drainsPending t && !directPending t
      && !(s.clusters.any fun c => c.copies.any fun o => o.team == t.ref && o.run.isNone) then some .committed
  else none

/-- Retire the ticket of one team if it can: what the team wrote directly is acknowledged at its scopes first (R313, R335). -/
def retireTeam (s : State) (grid lin : Nat) : State :=
  match gridAt s grid, teamAt s ⟨grid, lin⟩ with
  | some gr, some t =>
    match retiresAs s gr t with
    | some k =>
      let s := updTeam s t.ref fun t => { t with tk := { t.tk with retired := k } }
      let s := releaseAt s t.core shSystem
      updGrid s grid fun gr =>
        { gr with retired := lin :: gr.retired, aborted := if k == .aborted then lin :: gr.aborted else gr.aborted }
    | none => s
  | _, _ => s

/-- TKWAIT may complete (R330). -/
def tkwaitReady (s : State) (gr : Grid) (t : Team) (a : Access) : Bool :=
  !lrDet gr.lr || t.tk.retired != .none
    || (isHead gr t.ref.lin && t.tk.share.isEmpty && (waitingBorn s t).all fun b => decide (a.born ≤ b))

/-- Complete the TKWAITs of a team that can complete (R330, R326). -/
def tkwaitTeam (s : State) (r : TeamRef) : State :=
  match teamAt s r, gridAt s r.grid with
  | some t, some gr =>
    (t.groups.zipIdx).foldl (fun s x =>
      match x.1.queue.find? fun a => a.opc == 0xe9 with
      | some a =>
        if tkwaitReady s gr t a then
          acquireAt (updGroup s ⟨r, x.2⟩ fun g => { (endWait g a.tok 0) with outRel := true }) t.core shPackage
        else s
      | none => s) s
  | _, _ => s

/-- Teams of a grid that close stay closed (R313, R314). -/
def closeTeams (s : State) (grid : Nat) : State :=
  { s with teams := s.teams.map fun t => if t.ref.grid == grid then { t with tk := { t.tk with closed := teamClosed t } } else t }

/-- Teams close, tickets retire in order, and waits for them complete (R313, R330). -/
def settleTickets (s : State) (grid : Nat) : State :=
  match gridAt s grid with
  | some gr =>
    if lrDet gr.lr then
      let s := closeTeams s grid
      let s := (List.range gr.teams).foldl (fun s l => retireTeam s grid l) s
      s.teams.foldl (fun s t => if t.ref.grid == grid then tkwaitTeam s t.ref else s) s
    else s
  | none => s

/-! Pushing an instruction into its group's queue. -/

/-- The access an instruction issues: its captured operands (R162). -/
def accessOf (c : Ctx) (m : BitVec 32) (dst : Dst) (mod : Nat) (addr : Nat → Nat) (data : Nat → Nat) : Access :=
  { opc := c.i.opc, sub := c.i.sub, mod := mod, lanes := m, dst := BitVec.ofNat 13 dst.toBits
    addr := Lanes.mk fun l => if m.getLsbD l then BitVec.ofNat 64 (addr l) else 0
    data := Lanes.mk fun l => if m.getLsbD l then BitVec.ofNat 128 (data l) else 0
    all := m, pc := c.pc, slot2 := c.slot2, tok := c.g.tok, fault := none, stage := 0, wait := ⟨none, c.s.clk⟩
    born := stamp c.s, wasDead := dst.index.toNat < c.g.regs.length && (regAt c.g dst.index.toNat).st == .dead
    owed := 0, thr := Lanes.mk fun l => tidOf c.g l, ser := c.g.ser.opened
    narrow := false }

/-- The destination of an access whose register lies in a loop-queue run is the tail it took (R213). -/
def tailDst (g : Group) (a : Access) : Access :=
  let d := accDst a
  match runOf g d.index.toNat with
  | some (_, q) =>
    if d.nf || accRegs a = 0 then a
    else
      let t := q.base + (q.head + q.occ + q.len - accRegs a) % q.len
      { a with dst := BitVec.ofNat 13 ({ d with index := BitVec.ofNat 8 t } : Dst).toBits }
  | none => a

/-- Enter an access into its group's queue. -/
def pushAccess (r : GroupRef) (a : Access) (s : State) : State :=
  updGroup s r fun g => { g with queue := g.queue ++ [tailDst g a], tok := max g.tok (a.tok + 1) }

/-- Try the entry with a token. -/
def runTok (s : State) (r : GroupRef) (tok : Nat) : State :=
  match groupAt s r with
  | some g => match g.queue.findIdx? fun a => a.tok == tok with
    | some k => runAccess s r k false
    | none => s
  | none => s

/-- R161: at most 16 entries. -/
def queueFull (g : Group) : Bool := decide (16 ≤ g.queue.length)

/-- Issue a memory access; in a deterministic launch a write is translated and enters the share, or waits, at its issue (R317,
R318, R323). `now`: it is tried at once. -/
def memAct (c : Ctx) (a : Access) (dest now : Bool) : Act :=
  let vec : Option (Nat → LaneVal) := if dest then some fun _ => 0 else none
  if a.lanes = 0 then .go { vec := vec }
  else if queueFull c.g then .stall
  else if lrDet c.gr.lr && !isReadOp a.opc && !isFenceOp a.opc && !isWindowOp a.opc then
    match tryAccess (pushAccess c.r a c.s) c.r c.g.queue.length false with
    | .full => .hold (countStall c)
    | .blocked => .stall
    | .done _ => .go { vec := vec, lazy := true, post := fun s => runTok (pushAccess c.r a s) c.r a.tok }
  else .go { vec := vec, lazy := true, post := fun s => if now then runTok (pushAccess c.r a s) c.r a.tok else pushAccess c.r a s }

/-- Issue a group wait (R209): with no active lane it waits for nothing, and changes what R56 has every instruction change, the states
of its registers, as a switch point (log entry 129). -/
def waitAct (c : Ctx) (a : Access) (post : State → State) : Act :=
  if c.act = 0 then .go { vec := some fun _ => 0 }
  else if queueFull c.g then .stall
  else .go { vec := some fun _ => 0, lazy := true, post := fun s => post (pushAccess c.r a s) }

end Sys2Proof.Machine
end

