-- ==== Sys2Proof/Machine/QueueOps.lean ====
section
/-! DEFINITION. Hardware queues (R210 to R212), waiting accumulator requests (R217), and waits that a TRAPRET resumes (R221). -/

namespace Sys2Proof.Machine

/-- Lanes of an access as they end when a value arrives for a waiting instruction. -/
def entryValue (a : Access) : Nat := (Lanes.at a.data ((lowLane a.lanes).getD 0) 0).toNat

/-- The hardware queue `n` of a core's cluster. -/
def hqAt (s : State) (core n : Nat) : Option (ClusterRef × HwQueue) :=
  match clusterOfCore s core with
  | some c => (c.hqs.find? fun q => q.num == n).map fun q => (c.ref, q)
  | none => none

def updHq (s : State) (c : ClusterRef) (n : Nat) (f : HwQueue → HwQueue) : State :=
  updCluster s c fun x => { x with hqs := x.hqs.map fun q => if q.num == n then f q else q }

/-- Mark a wait that a trapped group holds as ended with a value. -/
def holdValue (g : Group) (tok v : Nat) : Group :=
  { g with saved := g.saved.map fun (t : SavedTrap) =>
      { t with held := t.held.map fun (a : Access) =>
          if a.tok == tok then { a with stage := 3, data := Lanes.all (BitVec.ofNat 128 v) } else a } }

/-- Whether an entry of a group's queue has a token. -/
def inQueue (s : State) (r : GroupRef) (tok : Nat) : Bool :=
  match groupAt s r with
  | some g => g.queue.any fun a => a.tok == tok
  | none => false

/-- An acquire at CLUSTER scope by the core of a team. -/
def acquireTeam (s : State) (t : TeamRef) : State :=
  match teamAt s t with
  | some x => acquireAt s x.core shCluster
  | none => s

/-- A wait ends with a value in every lane, now or when its trapped group resumes it. -/
def giveValue (s : State) (r : GroupRef) (tok v : Nat) : State :=
  if inQueue s r tok then updGroup s r fun g => endWait g tok v else updGroup s r fun g => holdValue g tok v

/-- Append an entry: the first waiter takes it (R212). -/
def hqAppend (s : State) (c : ClusterRef) (n : Nat) (v : Word) : State :=
  match (clusterAt s c).bind fun x => x.hqs.find? fun q => q.num == n with
  | some q =>
    match q.waiters with
    | (t, g, tok) :: rest =>
      acquireTeam (giveValue (updHq s c n fun q => { q with waiters := rest }) ⟨t, g⟩ tok v.toNat) t
    | [] => updHq s c n fun q => { q with entries := q.entries ++ [v] }
  | none => s

/-- The waiting pushes to a queue, in the order of their issue (log entry 15). -/
def hqPushers (s : State) (c : ClusterRef) (n : Nat) : List (GroupRef × Access) :=
  let all : List (GroupRef × Access) := s.teams.flatMap fun t =>
    if ((clusterOfCore s t.core).map (·.ref)) == some c then
      (t.groups.zipIdx).flatMap fun x =>
        (x.1.queue.filter fun a => a.opc == 0xbd && a.mod % 16 == n && a.fault.isNone).map fun a => (⟨t.ref, x.2⟩, a)
    else []
  all.foldl (fun l x => (l.filter fun y => decide (y.2.born ≤ x.2.born)) ++ [x]
    ++ l.filter fun y => decide (x.2.born < y.2.born)) []

/-- Waiting pushes go on while there is allowance (R211): one that finds the queue full meets QUEUEERR (R212). -/
def hqRelease (s : State) (c : ClusterRef) (n : Nat) : State :=
  (hqPushers s c n).foldl (fun s x =>
    match (clusterAt s c).bind fun k => k.hqs.find? fun q => q.num == n with
    | some q =>
      if q.allow = 0 then s
      else if q.waiters.isEmpty && decide (q.cap ≤ q.entries.length) then
        updGroup s x.1 fun g => { g with queue := g.queue.map fun (a : Access) =>
          if a.tok == x.2.tok then { a with fault := some ⟨tcQueueerr, 0, 8, a.lanes, 0⟩ } else a }
      else
        let s := updHq s c n fun q => { q with allow := q.allow - 1 }
        hqAppend (updGroup s x.1 fun g => endWait g x.2.tok 0) c n (BitVec.ofNat 32 (entryValue x.2))
    | none => s) s

/-! Accumulator banks (R217). -/

/-- Accumulator banks of a core that no team holds. -/
def freeBanks (s : State) (core : Nat) : Nat :=
  16 - s.teams.foldl (fun n t => if t.core == core then n + t.accN else n) 0

/-- Grant `n` more banks to a team: they hold zero. -/
def grantBanks (s : State) (t : TeamRef) (n : Nat) : State :=
  updTeam s t fun t =>
    { t with accN := t.accN + n, acc := t.acc.filter fun x => !(decide (4096 * t.accN ≤ x.1) && decide (x.1 < 4096 * (t.accN + n))) }

/-- The waiting requests of a core, in the order they were made. -/
def accWaiting (s : State) (core : Nat) : List (GroupRef × Access) :=
  let all : List (GroupRef × Access) := s.teams.flatMap fun t =>
    if t.core == core then
      (t.groups.zipIdx).flatMap fun x =>
        ((x.1.queue ++ x.1.saved.flatMap fun v => v.held).filter fun a => a.opc == 0xc2 && a.stage == 0).map
          fun a => (⟨t.ref, x.2⟩, a)
    else []
  all.foldl (fun l x => (l.filter fun y => decide (y.2.born ≤ x.2.born)) ++ [x]
    ++ l.filter fun y => decide (x.2.born < y.2.born)) []

/-- One waiting request gets its banks. -/
def accGrantOne (s : State) (x : GroupRef × Access) : State :=
  match teamAt s x.1.team with
  | some t =>
    let v := 4 * t.accN
    let now := inQueue s x.1 x.2.tok
    let s := giveValue (grantBanks s x.1.team (entryValue x.2)) x.1 x.2.tok v
    if now then writeUni s x.1.team (x.2.dst.toNat % 64) (BitVec.ofNat 64 v) else s
  | none => s

/-- Grant waiting requests in order while banks are free. -/
def accGrant (s : State) (core : Nat) : State :=
  ((accWaiting s core).foldl (fun (r : State × Bool) x =>
    if r.2 && decide (entryValue x.2 ≤ freeBanks r.1 core) then (accGrantOne r.1 x, true) else (r.1, false)) (s, true)).1

/-! The end of threads. -/

/-- Threads of a mask end (R144): they are absent at every later barrier, join and region. A thread that ends in its handler
marks its team aborted in a deterministic launch; that is the caller's part. Requests for accumulator banks behind one
that goes with its group are granted (R217). -/
def endThreads (s : State) (r : GroupRef) (m : BitVec 32) : State :=
  let s := updGroup s r fun g =>
    let g := updThreads g m fun _ t => { t with present := false, mark := .none, park := none, rel := false }
    let g := { g with barts := g.barts.filter fun x => !(m.getLsbD x.lane), sel := true }
    let g := if presentMask g = 0 && g.status == .handler then { g with status := .ready, saved := [] } else g
    refreshGroup (joinCheck (serialCheck g))
  let s := if (groupAt s r).any fun g => presentMask g == 0 then hqForget s r fun _ => true else s
  let s := fireBars s r.team barKeys
  match teamAt s r.team with
  | some t => accGrant s t.core
  | none => s

/-! Resuming waits. -/

/-- A wait that TRAPRET has put back into its queue: it ends if what it waits for came meanwhile (R209, R221). -/
def resumeWait (s : State) (r : GroupRef) (a : Access) : State :=
  if a.opc == 0xbd then
    match teamAt s r.team with
    | some t => match hqAt s t.core (a.mod % 16) with
      | some (c, _) => hqRelease s c (a.mod % 16)
      | none => s
    | none => s
  else if a.opc == 0xbe || a.opc == 0xc2 then
    if a.stage = 3 then
      let s := updGroup s r fun g => endWait g a.tok (entryValue a)
      if a.opc == 0xbe then acquireTeam s r.team
      else writeUni s r.team (a.dst.toNat % 64) (BitVec.ofNat 64 (entryValue a))
    else s
  else if a.opc == 0xe9 then tkwaitTeam s r.team
  else if isWaitOp a.opc && a.stage != 1 then runTok s r a.tok
  else s

/-! Time limits. -/

/-- A timed group wait ends with TIMEOUT (R209); an MWAIT's watch goes with it (R307). -/
def endTimed (s : State) (r : GroupRef) (a : Access) : State :=
  let s := if a.opc == 0x8c then
      updGroup { s with monitors := s.monitors.filter fun m => m.grp != r } r fun g => { g with watch := none }
    else s
  updGroup s r fun g => endWait g a.tok 1

/-- A wait whose time is over ends, unless its condition holds (R209); a timeout of 0 is over at the issue. -/
def endAtOnce (s : State) (r : GroupRef) (tok : Nat) : State :=
  match groupAt s r with
  | some g => match g.queue.find? fun a => a.tok == tok && a.fault.isNone && expired s a with
    | some a => endTimed s r a
    | none => s
  | none => s

end Sys2Proof.Machine
end

