-- ==== Sys2Proof/Machine/MemInstr.lean ====
section
/-! DEFINITION. Memory instructions, opcodes 0x80 to 0x8c (R149 to R165, R305 to R308), and what an event is. -/

namespace Sys2Proof.Machine

/-- The signed offset of an M-format instruction (R150). -/
def offOf (f : MF) : Int := signed 32 f.off.toNat

/-- The address of a lane (R150): modulo 2^64, or 2^32 for window addresses. -/
def addrOf (c : Ctx) (f : MF) (w l : Nat) : Nat :=
  let m := memMod f.mod
  let idx : Int := if m.idx then signed 32 (c.bv l) * ((2 ^ m.scale : Nat) : Int) else 0
  wrap w ((c.av l : Int) + idx + offOf f)

/-- A load of every active lane. -/
def loadAct (c : Ctx) (f : MF) (w : Nat) : Act :=
  memAct c (accessOf c c.act f.dst f.mod.toNat (addrOf c f w) fun _ => 0) true false

/-- A store, reduction or atomic of every active lane. -/
def storeAct (c : Ctx) (f : MF) (w : Nat) (dest : Bool) : Act :=
  memAct c (accessOf c c.act f.dst f.mod.toNat (addrOf c f w) c.bv) dest false

/-- LD (R153). -/
def execLd (f : MF) (s : State) : Out := issue (.ld f) s fun c => loadAct c f 64
/-- ST (R153). -/
def execSt (f : MF) (s : State) : Out := issue (.st f) s fun c => storeAct c f 64 false
/-- LDS (R153). -/
def execLds (f : MF) (s : State) : Out := issue (.lds f) s fun c => loadAct c f 32
/-- STS (R153). -/
def execSts (f : MF) (s : State) : Out := issue (.sts f) s fun c => storeAct c f 32 false
/-- LDU (R154): once, for the lowest active lane; reads of its register wait meanwhile. -/
def execLdu (f : MF) (s : State) : Out :=
  issue (.ldu f) s fun c =>
    memAct c (accessOf c (oneLane c.act) f.dst f.mod.toNat (addrOf c f 64) fun _ => 0) false false
/-- ATOM (R155). -/
def execAtom (k : AtomOp) (f : MF) (s : State) : Out := issue (.atom k f) s fun c => storeAct c f 64 true
/-- RED (R155). -/
def execRed (k : AtomOp) (f : MF) (s : State) : Out := issue (.red k f) s fun c => storeAct c f 64 false
/-- ATOMS (R155). -/
def execAtoms (k : AtomOp) (f : MF) (s : State) : Out := issue (.atoms k f) s fun c => storeAct c f 32 true
/-- CAS (R157). -/
def execCas (f : MF) (s : State) : Out := issue (.cas f) s fun c => storeAct c f 64 true
/-- PREF (R158): no architectural state changes. -/
def execPref (k : PrefLevel) (f : MF) (s : State) : Out := issue (.pref k f) s fun _ => .go {}
/-- A fence names the page of its lowest lane and orders the accesses of every active thread (R305). -/
def fenceAccess (c : Ctx) (f : MF) : Access :=
  { accessOf c (oneLane c.act) f.dst f.mod.toNat (addrOf c f 64) fun _ => 0 with all := c.act }
/-- FENCE (R305): the group issues nothing more until its effect is complete. -/
def execFence (k : FenceKind) (f : MF) (s : State) : Out :=
  issue (.fence k f) s fun c => memAct c (fenceAccess c f) false true
/-- RACQ (R306). -/
def execRacq (f : MF) (s : State) : Out :=
  issue (.racq f) s fun c => memAct c (fenceAccess c f) false true
/-- MWAIT (R307, R308). -/
def execMwait (k : Timed) (f : MF) (s : State) : Out :=
  issue (.mwait k f) s fun c =>
    let l := (lowLane c.act).getD 0
    let a := accessOf c c.act f.dst f.mod.toNat (fun _ => addrOf c f 64 l) fun _ => 0
    let a := { a with wait := ⟨if k == .timed then some (c.bv l) else none, c.s.clk⟩ }
    waitAct c a fun s => endAtOnce (runTok s c.r a.tok) c.r a.tok

/-! Events. -/

/-- An event: its effect when it can happen; in recovery nothing but the mailbox and the power supply acts (R410). -/
def event (s : State) (can : Bool) (f : State → State) : Out :=
  if can && !s.boot.recovery then next s (f s) else .next s
/-- An event that recovery admits too. -/
def bootEvent (s : State) (can : Bool) (f : State → State) : Out := if can then next s (f s) else .next s

/-- An entry that returns data to registers. -/
def returnsData (a : Access) : Bool := (isReadOp a.opc && a.opc != 0x8c) || isAtomOp a.opc

/-- The entry an event names. -/
def entryAt (s : State) (r : GroupRef) (k : Nat) : Option Access :=
  match groupAt s r with
  | some g => g.queue[k]?
  | none => none

/-- The group's partition runs: accesses of a halted one stand still (R389). -/
def partRuns (s : State) (t : TeamRef) : Bool :=
  match teamAt s t with
  | some x => (partOf s x.part).life != .halted && !(coreHeld s x)
  | none => false

end Sys2Proof.Machine
end

