-- ==== Sys2Proof/Machine/SpecialFn.lean ====
section
/-! DEFINITION. The special functions of R122 to R127 and the random generator of R131, bit for bit as the spec's algorithms
give them. The tables hold the FP32 values nearest to the real functions R122 names. -/

namespace Sys2Proof.Machine

/-- EXP_T: the FP32 values nearest to 2^(i/64) of R122. -/
def expT : List Nat :=
  [0x3f800000, 0x3f8164d2, 0x3f82cd87, 0x3f843a29, 0x3f85aac3, 0x3f871f62, 0x3f88980f, 0x3f8a14d5]
  ++ [0x3f8b95c2, 0x3f8d1adf, 0x3f8ea43a, 0x3f9031dc, 0x3f91c3d3, 0x3f935a2b, 0x3f94f4f0, 0x3f96942d]
  ++ [0x3f9837f0, 0x3f99e046, 0x3f9b8d3a, 0x3f9d3eda, 0x3f9ef532, 0x3fa0b051, 0x3fa27043, 0x3fa43516]
  ++ [0x3fa5fed7, 0x3fa7cd94, 0x3fa9a15b, 0x3fab7a3a, 0x3fad583f, 0x3faf3b79, 0x3fb123f6, 0x3fb311c4]
  ++ [0x3fb504f3, 0x3fb6fd92, 0x3fb8fbaf, 0x3fbaff5b, 0x3fbd08a4, 0x3fbf179a, 0x3fc12c4d, 0x3fc346cd]
  ++ [0x3fc5672a, 0x3fc78d75, 0x3fc9b9be, 0x3fcbec15, 0x3fce248c, 0x3fd06334, 0x3fd2a81e, 0x3fd4f35b]
  ++ [0x3fd744fd, 0x3fd99d16, 0x3fdbfbb8, 0x3fde60f5, 0x3fe0ccdf, 0x3fe33f89, 0x3fe5b907, 0x3fe8396a]
  ++ [0x3feac0c7, 0x3fed4f30, 0x3fefe4ba, 0x3ff28177, 0x3ff5257d, 0x3ff7d0df, 0x3ffa83b3, 0x3ffd3e0c]

/-- RCP_T: nearest to 1/(1 + i/64) of R122. -/
def rcpT : List Nat :=
  [0x3f800000, 0x3f7c0fc1, 0x3f783e10, 0x3f74898d, 0x3f70f0f1, 0x3f6d7304, 0x3f6a0ea1, 0x3f66c2b4]
  ++ [0x3f638e39, 0x3f607038, 0x3f5d67c9, 0x3f5a740e, 0x3f579436, 0x3f54c77b, 0x3f520d21, 0x3f4f6475]
  ++ [0x3f4ccccd, 0x3f4a4588, 0x3f47ce0c, 0x3f4565c8, 0x3f430c31, 0x3f40c0c1, 0x3f3e82fa, 0x3f3c5264]
  ++ [0x3f3a2e8c, 0x3f381703, 0x3f360b61, 0x3f340b41, 0x3f321643, 0x3f302c0b, 0x3f2e4c41, 0x3f2c7692]
  ++ [0x3f2aaaab, 0x3f28e83f, 0x3f272f05, 0x3f257eb5, 0x3f23d70a, 0x3f2237c3, 0x3f20a0a1, 0x3f1f1166]
  ++ [0x3f1d89d9, 0x3f1c09c1, 0x3f1a90e8, 0x3f191f1a, 0x3f17b426, 0x3f164fda, 0x3f14f209, 0x3f139a86]
  ++ [0x3f124925, 0x3f10fdbc, 0x3f0fb824, 0x3f0e7835, 0x3f0d3dcb, 0x3f0c08c1, 0x3f0ad8f3, 0x3f09ae41]
  ++ [0x3f088889, 0x3f0767ab, 0x3f064b8a, 0x3f053408, 0x3f042108, 0x3f03126f, 0x3f020821, 0x3f010204]

/-- LOG_T: nearest to -log2(RCP_T[i]) of R122. -/
def logT : List Nat :=
  [0x00000000, 0x3cb73cb3, 0x3d35d690, 0x3d8759c9, 0x3db31fb7, 0x3dde420e, 0x3e0462c4, 0x3e195751]
  ++ [0x3e2e00d1, 0x3e42615f, 0x3e567aef, 0x3e6a4f70, 0x3e7de0b5, 0x3e88983f, 0x3e92203d, 0x3e9b8925]
  ++ [0x3ea4d3c2, 0x3eae00d1, 0x3eb71110, 0x3ec0052d, 0x3ec8ddd3, 0x3ed19baf, 0x3eda3f60, 0x3ee2c97e]
  ++ [0x3eeb3a9e, 0x3ef39355, 0x3efbd42a, 0x3f01fed4, 0x3f060828, 0x3f0a0650, 0x3f0df98a, 0x3f11e20e]
  ++ [0x3f15c01a, 0x3f1993e4, 0x3f1d5da0, 0x3f211d84, 0x3f24d3c3, 0x3f28808d, 0x3f2c2410, 0x3f2fbe7f]
  ++ [0x3f335004, 0x3f36d8ca, 0x3f3a58fe, 0x3f3dd0c9, 0x3f41404e, 0x3f44a7bb, 0x3f480731, 0x3f4b5ed6]
  ++ [0x3f4eaecf, 0x3f51f740, 0x3f553847, 0x3f58720a, 0x3f5ba4a5, 0x3f5ed038, 0x3f61f4e5, 0x3f6512c6]
  ++ [0x3f6829fa, 0x3f6b3aa0, 0x3f6e44cf, 0x3f7148a2, 0x3f744636, 0x3f773da2, 0x3f7a2f03, 0x3f7d1a71]

/-- RSQ_T: nearest to the reciprocal square root of R122. -/
def rsqT : List Nat :=
  [0x3f800000, 0x3f7c1764, 0x3f785b42, 0x3f74c867, 0x3f715bef, 0x3f6e133e, 0x3f6aebf5, 0x3f67e3ed]
  ++ [0x3f64f92e, 0x3f6229ed, 0x3f5f7483, 0x3f5cd76e, 0x3f5a514a, 0x3f57e0cf, 0x3f5584cd, 0x3f533c2e]
  ++ [0x3f5105ec, 0x3f4ee116, 0x3f4ccccd, 0x3f4ac83f, 0x3f48d2ab, 0x3f46eb5a, 0x3f4511a3, 0x3f4344e6]
  ++ [0x3f41848f, 0x3f3fd012, 0x3f3e26eb, 0x3f3c889f, 0x3f3af4ba, 0x3f396ace, 0x3f37ea74, 0x3f36734a]
  ++ [0x3f3504f3, 0x3f32416a, 0x3f2f9d53, 0x3f2d166c, 0x3f2aaaab, 0x3f285835, 0x3f261d5f, 0x3f23f8a2]
  ++ [0x3f21e89b, 0x3f1fec04, 0x3f1e01b3, 0x3f1c2896, 0x3f1a5fb2, 0x3f18a61f, 0x3f16fb06, 0x3f155da2]
  ++ [0x3f13cd3a, 0x3f124925, 0x3f10d0c3, 0x3f0f6381, 0x3f0e00d5, 0x3f0ca83f, 0x3f0b5948, 0x3f0a137d]
  ++ [0x3f08d677, 0x3f07a1d2, 0x3f067532, 0x3f05503e, 0x3f0432a5, 0x3f031c1a, 0x3f020c52, 0x3f01030a]

/-- SIN_T: nearest to sin(k·π/32) of R122. -/
def sinT : List Nat :=
  [0x00000000, 0x3dc8bd36, 0x3e47c5c2, 0x3e94a031, 0x3ec3ef15, 0x3ef15aea, 0x3f0e39da, 0x3f226799]
  ++ [0x3f3504f3, 0x3f45e403, 0x3f54db31, 0x3f61c598, 0x3f6c835e, 0x3f74fa0b, 0x3f7b14be, 0x3f7ec46d]
  ++ [0x3f800000, 0x3f7ec46d, 0x3f7b14be, 0x3f74fa0b, 0x3f6c835e, 0x3f61c598, 0x3f54db31, 0x3f45e403]
  ++ [0x3f3504f3, 0x3f226799, 0x3f0e39da, 0x3ef15aea, 0x3ec3ef15, 0x3e94a031, 0x3e47c5c2, 0x3dc8bd36]
  ++ [0x00000000, 0xbdc8bd36, 0xbe47c5c2, 0xbe94a031, 0xbec3ef15, 0xbef15aea, 0xbf0e39da, 0xbf226799]
  ++ [0xbf3504f3, 0xbf45e403, 0xbf54db31, 0xbf61c598, 0xbf6c835e, 0xbf74fa0b, 0xbf7b14be, 0xbf7ec46d]
  ++ [0xbf800000, 0xbf7ec46d, 0xbf7b14be, 0xbf74fa0b, 0xbf6c835e, 0xbf61c598, 0xbf54db31, 0xbf45e403]
  ++ [0xbf3504f3, 0xbf226799, 0xbf0e39da, 0xbef15aea, 0xbec3ef15, 0xbe94a031, 0xbe47c5c2, 0xbdc8bd36]

/-- π to 640 bits after the binary point (R126), rounded down. -/
def piBits : Nat :=
  14333329926761567455775730701799299831126131522901418329710873694248203755857903894978459978948837038337184470360789102305252273090192709030764248428292776480232102476327552185579501988876367276

def tab (t : List Nat) (i : Int) : Nat := t.getD (i % 64).toNat 0

/-- RNE of an exact result into FP32; internal steps keep no flag (R122). -/
def rne32 (x : XR) : Nat := (rnd fmtF32 .rne false x).1
def dy32 (c : Nat) : Dy := (fmtF32.val c).dy

/-- FMA, FMUL and FADD of R122 on finite FP32 codes. -/
def sfFma (a b c : Nat) : Nat := rne32 (xadd .rne (fvMul (fmtF32.val a) (fmtF32.val b)).1 (fmtF32.val c)).1
@[inherit_doc sfFma] def sfMul (a b : Nat) : Nat := rne32 (fvMul (fmtF32.val a) (fmtF32.val b)).1.toXR
@[inherit_doc sfFma] def sfAdd (a b : Nat) : Nat := rne32 (xadd .rne (fmtF32.val a) (fmtF32.val b)).1

def f32One : Nat := 0x3f800000
def f32MinusOne : Nat := 0xbf800000
def neg32 (c : Nat) : Nat := c ^^^ 0x80000000

/-- The coefficients of R122. -/
def cC1 : Nat := 0x3f317218
def cC2 : Nat := 0x3e75fdf0
def cC3 : Nat := 0x3d635847
def cD1 : Nat := 0x3fb8aa3b
def cD2 : Nat := 0xbf38aa3b
def cD3 : Nat := 0x3ef6384f
def cP1 : Nat := 0xbe2aaaab
def cP2 : Nat := 0x3c088889
def cQ1 : Nat := 0xbf000000
def cQ2 : Nat := 0x3d2aaaab
def cG : Nat := 0x4038aa3b

/-- The split of R122: a nonzero finite value is ±2^e × m with m in [1, 2); `m` as an FP32 code. -/
def sfExp (v : Dy) : Int := (bitLen v.m.natAbs : Int) + v.e - 1
@[inherit_doc sfExp] def sfMant (v : Dy) : Nat := rne32 (XR.ofDy ⟨v.m.natAbs, v.e - sfExp v⟩ false)

/-- ⌊(m − 1) × k⌋ for the mantissa of a value (R122). -/
def sfIndex (v : Dy) (k : Nat) : Int := (Dy.mk ((v.m.natAbs : Int) * k) (v.e - sfExp v)).floor - k

/-- EXP2_ALG of R123; the flags are those of the final step. -/
def exp2Alg (x : FV) : Nat × Flags :=
  let big := rnd fmtF32 .rne false (.val false 1 128 false)
  match x with
  | .nan _ => (fmtF32.nanCode, 0)
  | .inf n => if n then (0, 0) else big
  | .zero _ => (f32One, 0)
  | .num v =>
    if Dy.cmp v ⟨128, 0⟩ != .lt then big
    else if Dy.cmp v ⟨-160, 0⟩ == .lt then rnd fmtF32 .rne false (.val false 1 (-200) false)
    else
      let j := (Dy.mk v.m (v.e + 6)).floor
      let n := j / 64
      let f := rne32 (XR.ofDy (v.add ⟨-j, -6⟩) false)
      let p := sfFma f cC3 cC2
      let p := sfFma f p cC1
      let p := sfFma f p f32One
      let t := (dy32 (tab expT j)).mul (dy32 p)
      rnd fmtF32 .rne false (XR.ofDy ⟨t.m, t.e + n⟩ false)

/-- LOG2_ALG of R124. -/
def log2Alg (v : Dy) : Nat × Flags :=
  let i := sfIndex v 64
  let r := sfFma (sfMant v) (tab rcpT i) f32MinusOne
  let p := sfFma r cD3 cD2
  let p := sfFma r p cD1
  let q := sfFma r p (tab logT i)
  rnd fmtF32 .rne false (XR.ofDy ((Dy.ofInt (sfExp v)).add (dy32 q)) false)

/-- RCP_ALG of R124. -/
def rcpAlg (v : Dy) : Nat × Flags :=
  let m := sfMant v
  let y := tab rcpT (sfIndex v 64)
  let step (y : Nat) : Nat := sfFma y (sfFma (neg32 m) y f32One) y
  let y := step (step y)
  let d := dy32 y
  rnd fmtF32 .rne false (XR.ofDy ⟨if v.m < 0 then -d.m else d.m, d.e - sfExp v⟩ false)

/-- RSQ_ALG of R125. -/
def rsqAlg (v : Dy) : Nat × Flags :=
  let e := sfExp v
  let h := e / 2
  let odd := e % 2
  let mp := rne32 (XR.ofDy ⟨v.m.natAbs, v.e - 2 * h⟩ false)
  let y := tab rsqT (32 * odd + sfIndex v 32)
  let step (y : Nat) : Nat :=
    let t := sfMul y y
    let d := sfFma (neg32 mp) t f32One
    sfFma (sfMul 0x3f000000 y) d y
  let d := dy32 (step (step y))
  rnd fmtF32 .rne false (XR.ofDy ⟨d.m, d.e - h⟩ false)

/-- SINCOS_ALG of R126. -/
def sincosAlg (v : Dy) (wantSin : Bool) : Nat × Flags :=
  let num : Int := v.m * pow2 (v.e + 645)
  let j := (2 * num + piBits) / (2 * (piBits : Int))
  let r := rne32 (XR.ofDy (v.add ⟨-j * piBits, -645⟩) false)
  let z := sfMul r r
  let ps := sfFma z cP2 cP1
  let ps := sfMul z ps
  let sr := dy32 (sfFma r ps r)
  let pc := sfFma z cQ2 cQ1
  let cr := dy32 (sfFma z pc f32One)
  let s := dy32 (tab sinT j)
  let c := dy32 (tab sinT (j + 16))
  let x := if wantSin then (s.mul cr).add (c.mul sr) else (c.mul cr).add (s.mul sr).neg
  rnd fmtF32 .rne false (XR.ofDy x false)

/-- The special functions of one lane, with the tables of special values and `.FTZ` (R122 to R127). -/
inductive SpecialFn where
  | rcp | rsq | exp2 | log2 | sin | cos | tanh
  deriving DecidableEq, Repr

/-- TANH_ALG of R127 on a finite value. -/
def tanhAlg (neg : Bool) (code : Nat) (v : Dy) : Nat × Flags :=
  let a : Dy := ⟨v.m.natAbs, v.e⟩
  let ac := code % 0x80000000
  let sg (c : Nat) : Nat := fmtF32.sign neg c
  if Dy.cmp a ⟨10, 0⟩ != .lt then (sg f32One, 0)
  else if Dy.cmp a ⟨1, -12⟩ == .lt then (sg ac, 0)
  else
    let w := sfMul ac cG
    let e := (exp2Alg (fmtF32.val w)).1
    let d := sfAdd e f32One
    let q := (rcpAlg (dy32 d)).1
    let y := rnd fmtF32 .rne false (xadd .rne (fvMul (fmtF32.val 0xc0000000) (fmtF32.val q)).1 (fmtF32.val f32One)).1
    (sg y.1, y.2)

def specialLane (k : SpecialFn) (ftz : Bool) (x : Nat) : Nat × Flags :=
  let c := ftzIn fmtF32 ftz (x % 2 ^ 32)
  let v := fmtF32.val c
  let nan : Nat × Flags := (fmtF32.nanCode, flIf v.isSig flNV)
  let r : Nat × Flags :=
    match k, v with
    | .exp2, .nan _ => nan
    | .exp2, v => exp2Alg v
    | .log2, .nan _ => nan
    | .log2, .inf n => if n then (fmtF32.nanCode, flNV) else (fmtF32.infCode, 0)
    | .log2, .zero _ => (fmtF32.sign true fmtF32.infCode, flDZ)
    | .log2, .num d => if d.m < 0 then (fmtF32.nanCode, flNV) else log2Alg d
    | .rcp, .nan _ => nan
    | .rcp, .inf n => (fmtF32.sign n 0, 0)
    | .rcp, .zero n => (fmtF32.sign n fmtF32.infCode, flDZ)
    | .rcp, .num d => rcpAlg d
    | .rsq, .nan _ => nan
    | .rsq, .inf n => if n then (fmtF32.nanCode, flNV) else (0, 0)
    | .rsq, .zero n => (fmtF32.sign n fmtF32.infCode, flDZ)
    | .rsq, .num d => if d.m < 0 then (fmtF32.nanCode, flNV) else rsqAlg d
    | .sin, .nan _ => nan
    | .sin, .inf _ => (fmtF32.nanCode, flNV)
    | .sin, .zero n => (fmtF32.sign n 0, 0)
    | .sin, .num d => sincosAlg d true
    | .cos, .nan _ => nan
    | .cos, .inf _ => (fmtF32.nanCode, flNV)
    | .cos, .zero _ => (f32One, 0)
    | .cos, .num d => sincosAlg d false
    | .tanh, .nan _ => nan
    | .tanh, .inf n => (fmtF32.sign n f32One, 0)
    | .tanh, .zero n => (fmtF32.sign n 0, 0)
    | .tanh, .num d => tanhAlg (d.m < 0) c d
  ftzOut fmtF32 ftz r

/-- RNG_BLOCK of R131 on key words and counter words. -/
def rngRounds : Nat → Nat × Nat → Nat × Nat × Nat × Nat → Nat × Nat × Nat × Nat
  | 0, _, c => c
  | n + 1, (k0, k1), (c0, c1, c2, c3) =>
    let q0 := c0 * 0xc2b2ae3d
    let q1 := c2 * 0x9e6c63d1
    rngRounds n ((k0 + 0x9b05688d) % 2 ^ 32, (k1 + 0x5be0cd1b) % 2 ^ 32)
      ((q1 / 2 ^ 32) ^^^ c1 ^^^ k0, q1 % 2 ^ 32, (q0 / 2 ^ 32) ^^^ c3 ^^^ k1, q0 % 2 ^ 32)

/-- RNG_BLOCK on a 64-bit key and a 128-bit counter (R131, R132). -/
def rngBlock (key ctr : Nat) : Nat :=
  let w (x k : Nat) : Nat := (x >>> (32 * k)) % 2 ^ 32
  let (x0, x1, x2, x3) := rngRounds 10 (w key 0, w key 1) (w ctr 0, w ctr 1, w ctr 2, w ctr 3)
  x0 + x1 * 2 ^ 32 + x2 * 2 ^ 64 + x3 * 2 ^ 96

end Sys2Proof.Machine
end

