-- ==== Sys2Proof/Machine/Engine.lean ====
section
/-! DEFINITION. The engine operations of a team (R223, R224, R438): where they read and write, quarter operations (R231, R243),
tile transfers with their epilogues (R234 to R239) and the sampling heap (R240 to R242). -/

namespace Sys2Proof.Machine

/-! Pool bytes of the issuing core. -/

/-- What stands in the way of a run of pool bytes (R192, R226): PROT beyond the team's banks, BANKOFF outside SPAD mode. -/
def poolCodes (t : Team) (runs : List (Nat × Nat)) : List Nat :=
  runs.flatMap fun x =>
    if x.2 = 0 then []
    else [x.1 / 65536, (x.1 + x.2 - 1) / 65536].filterMap fun b =>
      match t.banks[b]? with
      | none => some tcProt
      | some k => if k.mode == .spad then none else some tcBankoff

/-- The lowest of the codes found (R100). -/
def lowestCode (l : List Nat) : Option Nat :=
  match l with
  | [] => none
  | x :: r => some (r.foldl min x)

/-- A byte of the team's pool. -/
def poolByte (t : Team) (off : Nat) : Nat :=
  match t.banks[off / 65536]? with
  | some b => sparseGet b.bytes (off % 65536)
  | none => 0
def poolNat (t : Team) (off n : Nat) : Nat := (List.range n).foldl (fun r i => r + poolByte t (off + i) * 256 ^ i) 0
def poolPut (s : State) (t : TeamRef) (off n v : Nat) : State :=
  (List.range n).foldl (fun s i => bankPut s t ((off + i) / 65536) ((off + i) % 65536) 1 (byteOf v i)) s

/-- A trap cause of an engine (R219, R224). -/
def engCause (code info va : Nat) : Cause := ⟨code, info, 7, 0, BitVec.ofNat 64 va⟩

/-- A range lock over runs of the team's pool (R224). -/
def poolLocked (s : State) (t : Team) (runs : List (Nat × Nat)) (write : Bool) : Option Cause :=
  (runs.find? fun x => lockedAt s t.core t.part (some t.ref) ((x.1 : Nat) : Int) x.2 write).map fun x =>
    engCause tcLockhit 0 (15 * 2 ^ 20 + x.1)

/-! Accesses of an engine to memory. -/

/-- An engine access of `2 ^ k` bytes as an access of lane 0; it does not use the L1 (R257). -/
def engAccess (window write : Bool) (k va born : Nat) : Access :=
  { opc := if window then (if write then 0x83 else 0x82) else if write then 0x81 else 0x80
    sub := 0, mod := k + 128, lanes := 1, dst := 0, addr := Lanes.all (BitVec.ofNat 64 va), data := Lanes.all 0, all := 1, pc := 0
    slot2 := false, tok := 0, fault := none, stage := 0, wait := ⟨none, 0⟩, born := born, wasDead := false, owed := 0
    thr := Lanes.all 0, ser := false, narrow := false }

/-- The group an operation acts for, with the TKCOMMIT state its thread had at the issue. -/
def opGroup (t : Team) (grp post : Nat) : Group :=
  let g := (t.groups[grp]?).getD ((t.groups.head?).getD
    { status := .done, threads := Lanes.all noThread, regs := [], cuffs := Vector.replicate 8 ⟨false, none, zeroWords, none⟩
      lx := noLatch, ly := noLatch, lfsr := 0, fpstat := 0, gpc := 0, sel := false, chosen := false, lines := [], ser := ⟨false, 0, 0, 0, 0⟩
      loopqs := Vector.replicate 8 none, role := ⟨none, none⟩, queue := [], pending := [], cause := ⟨0, 0, 0, 0, 0, 0⟩
      saved := [], side := [], joins := [], issues := 0, yielded := false, tok := 0, gslot := 0, watch := none, outRel := false
      copyCancelled := false, copyRange := false, barts := [], csrw := false })
  { g with threads := Lanes.all { noThread with post := post == 1 } }

/-- The places of an operation's accesses, or the first that would fault with its address (R224). -/
def engPlaces (s : State) (t : Team) (gr : Grid) (g : Group) (as : List Access) : List (Access × Place) ⊕ Cause :=
  as.foldl (fun r a =>
    match r with
    | .inr c => .inr c
    | .inl l => match lanePlace s t gr g a 0 with
      | .inl p => .inl (l ++ [(a, p)])
      | .inr e => .inr (engCause e.1 e.2 (Lanes.at a.addr 0 0).toNat)) (.inl [])

/-- What one unit of an operation's work answers; `full`: it waits for room in the team's share (R320). -/
inductive UnitRes where
  | wait
  | ask (s : State)
  | full
  | fault (c : Cause)
  | ok (s : State)

/-- Host lines (R435), the side log (R262) and the share (R321) that engine accesses wait for. -/
def engGate (s : State) (t : Team) (gr : Grid) (ps : List (Access × Place)) : Option UnitRes :=
  let slow : Bool := ps.any fun x => match x.2 with
    | .virt va _ _ => (slogOf s t.core).any (fun e => slogTouches e va (accBytes gr x.1))
        || (isReadOp x.1.opc && shareHolds t va (accBytes gr x.1))
    | .bank .. => false
  let lacks := ps.flatMap fun x => hostLacks s x.1 [(0, x.2)]
  if slow then some .wait
  else if lacks.isEmpty then none
  else if lacks.all fun x => hostAsked s x.2.1 then some .wait
  else some (.ask (lacks.foldl (fun s x => hostAsk s x.1 x.2.1 x.2.2) s))

/-- An engine write with its bytes that goes to its place and not to the share, nor is dropped (R315, R317). -/
def engDirect (gr : Grid) (t : Team) (x : Access × Place) : Bool :=
  !((drainBuffers gr t || t.tk.abortMark) && lrDet gr.lr && treatOf x.1 x.2 == .buffered)

/-- How an engine write of bytes uses the host line of an address (R435). -/
def engUse (ws : List (Access × Place × List Byte)) (pa : Nat) : HostUse :=
  lineUse (ws.filterMap fun x => match x.2.1 with | .virt _ pa _ => some (pa, x.2.2) | .bank .. => none) pa
/-- Host lines that it lacks. -/
def engLacks (s : State) (ws : List (Access × Place × List Byte)) : List (Nat × Nat × HostUse) :=
  ws.filterMap fun x => match x.2.1 with
    | .virt _ pa sh => if (region pa == some 2 || sh = shSystem) && !(hostReady s sh pa (engUse ws pa)) then
        some (sh, pa, engUse ws pa) else none
    | .bank .. => none

/-- Read the bytes of engine accesses in order. -/
def engRead (s : State) (t : Team) (ps : List (Access × Place)) : State × List Byte :=
  ps.foldl (fun r x =>
    let y := placeRead r.1 t x.2 0 2 x.1.width
    (y.1, r.2 ++ y.2)) (s, [])

/-- Write a row of memory, or let it enter the share (R317 to R320); none while the share has no room. -/
def engStore (s : State) (t : Team) (gr : Grid) (born : Nat) (ps : List (Access × Place)) (b : List Byte) : Option State :=
  let l := (ps.foldl (fun (r : List (Access × Place × List Byte) × List Byte) x =>
    (r.1 ++ [(x.1, x.2, r.2.take x.1.width)], r.2.drop x.1.width)) ([], b)).1
  let buf (x : Access × Place × List Byte) : Bool := drainBuffers gr t && treatOf x.1 x.2.1 == .buffered
  let wide (x : Access × Place × List Byte) : Bool := lrDet gr.lr && treatOf x.1 x.2.1 == .buffered
  let dir (s : State) (l : List (Access × Place × List Byte)) : State :=
    hostDone (l.foldl (fun s x => placeWrite s t x.2.1 1 2 false x.2.2) s) (hostLinesOf (l.map fun x => (0, x.2.1)))
  if t.tk.abortMark then some (dir s (l.filter fun x => !(wide x)))
  else
    let es := formEntries .store born ((l.filter buf).map fun x => ((Lanes.at x.1.addr 0 0).toNat, x.2.2))
    if es.isEmpty then some (dir s l)
    else (addEntries s t gr es).map fun s => dir s (l.filter fun x => !(buf x))

/-! Operations of a team. -/

def updOps (s : State) (t : TeamRef) (f : List EngOp → List EngOp) : State := updTeam s t fun t => { t with eops := f t.eops }
def updOp (s : State) (t : TeamRef) (id : Nat) (f : EngOp → EngOp) : State :=
  updOps s t fun l => l.map fun o => if o.id == id then f o else o

/-- A new operation at an issue; `k` numbers the operations of one issue. -/
def newOp (c : Ctx) (k : Nat) (kind : EngKind) (tiles : List Nat) (rows : List (Nat × Nat)) (ctl words : List Nat) (addr : Nat) :
    EngOp :=
  { id := 8 * stamp c.s + k, grp := c.r.grp, kind := kind, tiles := tiles, rows := rows, ctl := ctl, words := words, addr := addr
    started := false, prog := 0, fault := none, takenBy := none, flags := 0, cancelled := false, pc := c.pc, born := stamp c.s
    root := (partOf c.s c.t.part).ptroot }

def pushOps (c : Ctx) (l : List EngOp) : Act := .go { post := fun s => updOps s c.r.team fun x => x ++ l }

/-- A tile in a bank the team does not hold (R192). -/
def tileCodes (t : Team) (tiles : List Nat) : List Nat := if tiles.all fun k => decide (k / 4 < t.accN) then [] else [tcAccna]

def opsMeet (a b : EngOp) : Bool := (a.tiles.any fun k => b.tiles.contains k) || a.rows.any fun r => b.rows.contains r

/-- Every earlier operation of the team that shares a tile or a heap row has completed (R223). -/
def opFree (t : Team) (o : EngOp) : Bool := (t.eops.takeWhile fun x => x.id != o.id).all fun x => !(opsMeet x o)

/-- The operations of a core's teams. -/
def coreOps (s : State) (core : Nat) : List EngOp := (s.teams.filter fun t => t.core == core).flatMap (·.eops)

def EngKind.isTransfer (k : EngKind) : Bool :=
  k == .zero || k == .load || k == .drain || k == .drainAdd || k == .heapclr
def EngKind.isGauntlet (k : EngKind) : Bool := k == .attn || k == .attnf

/-- Post a cause to a group of a team, or to the lowest group that is not DONE; with none it is MCHECK (R224). -/
def postCause (s : State) (t : TeamRef) (grp : Nat) (c : Cause) : State :=
  match teamAt s t with
  | none => s
  | some x =>
    let live (k : Nat) : Bool := (x.groups[k]?).any fun g => g.status != .done
    let put (k : Nat) : State := updGroup s ⟨t, k⟩ fun g => { g with pending := g.pending ++ [c] }
    if live grp then put grp
    else match (List.range x.groups.length).find? live with
      | some k => put k
      | none => mcheck s x.part

/-- An operation completes: its flags go to MSTAT, and it leaves the team (R223, R225). -/
def endOp (s : State) (t : TeamRef) (o : EngOp) (fl : Flags) : State :=
  settleTickets (updOps (orMstat s t (o.flags ||| fl)) t fun l => l.filter fun x => x.id != o.id) t.grid

/-! Quarter operations (R229 to R232). -/

/-- The maps of a quarter operation. -/
def EngOp.mapA (o : EngOp) : TileMap := TileMap.ofNat (o.words.getD 0 0)
def EngOp.mapB (o : EngOp) : TileMap := TileMap.ofNat (o.words.getD 1 0)

/-- A valid map of FP32 or FP64, which MQMAS does not admit (R22, R232). -/
def denseOnly (m : TileMap) : Bool := m.valid && (m.fmt == .f32 || m.fmt == .f64)

/-- One quarter's operation as checked at the issue: the operation, or the codes found (R230, R232). ILLOP is the lowest code, so that
a sparse operation that names a valid map of FP32 or FP64 answers it whatever else is wrong (R22, R100; log entry 110). -/
def quarterOp (c : Ctx) (q : Nat) (sparse : Bool) (m : BitVec 31) : List Nat × EngOp :=
  let ln := ((quarterLanes c.act).find? fun l => l / 8 == q).getD 0
  let ctl := c.av ln
  let ma := mapOf c.t (ctl % 16)
  let mb := mapOf c.t (bitsOf ctl 7 4)
  let a := TileMap.ofNat ma
  let b := TileMap.ofNat mb
  let tile := bitsOf ctl 13 8
  let wide := a.fmt == .f64
  let (kop, kc) := (pairK a.fmt b.fmt).getD (0, 1)
  let sati := m.toNat.testBit 0
  let md := (List.range 32).map fun n => c.bv (if m.toNat.testBit 1 then ln else n) % 2 ^ kop
  let kb := if sparse then kop / 2 else kop
  let bx := Ty.isBx a.fmt
  let bad : Bool := !a.ok || mapReserved ma || !b.ok || mapReserved mb || kop == 0 || a.shape != (32, kop) || b.shape != (kb, 32)
    || (bx && (a.trans || !b.trans)) || (wide && tile % 2 == 1) || (sati && a.fmt != .i8)
    || (sparse && !(metaFits c.g c.h.sb (sparseWords (bitsOf mb 5 1)) && md.all fun x => metaOk x kop))
  let illop : Bool := sparse && (denseOnly a || denseOnly b)
  let runs := a.runs ++ b.runs ++ a.scaleRun (kop / 4) ++ b.scaleRun (kop / 4)
  let codes := (if illop then [tcIllop] else []) ++ (if bad then [tcIllfmt] else tileCodes c.t (accTiles wide tile) ++ poolCodes c.t runs)
  (codes, newOp c q .mma (accTiles wide tile) [] [q, b2n sati, b2n sparse, kop, kc, bitsOf ctl 7 4]
    (ma :: mb :: if sparse then md else []) 0)

/-- A quarter joins a fused pass of its issue (R231): it is the lowest of those that name its tile. -/
def joinsPass (l : List EngOp) (o : EngOp) : Bool := !(l.any fun y => decide (y.id < o.id) && opsMeet y o)

/-- The operations of one issue with the identity of their pass (R231): the lowest quarter with the same B map and A format, among
those that join a pass. -/
def withPass (l : List EngOp) : List EngOp :=
  l.map fun o =>
    let first := if joinsPass l o then
        l.find? fun x => joinsPass l x && x.ctl.getD 5 0 == o.ctl.getD 5 0 && x.mapA.fmt == o.mapA.fmt
      else some o
    { o with ctl := o.ctl ++ [(first.getD o).id] }

/-- Operations waiting in a slice of a core. -/
def sliceQueue (s : State) (core q : Nat) : Nat :=
  ((coreOps s core).filter fun o => o.kind == .mma && !o.started && o.ctl.head? == some q).length

/-- MQMA and MQMAS: one operation for each quarter with an active lane (R230). -/
def mqmaAct (c : Ctx) (sparse : Bool) (m : BitVec 31) : Act :=
  let qs := (List.range 4).filter fun q => (List.range 8).any fun i => c.act.getLsbD (8 * q + i)
  let ops := qs.map fun q => quarterOp c q sparse m
  match lowestCode (ops.flatMap (·.1)) with
  | some k => .trap (causeOf k)
  | none =>
    if qs.any fun q => decide (8 ≤ sliceQueue c.s c.t.core q) then .stall
    else pushOps c (withPass (ops.map (·.2)))

/-- MQMA (R230). -/
def execMqma (f : RRR) (s : State) : Out := issue (.mqma f) s fun c => mqmaAct c false f.mod
/-- MQMAS (R232). -/
def execMqmas (f : RRR) (s : State) : Out := issue (.mqmas f) s fun c => mqmaAct c true f.mod

/-- Occupancy of a quarter operation (R231). -/
def occupancy (a : Ty) (sparse fused : Bool) : Nat :=
  let n := match a with
    | .f64 => 128
    | .f32 => 64
    | .f16 => 64
    | .bf16 => 32
    | .i8 => 64
    | .e4m3 => 16
    | .e5m2 => 16
    | .x4e4 => 16
    | _ => 8
  (if sparse then n / 2 else n) * if fused then 1 else 2

/-- The operations that form one pass with a quarter operation (R231). -/
def passOf (t : Team) (o : EngOp) : List EngOp :=
  t.eops.filter fun x => x.kind == .mma && x.born == o.born && x.grp == o.grp && x.ctl.getD 6 0 == o.ctl.getD 6 0

/-- h of R243, from the first 64 bytes of plane 0 of A. -/
def toggles (t : Team) (a : TileMap) : Nat :=
  let w := (a.cols + 7) / 8
  let b (i : Nat) : Nat := poolByte t (a.base + (i / w) * a.rs + i % w)
  ((List.range 32).foldl (fun r i => r + popCount 8 (b i ^^^ b (i + 32))) 0) / 16

/-- The charge of an operation in its pass (R243). -/
def opCharge (t : Team) (l : List EngOp) (o : EngOp) : Nat :=
  occupancy o.mapA.fmt (o.ctl.getD 2 0 == 1) (decide (1 < l.length)) * (16 + toggles t o.mapA)
/-- The charge of a pass (R243). -/
def passCharge (t : Team) (l : List EngOp) : Nat := l.foldl (fun r o => r + opCharge t l o) 0
/-- Ready passes start by their lowest charge, and by their lower slice (R243). -/
def passKey (t : Team) (l : List EngOp) : Nat := ((l.map fun o => 4 * opCharge t l o + o.ctl.headD 0).min?).getD 0

/-- The pass can start, but for its budget: its slices are idle and its tiles free. -/
def passReady (s : State) (t : Team) (l : List EngOp) : Bool :=
  l.all fun o => !o.started && o.fault.isNone && opFree t o
    && !((coreOps s t.core).any fun x => x.kind == .mma && x.started && x.ctl.head? == o.ctl.head?)

/-- What is left of the core's budget after a charge of operations; none while it has to wait (R243, R416, R418). What exceeds the
budget starts at a period's beginning: it was ready then, and nothing is charged yet. A lower MBUDGET.UNITS caps what is left at once
(DESIGN CHOICE, log entry 138). -/
def budgetLeft (s : State) (t : Team) (l : List EngOp) (n : Nat) : Option Nat :=
  let r := coreRegsOf s t.core
  let units := effUnits s 5 r.units
  let left := min r.remaining units
  if units = 0xffffffff ∨ (partOf s t.part).life = .halted then some r.remaining
  else if n ≤ left then some (left - n)
  else if units < n ∧ left = units ∧ l.all (fun o => r.atBegin.contains o.id) then some 0
  else none
/-- What is left of it when a pass starts. -/
def budgetAfter (s : State) (t : Team) (l : List EngOp) : Option Nat := budgetLeft s t l (passCharge t l)

/-- The passes of a team that can start, each with its place in the order and what is left of the budget. -/
def openPasses (s : State) (t : Team) : List (Nat × List EngOp × Nat) :=
  ((t.eops.filter fun o => o.kind == .mma && !o.started).map fun o => passOf t o).filterMap fun l =>
    if passReady s t l then (budgetAfter s t l).map fun n => (passKey t l, l, n) else none

/-- The pass of a team that starts next: the first of its core's (R243). -/
def nextPass (s : State) (t : Team) : Option (List EngOp × Nat) :=
  let others := (s.teams.filter fun x => x.core == t.core && x.ref != t.ref && !(coreHeld s x)).flatMap fun x => openPasses s x
  (openPasses s t).foldl (fun r x =>
    if r.any (fun y => decide (y.1 ≤ x.1)) || others.any (fun y => decide (y.1 < x.1)) then r else some x) (none : Option (Nat × List EngOp × Nat))
    |>.map (·.2)

def canQuarterOpStart (s : State) (r : TeamRef) : Bool :=
  match teamAt s r with
  | some t => !(coreHeld s t) && (nextPass s t).isSome
  | none => false
/-- QUARTER_OP_START (R231, R243). -/
def execQuarterOpStart (r : TeamRef) (s : State) : Out :=
  event s (canQuarterOpStart s r) fun s =>
    match teamAt s r with
    | some t => match nextPass s t with
      | some (l, n) =>
        updCoreRegs (l.foldl (fun s o => updOp s r o.id fun o => { o with started := true }) s) t.core
          fun c => { c with remaining := n }
      | none => s
    | none => s

/-- Some quarter operation of the core is ready and waits for its budget (R244). -/
def sliceWaits (s : State) (core : Nat) : Bool :=
  (s.teams.filter fun t => t.core == core && !(coreHeld s t)).any fun t =>
    (t.eops.filter fun o => o.kind == .mma && !o.started).any fun o =>
      passReady s t (passOf t o) && (budgetAfter s t (passOf t o)).isNone

/-- The effect of a quarter operation on its tile (R230). -/
def mmaRun (s : State) (t : Team) (o : EngOp) : UnitRes :=
  let a := o.mapA
  let b := o.mapB
  let sparse := o.ctl.getD 2 0 == 1
  let kop := o.ctl.getD 3 0
  match poolLocked s t (a.runs ++ b.runs ++ a.scaleRun (kop / 4) ++ b.scaleRun (kop / 4)) false with
  | some c => .fault c
  | none =>
    let x := Quarter.read a b (poolByte t) (if sparse then some (o.words.drop 2) else none) (o.ctl.getD 1 0 == 1) kop (o.ctl.getD 4 1)
    let wide := a.fmt == .f64
    let tile := o.tiles.headD 0
    let r := tableOf 1024 fun k => (x.elem (k / 32) (k % 32) (accElem t.acc wide tile (k / 32) (k % 32))).1
    let fl := (List.range 1024).foldl (fun f k =>
      f ||| (x.elem (k / 32) (k % 32) (accElem t.acc wide tile (k / 32) (k % 32))).2) (0 : Flags)
    let s := updTeam s t.ref fun t => { t with acc := accFill t.acc wide tile fun i j => r.getD (32 * i + j) 0 }
    .ok (endOp s t.ref o fl)

/-! Tile maps and zeroing. -/

def putMap (s : State) (t : TeamRef) (k : Nat) (m : Nat) : State :=
  updRegs s t fun r => { r with maps := r.maps.set k (BitVec.ofNat 256 m) }

/-- TMAP (R228). -/
def execTmap (f : RRR) (s : State) : Out :=
  issue (.tmap f) s fun c =>
    let n := match f.sa with | .uni n => n.toNat | _ => 0
    let m := (List.range 4).foldl (fun r i => r + (sregOf c.t (n + i)).toNat * 2 ^ (64 * i)) 0
    if (List.range 4).any fun i => uniBusy c.t (n + i) then .stall
    else if mapReserved m then .trap (causeOf tcIllfmt)
    else effect c fun s => putMap s c.r.team (f.mod.toNat % 16) m

/-- Position and width of a field of TMAPF (R228). -/
def mapField (k : Nat) : Nat × Nat :=
  match k with
  | 0 => (16, 20)
  | 1 => (1, 5)
  | 2 => (6, 3)
  | 3 => (9, 1)
  | 4 => (36, 8)
  | 5 => (44, 8)
  | 6 => (64, 32)
  | 7 => (96, 32)
  | 8 => (128, 20)
  | _ => (0, 1)
/-- TMAPF (R228). -/
def execTmapf (f : RI) (s : State) : Out :=
  issue (.tmapf f) s fun c => effect c fun s =>
    let k := f.mod.toNat % 16
    let p := mapField (bitsOf f.mod.toNat 7 4)
    putMap s c.r.team k (setField (mapOf c.t k) p.1 p.2 f.imm.toNat)

/-- The tiles of MZERO and MWAITA (R233). -/
def tileRange (imm : Word) : List Nat := (List.range (bitsOf imm.toNat 11 6 + 1)).map fun i => imm.toNat % 64 + i

/-- Operations waiting for the tile-transfer unit of a core (R438). -/
def transferFull (s : State) (core : Nat) : Bool :=
  decide (8 ≤ ((coreOps s core).filter fun o => o.kind.isTransfer && !o.started).length)

/-- Hand an operation to the tile-transfer unit. -/
def transferAct2 (c : Ctx) (codes : List Nat) (o : EngOp) : Act :=
  match lowestCode codes with
  | some k => .trap (causeOf k)
  | none => if c.act = 0 then .go {} else if transferFull c.s c.t.core then .stall else pushOps c [o]

/-- MZERO (R233). -/
def execMzero (f : RI) (s : State) : Out :=
  issue (.mzero f) s fun c =>
    let tiles := tileRange f.imm
    transferAct2 c (tileCodes c.t tiles) (newOp c 0 .zero tiles [] [] [] 0)
/-- A group of a core observes completed operations (R236): their writes are performed at their pages' scopes, and it acquires. -/
def observeAt (s : State) (core : Nat) : State := acquireAt (guestsAcked s) core shSystem

/-- MWAITA (R233, R236). -/
def execMwaita (f : RI) (s : State) : Out :=
  issue (.mwaita f) s fun c =>
    let tiles := tileRange f.imm
    match lowestCode (tileCodes c.t tiles) with
    | some k => .trap (causeOf k)
    | none =>
      if c.act = 0 then .go {}
      else if c.t.eops.any fun o => o.tiles.any fun k => tiles.contains k then .stall
      else .go { post := fun s => observeAt s c.t.core }

/-! Tile transfers. -/

/-- The transfer control (R234). -/
structure Xc where
  tile : Nat
  fmt : Ty
  fmtOk : Bool
  rm : Nat
  sat : Bool
  space : Bool
  heap : Bool
  gmask : Bool
  lse : Bool
  hr : Nat
  hbank : Nat
  ltile : Nat
  tok0 : Nat
  goff : Nat
  clr : Bool
  stride : Nat
  scl : Nat
  reserved : Bool

def Xc.of (w0 w1 : Nat) : Xc :=
  let f := Ty.ofCode (bitsOf w0 10 6)
  { tile := bitsOf w0 5 0, fmt := f.getD .none
    fmtOk := match f with
      | some t => [Ty.f64, .f32, .f16, .bf16, .e5m2, .e4m3, .e3m2, .e2m1, .i8, .i32].contains t
      | none => false
    rm := bitsOf w0 13 11, sat := abit w0 14 == 1, space := abit w0 15 == 1, heap := abit w0 16 == 1, gmask := abit w0 17 == 1
    lse := abit w0 18 == 1, hr := abit w0 19, hbank := bitsOf w0 23 20, ltile := bitsOf w0 29 24, tok0 := bitsOf w0 49 30
    goff := bitsOf w0 60 50, clr := abit w0 61 == 1, stride := bitsOf w1 31 0, scl := bitsOf w1 63 32
    reserved := bitsOf w0 63 62 != 0 }

def EngOp.xc (o : EngOp) : Xc := Xc.of (o.words.getD 0 0) (o.words.getD 1 0)

/-- The accumulator is FP64. -/
def Xc.wide (x : Xc) : Bool := x.fmt == .f64
/-- The accumulator is INT32. -/
def Xc.int (x : Xc) : Bool := x.fmt == .i8 || x.fmt == .i32
/-- Container bits of one memory element (R25, R32). -/
def Xc.pitch (x : Xc) : Nat := if x.fmt == .e3m2 then 8 else x.fmt.bits
def Xc.rowBytes (x : Xc) : Nat := 4 * x.pitch
/-- The heap row of tile row `i`: bank and row within it (R240). -/
def Xc.heapRow (x : Xc) (i : Nat) : Nat × Nat := (x.hbank + x.hr, i)

/-- The tiles a transfer names. -/
def Xc.tiles (x : Xc) : List Nat := accTiles x.wide x.tile ++ if x.lse then [x.ltile] else []

/-- Checks of a transfer at its issue (R234, R235, R237 to R239). -/
def xferCodes (c : Ctx) (kind : EngKind) (x : Xc) (base : Nat) : List Nat :=
  let plain : Bool := kind == .drain
  let bad : Bool := x.reserved || !x.fmtOk || decide (4 < x.rm) || x.tok0 % 32 != 0 || (x.wide && x.tile % 2 == 1)
    || (kind == .load && (x.rm != 0 || x.sat || x.heap || x.gmask || x.lse || x.clr || x.scl != 0))
    || (kind == .drainAdd && (!(x.fmt == .f32 || x.fmt == .f64 || x.fmt == .i32) || x.heap || x.gmask || x.lse || x.sat || x.rm != 0))
    || (plain && (x.heap || x.gmask || x.lse) && (x.wide || x.int))
  if bad then [tcIllfmt]
  else tileCodes c.t x.tiles ++ (if base % 16 != 0 || x.stride % 16 != 0 then [tcAlign] else [])
    ++ (if x.gmask then poolCodes c.t [(512 * x.goff, 256)] else [])
    ++ if x.heap then poolCodes c.t [((x.hbank + x.hr) * 65536, 65536)] else []

/-- A transfer of the lowest active lane. -/
def xferAct (c : Ctx) (f : MF) (kind : EngKind) : Act :=
  let l := (lowLane c.act).getD 0
  let w := c.bv l
  let x := Xc.of (w % 2 ^ 64) (w / 2 ^ 64)
  let base := wrap 64 ((c.av l : Int) + offOf f)
  let addr := if x.space then base % 2 ^ 32 else base
  if c.act = 0 then .go {}
  else
    transferAct2 c (xferCodes c kind x addr)
      (newOp c 0 kind x.tiles (if x.heap then (List.range 32).map x.heapRow else []) [b2n (threadAt c.g l).post]
        [w % 2 ^ 64, w / 2 ^ 64] addr)

/-- MLOAD (R235). -/
def execMload (f : MF) (s : State) : Out := issue (.mload f) s fun c => xferAct c f .load
/-- MDRAIN (R237). -/
def execMdrain (f : MF) (s : State) : Out := issue (.mdrain f) s fun c => xferAct c f .drain
/-- MDRAIN.ADD (R238). -/
def execMdrainAdd (f : MF) (s : State) : Out := issue (.mdrainAdd f) s fun c => xferAct c f .drainAdd

/-- The 16-byte accesses of row `i` of a transfer. -/
def rowAccesses (o : EngOp) (write : Bool) (i : Nat) : List Access :=
  let x := o.xc
  let m := if x.space then 2 ^ 32 else 2 ^ 64
  (List.range (x.rowBytes / 16)).map fun k => engAccess x.space write 4 ((o.addr + i * x.stride + 16 * k) % m) o.born

/-- Bytes of a row of element codes, and back (R25). -/
def packRow (pitch : Nat) (v : List Nat) : List Byte :=
  toBytes (pitch * v.length / 8) ((v.zipIdx).foldl (fun r x => r + x.1 * 2 ^ (pitch * x.2)) 0)
def unpackRow (pitch : Nat) (b : List Byte) : List Nat :=
  let n := ofBytes b
  (List.range 32).map fun j => (n >>> (pitch * j)) % 2 ^ pitch

/-- A memory code as an accumulator element (R41, R235). -/
def loadElem (t : Ty) (c : Nat) : Nat × Flags :=
  if t == .i8 then (wrap 32 (signed 8 c), 0)
  else if t == .i32 then (c, 0)
  else cvtCode (if t == .f64 then .f64 else .f32) t .rne false (c % 2 ^ t.bits)

/-- y of R237. -/
def drainElem (x : Xc) (a : Nat) : Nat × Flags :=
  if x.int then (a, 0)
  else if x.wide then
    let s := cvtCode .f64 .f32 .rne false x.scl
    let r := fpMul fmtF64 ⟨.rne, false, false⟩ a s.1
    (r.1, s.2 ||| r.2)
  else fpMul fmtF32 ⟨.rne, false, false⟩ a x.scl

/-- The memory code of y (R237). -/
def drainCode (x : Xc) (y : Nat) : Nat × Flags :=
  if x.fmt == .i32 then (y, 0)
  else if x.fmt == .i8 then cvtInt .i8 .i32 x.sat y
  else cvtCode x.fmt (if x.wide then .f64 else .f32) (RM.get x.rm) x.sat y

/-! The sampling heap (R240). -/

/-- The sentinel. -/
def heapSentinel : Nat := 0xff800000 + 0xffffffff * 2 ^ 32

/-- Entry `a` ranks above entry `b`. -/
def heapAbove (a b : Nat) : Bool :=
  match fvCmp (fmtF32.val (a % 2 ^ 32)) (fmtF32.val (b % 2 ^ 32)) with
  | .gt => true
  | .lt => false
  | .eq => decide (a / 2 ^ 32 < b / 2 ^ 32)

/-- The loop of OFFER from entry `i`. -/
def heapSift : Nat → Array Nat → Nat → Array Nat
  | 0, h, _ => h
  | n + 1, h, i =>
    let a := 2 * i + 1
    let b := 2 * i + 2
    if 255 < a then h
    else
      let c := if b ≤ 255 ∧ heapAbove (h.getD a 0) (h.getD b 0) = true then b else a
      if heapAbove (h.getD i 0) (h.getD c 0) then
        heapSift n ((h.setIfInBounds i (h.getD c 0)).setIfInBounds c (h.getD i 0)) c
      else h

/-- OFFER of R240. -/
def heapOffer (h : Array Nat) (x : Nat) : Array Nat :=
  if heapAbove x (h.getD 0 0) then heapSift 9 (h.setIfInBounds 0 x) 0 else h

/-- A heap row's entries. -/
def heapRead (t : Team) (k : Nat × Nat) : Array Nat := tableOf 256 fun i => poolNat t (65536 * k.1 + 2048 * k.2 + 8 * i) 8
def heapWrite (s : State) (t : TeamRef) (k : Nat × Nat) (h : Array Nat) : State :=
  updBank s t k.1 fun b =>
    { b with bytes := (List.range 2048).foldl (fun m i => sparseSet m (2048 * k.2 + i) (byteOf (h.getD (i / 8) 0) (i % 8))) b.bytes }

/-- The row state of heap row `r`: m and l (R239). -/
def rowState (acc : Sparse) (tile r : Nat) : Nat × Nat :=
  (accWord acc tile (r % 32) (2 * (r / 32)), accWord acc tile (r % 32) (2 * (r / 32) + 1))
def rowStatePut (acc : Sparse) (tile r m l : Nat) : Sparse :=
  let k := 1024 * tile + 32 * (r % 32) + 2 * (r / 32)
  sparseSet (sparseSet acc k m) (k + 1) l

def rne32Sub (a b : Nat) : Nat × Flags := fpAdd fmtF32 ⟨.rne, false, false⟩ a (b ^^^ 0x80000000)

/-- FMAX over values, from −∞ (R239, R247). -/
def maxOf (v : List Nat) : Nat × Flags :=
  v.foldl (fun (r : Nat × Flags) y =>
    let z := fpMinMax fmtF32 true false r.1 y
    (z.1, r.2 ||| z.2)) (0xff800000, 0)

/-- The correction factor from m to m1 (R239, R247). -/
def corrOf (m m1 : Nat) : Nat × Flags :=
  if m1 = 0xff800000 then (f32One, 0)
  else
    let d := rne32Sub m m1
    let e := exp2Alg (fmtF32.val d.1)
    (e.1, d.2 ||| e.2)

/-- The LSE epilogue on a row's state (R239). Its sum is made column by column as R239
writes it, not by the tree of R47 (DEDUCED, log entry 108). -/
def lseRow (m l : Nat) (ys : List Nat) : (Nat × Nat) × Flags :=
  let mx := maxOf ys
  let m1 := fpMinMax fmtF32 true false m mx.1
  let corr := corrOf m m1.1
  let l0 := fpMul fmtF32 ⟨.rne, false, false⟩ l corr.1
  let r := ys.foldl (fun (r : Nat × Flags) y =>
    if m1.1 = 0xff800000 then r
    else
      let e := corrOf y m1.1
      let z := fpAdd fmtF32 ⟨.rne, false, false⟩ r.1 e.1
      (z.1, r.2 ||| e.2 ||| z.2)) (l0.1, l0.2)
  ((m1.1, r.1), mx.2 ||| m1.2 ||| corr.2 ||| r.2)

/-- The mask bits of a row: which of the 32 tokens are allowed (R239), or what holds the bitmap's reads. -/
def maskRow (s : State) (t : Team) (gr : Grid) (g : Group) (o : EngOp) (i : Nat) : (State × List Bool) ⊕ UnitRes :=
  let x := o.xc
  let p := poolNat t (512 * x.goff + 8 * i) 8
  if !x.gmask || p = 0 then .inl (s, List.replicate 32 true)
  else match engPlaces s t gr g ((List.range 4).map fun k => engAccess false false 0 ((p + x.tok0 / 8 + k) % 2 ^ 64) o.born) with
    | .inr c => .inr (.fault c)
    | .inl ps => match engGate s t gr ps with
      | some r => .inr r
      | none =>
        let y := engRead s t ps
        let n := ofBytes y.2
        .inl (y.1, (List.range 32).map fun j => n.testBit j)

/-- Row `i` of MDRAIN (R237, R239). Host lines that a row covers are written as each has its GO (R435): bit `k` of the second control
word says that the row's 16 bytes number `k` are written. -/
def drainRow (s : State) (t : Team) (gr : Grid) (o : EngOp) (i : Nat) : UnitRes :=
  let x := o.xc
  let g := opGroup t o.grp (o.ctl.getD 0 0)
  match poolLocked s t ((if x.gmask then [(512 * x.goff + 8 * i, 8)] else [])) false,
      poolLocked s t (if x.heap then [((x.hbank + x.hr) * 65536 + 2048 * i, 2048)] else []) true with
  | some c, _ => .fault c
  | none, some c => .fault c
  | none, none =>
    match maskRow s t gr g o i with
    | .inr r => r
    | .inl (s, ok) =>
      match engPlaces s t gr g (rowAccesses o true i) with
      | .inr c => .fault c
      | .inl ps =>
        let raw := (List.range 32).map fun j => drainElem x (accElem t.acc x.wide x.tile i j)
        let ys := (raw.zip ok).map fun y => if y.2 then y.1.1 else 0xff800000
        let out := ys.map fun y => drainCode x y
        let fl := (raw.foldl (fun f y => f ||| y.2) (0 : Flags)) ||| out.foldl (fun f y => f ||| y.2) (0 : Flags)
        let b := packRow x.pitch (out.map (·.1))
        let ws := (((ps.zipIdx).map fun y => (y.2, y.1.1, y.1.2, (b.drop (16 * y.2)).take 16)).filter fun y => abit (o.ctl.getD 1 0) y.1 == 0)
        let dir := ws.filter fun y => engDirect gr t (y.2.1, y.2.2.1)
        let lacks := engLacks s (dir.map (·.2))
        let store (s : State) (l : List (Nat × Access × Place × List Byte)) : Option State :=
          engStore s t gr o.born (l.map fun y => (y.2.1, y.2.2.1)) (l.flatMap (·.2.2.2))
        let now := dir.filter fun y => !(grantedOf s (engUse (dir.map (·.2))) [(0, y.2.2.1)]).isEmpty
        let mask (n : Nat) (f : EngOp → EngOp) : EngOp → EngOp := fun o => f { o with ctl := [o.ctl.getD 0 0, n] }
        if dir.any fun y => match y.2.2.1 with
            | .virt va _ _ => (slogOf s t.core).any fun e => slogTouches e va 16
            | .bank .. => false then .wait
        else if !lacks.isEmpty then
          if !now.isEmpty then .ask (updOp ((store s now).getD s) t.ref o.id
            (mask (now.foldl (fun n y => n + 2 ^ y.1) (o.ctl.getD 1 0)) id))
          else if lacks.all fun x => hostAsked s x.2.1 then .wait
          else .ask (lacks.foldl (fun s x => hostAsk s x.1 x.2.1 x.2.2) s)
        else
          match store s ws with
          | none => .full
          | some s =>
            let some1 : List (Nat × Nat) := ((ys.zip ok).zipIdx).filterMap fun y => if y.1.2 then some (y.1.1, y.2) else none
            let good := some1.filter fun y => !(fmtF32.val y.1).isNan
            let (s, fl) :=
              if x.lse then
                let r := 32 * x.hr + i
                let st := rowState t.acc x.ltile r
                let z := lseRow st.1 st.2 (good.map (·.1))
                (updTeam s t.ref fun t => { t with acc := rowStatePut t.acc x.ltile r z.1.1 z.1.2 }, fl ||| z.2)
              else (s, fl)
            let (s, fl) :=
              if x.heap then
                let h := good.foldl (fun h y => heapOffer h (y.1 + (x.tok0 + y.2) * 2 ^ 32)) (heapRead t (x.heapRow i))
                (heapWrite s t.ref (x.heapRow i) h, fl ||| flIf (some1.length != good.length) flNV)
              else (s, fl)
            .ok (updOp s t.ref o.id (mask 0 fun o => { o with prog := i + 1, flags := o.flags ||| fl }))

/-- A tile update of one row's bytes (R238): every element of the destination gets its addend. -/
def addRow (ty : Ty) (old new : List Byte) (mask : List Bool) : List Byte × Flags :=
  let w := ty.bits / 8
  (List.range (old.length / w)).foldl (fun (r : List Byte × Flags) k =>
    let d := ofBytes ((old.drop (w * k)).take w)
    let y := ofBytes ((new.drop (w * k)).take w)
    let z : Nat × Flags :=
      if !(mask.getD (w * k) false) then (d, 0)
      else if ty == .i32 then ((d + y) % 2 ^ 32, 0)
      else fpAdd (Ty.fmt ty) ⟨.rne, false, false⟩ d y
    (r.1 ++ toBytes w z.1, r.2 ||| z.2)) ([], 0)

/-- Add bytes at a place: a bank, or the home after the core's L1 copy is gone (R238). -/
def placeAdd (s : State) (t : Team) (ty : Ty) (p : Place) (b : List Byte) : State × Flags :=
  let all := b.map fun _ => true
  match p with
  | .bank r k off =>
    let z := addRow ty (toBytes b.length (bankGet s r k off b.length)) b all
    (bankPut s r k off b.length (ofBytes z.1), z.2)
  | .virt va pa share =>
    let s := l1Flush (tlbFill s t.part t.core va) t.core (pa / 128)
    let z := addRow ty ((List.range b.length).map fun i => rdHome s (pa + i)) b all
    (coreWrote (wrHomeN s (some share) pa b.length (ofBytes z.1)) t.core false share pa, z.2)

/-- The TYPE code of a tile update. -/
def addTy (x : Xc) : Nat := if x.fmt == .f64 then 9 else if x.fmt == .i32 then 3 else 10

/-- The pieces of row `i` of MDRAIN.ADD with their bytes, and the row's flags. -/
def addPieces (t : Team) (o : EngOp) (i : Nat) (ps : List (Access × Place)) : List (Access × Place × List Byte) × Flags :=
  let x := o.xc
  let raw := (List.range 32).map fun j => drainElem x (accElem t.acc x.wide x.tile i j)
  let b := packRow x.pitch (raw.map (·.1))
  ((ps.zipIdx).map fun y => (y.1.1, y.1.2, (b.drop (16 * y.2)).take 16), raw.foldl (fun f y => f ||| y.2) (0 : Flags))

/-- Row `i` of MDRAIN.ADD (R238). What enters the commit buffer does so row by row; everything that is updated directly is updated as a
whole with the last row, so that no access observes a part. The first row settles whether wide pages are buffered (R317): `ctl` holds 1
for directly, 2 for buffered. -/
def drainAddRow (s : State) (t : Team) (gr : Grid) (o : EngOp) (i : Nat) : UnitRes :=
  let x := o.xc
  let g := opGroup t o.grp (o.ctl.getD 0 0)
  let n := x.rowBytes / 16
  let rows := if i = 0 ∨ i = 31 then List.range 32 else [i]
  match engPlaces s t gr g (rows.flatMap fun k => rowAccesses o true k) with
  | .inr c => .fault c
  | .inl all =>
    let mode := if i = 0 then (if drainBuffers gr t then 2 else 1) else o.ctl.getD 1 1
    let kept (y : Access × Place) : Bool := (mode = 2 || t.tk.abortMark) && lrDet gr.lr && treatOf y.1 y.2 == .buffered
    match engGate s t gr (all.filter fun y => !(kept y)) with
    | some r => r
    | none =>
      let at' (k : Nat) : List (Access × Place) := if i = 0 ∨ i = 31 then (all.drop (n * k)).take n else all
      let wide (y : Access × Place × List Byte) : Bool := lrDet gr.lr && treatOf y.1 y.2.1 == .buffered
      let here := addPieces t o i (at' i)
      let bufd := if mode = 2 && !t.tk.abortMark then here.1.filter wide else []
      let dir (k : Nat) : List (Access × Place × List Byte) :=
        let l := (addPieces t o k (at' k)).1
        if t.tk.abortMark || mode = 2 then l.filter fun y => !(wide y) else l
      let es := formEntries (.tileAdd (addTy x)) o.born (bufd.map fun y => ((Lanes.at y.1.addr 0 0).toNat, y.2.2))
      match if es.isEmpty then some s else addEntries s t gr es with
      | none => .full
      | some s =>
        let now := if i = 31 then (List.range 32).flatMap dir else []
        let r := now.foldl (fun (r : State × Flags) y =>
          let z := placeAdd r.1 t x.fmt y.2.1 y.2.2
          (hostDone z.1 (hostLinesOf [(0, y.2.1)]), r.2 ||| z.2)) (s, here.2)
        .ok (updOp r.1 t.ref o.id fun o => { o with prog := i + 1, flags := o.flags ||| r.2, ctl := [o.ctl.getD 0 0, mode] })

/-- Row `i` of MLOAD (R235). -/
def loadRow (s : State) (t : Team) (gr : Grid) (o : EngOp) (i : Nat) : UnitRes :=
  let x := o.xc
  match engPlaces s t gr (opGroup t o.grp (o.ctl.getD 0 0)) (rowAccesses o false i) with
  | .inr c => .fault c
  | .inl ps => match engGate s t gr ps with
    | some r => r
    | none =>
      let y := engRead s t ps
      let v := (unpackRow x.pitch y.2).map fun c => loadElem x.fmt c
      let fl := v.foldl (fun f z => f ||| z.2) (0 : Flags)
      let w := if x.wide then 2 else 1
      let s := updTeam y.1 t.ref fun t =>
        { t with acc := (List.range (32 * w)).foldl (fun a k =>
            let j := if x.wide then k / 2 else k
            let c := (v.getD j (0, 0)).1
            let c := if x.wide then (if k % 2 = 0 then c % 2 ^ 32 else c / 2 ^ 32) else c
            let tile := x.tile + if x.wide then j / 16 else 0
            sparseSet a (1024 * tile + 32 * i + k % 32) c) t.acc }
      .ok (updOp s t.ref o.id fun o => { o with prog := i + 1, flags := o.flags ||| fl })

/-- One row of a transfer that goes row by row. -/
def rowRun (s : State) (r : TeamRef) (id i : Nat) : UnitRes :=
  match teamAt s r, gridAt s r.grid with
  | some t, some gr =>
    match t.eops.find? fun o => o.id == id with
    | some o =>
      match o.kind with
      | .load => loadRow s t gr o i
      | .drain => drainRow s t gr o i
      | _ => drainAddRow s t gr o i
    | none => .wait
  | _, _ => .wait

/-- Rows from `i` on: the state, how many were done, and what stopped it. -/
def rowsRun (r : TeamRef) (id : Nat) : Nat → State → Nat → State × Nat × UnitRes
  | 0, s, k => (s, k, .ok s)
  | n + 1, s, k =>
    match rowRun s r id (31 - n) with
    | .ok s' => rowsRun r id n s' (k + 1)
    | x => (s, k, x)

/-- HEAPCLR (R241) as performed. -/
def heapclrRun (s : State) (t : Team) (o : EngOp) : UnitRes :=
  match poolLocked s t (o.rows.map fun k => (65536 * k.1 + 2048 * k.2, 2048)) true with
  | some c => .fault c
  | none =>
    let s := o.rows.foldl (fun s k => heapWrite s t.ref k (tableOf 256 fun _ => heapSentinel)) s
    let s := if o.ctl.getD 2 0 = 1 then
        updTeam s t.ref fun t => { t with acc := (List.range (o.ctl.getD 1 0)).foldl (fun a k =>
          rowStatePut a (o.tiles.headD 0) (o.ctl.getD 0 0 + k) 0xff800000 0) t.acc }
      else s
    .ok (endOp s t.ref o 0)

/-- ATTNF (R250) as performed: every output element over its row's sum. -/
def attnfRun (s : State) (t : Team) (o : EngOp) : UnitRes :=
  let nq := o.ctl.getD 0 1
  let d := o.ctl.getD 1 1
  let ot := o.tiles.headD 0
  let st := o.ctl.getD 2 0
  let cell (r cb : Nat) (x : Nat) : Nat × Flags :=
    let l := (rowState t.acc st r).2
    let v := accWord t.acc (ot + r / 32 * d + cb) (r % 32) x
    if l = 0 then (0, 0) else fpDiv fmtF32 ⟨.rne, false, false⟩ v l
  let res : List (Nat × List (Nat × Flags)) := (List.range ((nq + 31) / 32 * d)).map fun k =>
    (ot + k, (List.range 1024).map fun x =>
      let r := 32 * (k / d) + x / 32
      if r < nq then cell r (k % d) (x % 32) else (accWord t.acc (ot + k) (x / 32) (x % 32), 0))
  let fl := res.foldl (fun f k => k.2.foldl (fun f y => f ||| y.2) f) (0 : Flags)
  .ok (endOp (updTeam s t.ref fun t => { t with acc := res.foldl (fun a k => accPut a k.1 (k.2.map (·.1))) t.acc }) t.ref o fl)

/-- What an operation of the slices or the tile-transfer unit does next. -/
def opRun (s : State) (t : Team) (o : EngOp) : UnitRes :=
  match o.kind with
  | .mma => mmaRun s t o
  | .zero => .ok (endOp (updTeam s t.ref fun t => { t with acc := o.tiles.foldl (fun a k => accPut a k []) t.acc }) t.ref o 0)
  | .heapclr => heapclrRun s t o
  | .load | .drain | .drainAdd =>
    match rowsRun t.ref o.id (32 - o.prog) s 0 with
    | (s', _, .ok _) =>
      let x := o.xc
      let s' := if x.clr then
          updTeam s' t.ref fun t => { t with acc := (accTiles x.wide x.tile).foldl (fun a k => accPut a k []) t.acc }
        else s'
      let fl := match teamAt s' t.ref with
        | some t => (t.eops.find? fun y => y.id == o.id).elim 0 (·.flags)
        | none => 0
      .ok (endOp s' t.ref o fl)
    | (s', k, .wait) => if k = 0 then .wait else .ok s'
    | (s', k, .full) => if k = 0 then .full else .ok s'
    | (_, _, .ask s') => .ask s'
    | (_, _, .fault c) => .fault c
  | .attnf => attnfRun s t o
  | .attn => .wait

/-- The rows done before an operation's fault (R224: it records its progress). -/
def opProgress (s : State) (t : Team) (o : EngOp) : State :=
  match o.kind with
  | .load | .drain | .drainAdd => (rowsRun t.ref o.id (32 - o.prog) s 0).1
  | _ => s

/-! HEAPCLR, HEAPRD and starts. -/

/-- The heap rows of HEAPCLR. -/
def clrRows (i : Nat) : List (Nat × Nat) :=
  (List.range (bitsOf i 12 6)).map fun k => (bitsOf i 16 13 + (i % 64 + k) / 32, (i % 64 + k) % 32)

/-- HEAPCLR (R241). -/
def execHeapclr (f : RI) (s : State) : Out :=
  issue (.heapclr f) s fun c =>
    let i := f.imm.toNat
    let lsec := abit i 23
    let rows := clrRows i
    let tiles := if lsec = 1 then [bitsOf i 22 17] else []
    transferAct2 c (tileCodes c.t tiles ++ poolCodes c.t (rows.map fun k => (65536 * k.1 + 2048 * k.2, 2048)))
      (newOp c 0 .heapclr tiles rows [i % 64, bitsOf i 12 6, lsec] [] 0)

/-- The heap row a HEAPRD reads. -/
def heaprdRow (i : Nat) : Nat × Nat := (bitsOf i 12 9 + i % 64 / 32, i % 64 % 32)

/-- HEAPRD in its forms (R242): it waits in the queue with its immediate and the query of the lowest active lane. -/
def heaprdAct (c : Ctx) (f : RI) (k : Nat) : Act :=
  let i := f.imm.toNat
  let r := heaprdRow i
  let q := c.av ((lowLane c.act).getD 0) % 2 ^ 32
  match lowestCode (poolCodes c.t [(65536 * r.1 + 2048 * r.2, 2048)] ++ if k = 2 then tileCodes c.t [bitsOf i 18 13] else []) with
  | some code => .trap (causeOf code)
  | none =>
    if c.act = 0 then .go { vec := some fun _ => 0 }
    else if queueFull c.g then .stall
    else .go { vec := some fun _ => 0, lazy := true,
               post := pushAccess c.r (accessOf c c.act f.dst 0 (fun _ => i) fun _ => q) }

/-- HEAPRD (R242). -/
def execHeaprd (f : RI) (s : State) : Out := issue (.heaprd f) s fun c => heaprdAct c f 0
/-- HEAPRD.TOPK (R242). -/
def execHeaprdTopk (f : RI) (s : State) : Out := issue (.heaprdTopk f) s fun c => heaprdAct c f 1
/-- HEAPRD.TOPP (R242). -/
def execHeaprdTopp (f : RI) (s : State) : Out := issue (.heaprdTopp f) s fun c => heaprdAct c f 2

/-- Insert an entry by rank, the highest first. -/
def rankInsert (x : Nat) : List Nat → List Nat
  | [] => [x]
  | y :: l => if heapAbove x y then x :: y :: l else y :: rankInsert x l

/-- The entries of a heap row other than sentinels, sorted by rank. -/
def heapSorted (h : Array Nat) : List Nat := (h.toList.filter fun x => x != heapSentinel).foldl (fun l x => rankInsert x l) []

/-- The cut of .TOPP (R242); none where no prefix reaches p. -/
def toppCut (m l p : Nat) (es : List Nat) : Option Nat :=
  if m = 0xff800000 ∨ l % 2 ^ 31 = 0 ∨ (fmtF32.val l).isNan = true then none
  else
    let step (r : Nat × Option Nat) (x : Nat × Nat) : Nat × Option Nat :=
      match r.2 with
      | some n => (r.1, some n)
      | none =>
        let e := exp2Alg (fmtF32.val (rne32Sub (x.1 % 2 ^ 32) m).1)
        let pr := fpDiv fmtF32 ⟨.rne, false, false⟩ e.1 l
        let c := fpAdd fmtF32 ⟨.rne, false, false⟩ r.1 pr.1
        (c.1, if fvCmp (fmtF32.val c.1) (fmtF32.val p) != .lt && !(fmtF32.val c.1).isNan && !(fmtF32.val p).isNan then
          some (x.2 + 1) else none)
    (es.zipIdx.foldl step (0, none)).2

/-- A HEAPRD that waits in the queue: nothing yet, its fault, or its lanes' values (R242). -/
def heapTry (s : State) (r : GroupRef) (a : Access) : Option State :=
  match teamAt s r.team with
  | none => none
  | some t =>
    let l0 := (lowLane a.lanes).getD 0
    let i := (Lanes.at a.addr l0 0).toNat
    let q := (Lanes.at a.data l0 0).toNat % 2 ^ 32
    let row := heaprdRow i
    let bad (c : Cause) : State := setEntry s r a.tok fun x => { x with fault := some c }
    let ovf : Cause := ⟨tcSampleovf, 0, 0, 0, 0⟩
    if a.fault.isSome || t.eops.any fun o => o.rows.contains row && decide (o.born < a.born) then none
    else match poolLocked s t [(65536 * row.1 + 2048 * row.2, 2048)] false with
      | some c => some (bad c)
      | none =>
        let es := heapSorted (heapRead t row)
        let st := rowState t.acc (bitsOf i 18 13) (i % 64)
        let cut : Option Nat :=
          if a.sub = 0 then some es.length
          else if a.sub = 1 then (if 256 < q then none else some (min q es.length))
          else toppCut st.1 st.2 q es
        match cut with
        | none => some (bad ovf)
        | some n => some (observeAt (finishLanes s r a a.lanes fun l =>
            let k := 32 * bitsOf i 8 6 + l
            if k < n then es.getD k heapSentinel else heapSentinel) t.core)

/-- The tile transfer a core starts next: the oldest, while none runs (R438). -/
def nextTransfer (s : State) (core : Nat) : Option EngOp :=
  let l := (coreOps s core).filter fun o => o.kind.isTransfer
  if l.any fun o => o.started then none
  else l.foldl (fun r o => match r with | some x => if o.id < x.id then some o else some x | none => some o) none

def canTileTransferStart (s : State) (r : TeamRef) : Bool :=
  match teamAt s r with
  | some t => match nextTransfer s t.core with
    | some o => !(coreHeld s t) && (t.eops.any fun x => x.id == o.id) && opFree t o
    | none => false
  | none => false
/-- TILE_TRANSFER_START (R438). -/
def execTileTransferStart (t : TeamRef) (s : State) : Out :=
  event s (canTileTransferStart s t) fun s =>
    match (teamAt s t).bind fun x => nextTransfer s x.core with
    | some o => updOp s t o.id fun o => { o with started := true }
    | none => s

end Sys2Proof.Machine
end

