-- ==== Sys2Proof/Machine/Tree.lean ====
section
/-! DEFINITION. The token trees of the Milliner (R341 to R357): every request as a function of one pool's state. -/

namespace Sys2Proof.Machine

/-- A value by key in a short association list, 0 when absent. -/
def assocGet (l : List (Nat × Nat)) (k : Nat) : Nat :=
  match l.find? fun x => x.1 == k with
  | some x => x.2
  | none => 0

/-- Set a value by key; zeros are not listed. -/
def assocSet (l : List (Nat × Nat)) (k v : Nat) : List (Nat × Nat) :=
  let l := l.filter fun x => x.1 != k
  if v = 0 then l else (k, v) :: l

/-- Status codes of R349. -/
def ttMiss : Nat := 0xffffffff
def ttBusy : Nat := 0xfffffffe
def ttRefused : Nat := 0xfffffffd

/-- The generation of an index (R341). -/
def poolGen (p : Pool) (i : Nat) : Nat := assocGet p.gens i

/-- The id of an index (R341). -/
def nodeId (p : Pool) (i : Nat) : Nat := poolGen p i * 2 ^ 24 + i

/-- R341: an index out of range or generation 255. -/
def idMalformed (p : Pool) (a : Nat) : Bool := decide (p.nnode ≤ a % 2 ^ 24) || a / 2 ^ 24 % 256 == 255

/-- The node with an index, whatever its state. -/
def nodeAt (p : Pool) (i : Nat) : Option Node := p.nodes.find? fun n => n.idx == i

/-- The live node a well-formed id names (R341); none for a stale id. -/
def nodeOf (p : Pool) (a : Nat) : Option Node :=
  match nodeAt p (a % 2 ^ 24) with
  | some n => if n.st != .dying && poolGen p n.idx == a / 2 ^ 24 % 256 then some n else none
  | none => none

def nodePut (p : Pool) (n : Node) : Pool := { p with nodes := n :: p.nodes.filter fun x => x.idx != n.idx }

/-- RECOMPUTE of R343. -/
def nodeRecompute (n : Node) : Node :=
  { n with st :=
      if n.children = 0 ∧ 1 ≤ n.attach + n.pin then .opened
      else if 1 ≤ n.children then .closed
      else .cached }

def prefGet (p : Pool) (g : Nat) : Nat := assocGet p.pref g
def prefSet (p : Pool) (g v : Nat) : Pool := { p with pref := assocSet p.pref g v }

/-- Pop the page stack (R344); the caller has checked the free count. -/
def popPage (p : Pool) : Nat × Pool :=
  match p.pageStack with
  | g :: r => (g, { p with pageStack := r })
  | [] => (p.freshPage, { p with freshPage := p.freshPage + 1 })

/-- Pop the node stack; none when it is empty. -/
def popNode (p : Pool) : Option (Nat × Pool) :=
  match p.nodeStack with
  | i :: r => some (i, { p with nodeStack := r })
  | [] => if p.freshNode < p.nnode then some (p.freshNode, { p with freshNode := p.freshNode + 1 }) else none

/-- The page size in bytes (R338). -/
def poolPageBytes (p : Pool) : Nat := 16 * 2 ^ (12 + p.bppLog)
def poolBpp (p : Pool) : Nat := 2 ^ (12 + p.bppLog)

/-- What a request answers: a value, a trap, or a value delivered when the pages of a prune have returned (R359). -/
inductive TreeReply where
  | val (d : Nat)
  | trap (code info : Nat)
  | onReturn (d : Nat) (batches : List (List Nat × List Nat))
  deriving DecidableEq, Repr

/-- A request's outcome: the pool, the reply, a copy of the first bytes of one page into another (R352), and the ids that
became stale (R359). -/
structure TreeOut where
  pool : Pool
  reply : TreeReply
  copy : Option (Nat × Nat × Nat)
  pruned : List Nat
  deriving DecidableEq, Repr

def treeTtbad : Nat := 0x1b
def treeTtfull : Nat := 0x1a

def treeGives (p : Pool) (d : Nat) : TreeOut := ⟨p, .val d, none, []⟩
def treeTrap (p : Pool) (code info : Nat) : TreeOut := ⟨p, .trap code info, none, []⟩

/-- TTFORK (R351). -/
def treeFork (p : Pool) (a : Nat) : TreeOut :=
  let make (y : Option Node) : TreeOut :=
    match popNode p with
    | none => treeTrap p treeTtfull 1
    | some (x, p) =>
      let start := match y with | some n => n.fin | none => 0
      let last : Option Nat := match y with
        | some n => if start % 16 = 0 then none else n.pages.getLast?
        | none => none
      let p := match y with
        | some n => nodePut p (nodeRecompute { n with children := n.children + 1 })
        | none => p
      let p := match last with
        | some g => prefSet p g (prefGet p g + 1)
        | none => p
      let depth := match y with | some n => n.depth + 1 | none => 1
      let chain := (match y with | some n => n.chain | none => []) ++ [x]
      let p := nodePut p ⟨x, .opened, start, start, y.map (·.idx), depth, chain, last.toList, 0, 1, 0⟩
      treeGives p (nodeId p x)
  if a = 0xffffffff then make none
  else if idMalformed p a then treeTrap p treeTtbad 1
  else match nodeOf p a with
    | none => treeGives p ttMiss
    | some y => if y.st == .cached || y.depth == 64 || y.children == 65535 then treeTrap p treeTtbad 2 else make (some y)

/-- Append `n` fresh pages to a node, each with count 1. -/
def takePages : Nat → Pool → List Nat → Pool × List Nat
  | 0, p, l => (p, l)
  | n + 1, p, l =>
    let (g, p) := popPage p
    takePages n (prefSet p g 1) (l ++ [g])

/-- TTAPPEND (R352). -/
def treeAppend (p : Pool) (a b : Nat) (adm : Bool) : TreeOut :=
  if idMalformed p a then treeTrap p treeTtbad 1
  else match nodeOf p a with
    | none => treeGives p ttMiss
    | some x =>
      if x.st != .opened then treeTrap p treeTtbad 2
      else if b = 0 || decide (65536 < b) || decide (2 ^ 24 ≤ x.fin + b) then treeTrap p treeTtbad 3
      else
        let e := x.fin
        let e2 := e + b
        let last := x.pages.getLast?
        let cow := match last with
          | some g => e % 16 != 0 && decide (1 < prefGet p g)
          | none => false
        let grow := (e2 + 15) / 16 - (e + 15) / 16
        let need := grow + b2n cow
        if adm && decide ((p.free : Int) - need < p.reserve) then treeGives p ttRefused
        else if p.free < need then treeTrap p treeTtfull 0
        else
          let (p, x, copy) :=
            match cow, last with
            | true, some g =>
              let (q, p) := popPage p
              let p := prefSet (prefSet p g (prefGet p g - 1)) q 1
              (p, { x with pages := x.pages.dropLast ++ [q] }, some (g, q, (e % 16) * poolBpp p))
            | _, _ => (p, x, none)
          let (p, pages) := takePages grow p x.pages
          let p := nodePut { p with free := p.free - need } { x with pages := pages, fin := e2 }
          ⟨p, .val e, copy, []⟩

/-- Node `z` lies in the subtree of `x` (R342, R353). -/
def inSubtree (x z : Node) : Bool := decide (x.depth ≤ z.depth) && z.chain.getD (x.depth - 1) 0 == x.idx

/-- Insert into a descending list. -/
def insertDesc (x : Nat) : List Nat → List Nat
  | [] => [x]
  | y :: l => if y < x then x :: y :: l else y :: insertDesc x l

/-- Drop one reference to each page of a list: the pages whose count reaches 0, in descending order (R344). -/
def dropPages : List Nat → Pool → List Nat → Pool × List Nat
  | [], p, f => (p, f)
  | g :: r, p, f =>
    let v := prefGet p g - 1
    dropPages r (prefSet p g v) (if v = 0 then insertDesc g f else f)

/-- Remove the subtree of `x` (R353, steps 1 of R359): the pool, the freed pages and node indices in push order, and the ids
that became stale. -/
def pruneSubtree (p : Pool) (x : Node) : Pool × (List Nat × List Nat) × List Nat :=
  let s := p.nodes.filter fun z => z.st != .dying && inSubtree x z
  let ids := s.map fun z => nodeId p z.idx
  let (p, f) := dropPages (s.flatMap (·.pages)) p []
  let p := { p with nodes := p.nodes.map fun z =>
    if z.st != .dying && inSubtree x z then { z with st := .dying } else z }
  let p := match x.parent with
    | some y => match nodeAt p y with
      | some n => if n.st == .dying then p else nodePut p (nodeRecompute { n with children := n.children - 1 })
      | none => p
    | none => p
  (p, (f, s.foldl (fun l z => insertDesc z.idx l) []), ids)

/-- TTPRUNE (R353). -/
def treePrune (p : Pool) (a : Nat) : TreeOut :=
  if idMalformed p a then treeTrap p treeTtbad 1
  else match nodeOf p a with
    | none => treeGives p ttMiss
    | some x =>
      let (p, b, ids) := pruneSubtree p x
      ⟨p, .onReturn b.1.length [b], none, ids⟩

/-- Prune a list of nodes by index, one after another. -/
def pruneAll : List Nat → Pool → List (List Nat × List Nat) → List Nat →
    Pool × List (List Nat × List Nat) × List Nat
  | [], p, bs, ids => (p, bs, ids)
  | i :: r, p, bs, ids =>
    match nodeAt p i with
    | some x =>
      let (p, b, js) := pruneSubtree p x
      pruneAll r p (bs ++ [b]) (ids ++ js)
    | none => pruneAll r p bs ids

/-- Ascending order by insertion. -/
def sortAsc (l : List Nat) : List Nat := (l.foldl (fun acc x => insertDesc x acc) []).reverse

/-- TTCOMMIT (R354). The pruned siblings are taken by path node and ascending index. -/
def treeCommit (p : Pool) (a b : Nat) : TreeOut :=
  if idMalformed p a || idMalformed p b then treeTrap p treeTtbad 1
  else match nodeOf p a, nodeOf p b with
    | some x, some y =>
      if y.depth < x.depth || y.chain.getD (x.depth - 1) 0 != x.idx then treeTrap p treeTtbad 2
      else
        let path := y.chain.drop (x.depth - 1)
        let inner := path.dropLast
        let unheld := inner.any fun i => match nodeAt p i with | some n => n.attach == 0 | none => true
        if unheld then treeTrap p treeTtbad 2
        else
          let others := (inner.zip path.tail).flatMap fun (i, nxt) =>
            sortAsc ((p.nodes.filter fun z => z.st != .dying && z.parent == some i && z.idx != nxt).map (·.idx))
          let (p, bs, ids) := pruneAll others p [] []
          let p := inner.foldl (fun p i => match nodeAt p i with
            | some n => nodePut p (nodeRecompute { n with attach := n.attach - 1 })
            | none => p) p
          ⟨p, .onReturn (bs.foldl (fun s q => s + q.1.length) 0) bs, none, ids⟩
    | _, _ => treeGives p ttMiss

/-- The adjustments of TTREF (R355). -/
inductive RefOp where
  | attach | detach | pin | unpin | evict
  deriving DecidableEq, Repr

def treeRef (p : Pool) (k : RefOp) (a : Nat) : TreeOut :=
  if idMalformed p a then treeTrap p treeTtbad 1
  else match nodeOf p a with
    | none => treeGives p ttMiss
    | some x =>
      let adjust (ok : Bool) (x : Node) : TreeOut :=
        if ok then treeGives (nodePut p (nodeRecompute x)) 0 else treeTrap p treeTtbad 2
      match k with
      | .attach => adjust (decide (x.attach < 65535)) { x with attach := x.attach + 1 }
      | .detach => adjust (decide (1 ≤ x.attach)) { x with attach := x.attach - 1 }
      | .pin => adjust (decide (x.pin < 65535)) { x with pin := x.pin + 1 }
      | .unpin => adjust (decide (1 ≤ x.pin)) { x with pin := x.pin - 1 }
      | .evict =>
        if x.st == .cached then
          let (p, b, ids) := pruneSubtree p x
          ⟨p, .onReturn b.1.length [b], none, ids⟩
        else treeGives p ttBusy

/-- The STATE code of R356. -/
def stateCode : NodeState → Nat
  | .opened => 1
  | .closed => 2
  | .cached => 3
  | .dying => 4

/-- TTQUERY.STATE (R356): the quad. -/
def treeState (p : Pool) (a : Nat) : TreeOut :=
  if idMalformed p a then treeTrap p treeTtbad 1
  else match nodeOf p a with
    | some x => treeGives p (stateCode x.st + (x.depth - 1) * 8 + x.children * 2 ^ 16 + x.start * 2 ^ 32 + x.fin * 2 ^ 64
        + (x.attach + x.pin * 2 ^ 16) * 2 ^ 96)
    | none => match nodeAt p (a % 2 ^ 24) with
      | some x => treeGives p (if x.st == .dying then 4 else 0)
      | none => treeGives p 0

/-- The node of `x`'s path that holds a position (R357). -/
def nodeHolding (p : Pool) (x : Node) (b : Nat) : Option Node :=
  (x.chain.filterMap (nodeAt p)).reverse.find? fun y => decide (y.start ≤ b)

/-- The virtual address of a position's record (R338, R357). -/
def positionAddr (p : Pool) (x : Node) (b : Nat) : Nat :=
  match nodeHolding p x b with
  | some y => p.arena + poolPageBytes p * y.pages.getD (b / 16 - y.start / 16) 0 + (b % 16) * poolBpp p
  | none => 0

/-- TTWALK (R357). -/
def treeWalk (p : Pool) (a b : Nat) : TreeOut :=
  if idMalformed p a then treeTrap p treeTtbad 1
  else match nodeOf p a with
    | none => treeGives p 0xffffffffffffffff
    | some x => if x.fin ≤ b then treeTrap p treeTtbad 5 else treeGives p (positionAddr p x b % 2 ^ 64)

/-- R358: `x` is an ancestor-or-self of `q`. -/
def isAncestor (x q : Node) : Bool := decide (x.depth ≤ q.depth) && q.chain.getD (x.depth - 1) 0 == x.idx

/-- Return the batches of a prune (R359 step 3): pages and indices are pushed, generations advance. -/
def returnBatch (p : Pool) (b : List Nat × List Nat) : Pool :=
  let p := { p with pageStack := b.1.foldl (fun s g => g :: s) p.pageStack, free := p.free + b.1.length }
  b.2.foldl (fun p i =>
    { p with
      nodes := p.nodes.filter fun z => z.idx != i
      gens := assocSet p.gens i ((poolGen p i + 1) % 255)
      nodeStack := i :: p.nodeStack }) p

end Sys2Proof.Machine
end

