-- ==== Sys2Proof/Machine/Gauntlet.lean ====
section
/-! DEFINITION. The Gauntlet: attention operations and their final division (R245 to R251, R358), opcodes 0xd8 and 0xd9, and the
events that complete or stop engine operations (R223, R224). -/

namespace Sys2Proof.Machine

/-- An attention descriptor (R245). -/
structure Atd where
  qmap : Nat
  otile : Nat
  stile : Nat
  nq : Nat
  dlog : Nat
  init : Bool
  kvhead : Nat
  pool : Nat
  knode : Nat
  tag : Nat
  scale : Nat
  kstart : Nat
  klen : Nat
  arrive : Nat
  qpos0 : Nat
  qtab : Nat
  reserved : Bool

/-- The descriptor's fields from its 32 words. -/
def Atd.of (w : List Nat) : Atd :=
  let g (k : Nat) : Nat := w.getD k 0
  { qmap := bitsOf (g 0) 3 0, otile := bitsOf (g 0) 9 4, stile := bitsOf (g 0) 15 10, nq := bitsOf (g 0) 22 16
    dlog := bitsOf (g 0) 25 23, init := abit (g 0) 26 == 1, kvhead := bitsOf (g 1) 15 0, pool := g 2, knode := g 3, tag := g 4
    scale := g 5, kstart := g 6, klen := g 7, arrive := g 8, qpos0 := g 9, qtab := g 10
    reserved := bitsOf (g 0) 31 27 != 0 || bitsOf (g 1) 31 16 != 0 || (w.drop 11).any fun x => x != 0 }

/-- Head dimension, and tiles of one group of 32 rows. -/
def Atd.d (a : Atd) : Nat := 32 * 2 ^ a.dlog
def Atd.dt (a : Atd) : Nat := 2 ^ a.dlog
/-- The output tiles. -/
def Atd.outs (a : Atd) : List Nat := (List.range ((a.nq + 31) / 32 * a.dt)).map fun k => a.otile + k
/-- Output and scratch tiles. -/
def Atd.tiles (a : Atd) : List Nat := a.outs ++ [a.stile]

/-- The mode's code: .TREE 0, .CAUSAL 1, .NONE 2. -/
def maskCode : AttnMask → Nat
  | .tree => 0
  | .causal => 1
  | .none => 2

/-- The row table of .TREE: node ids and positions. -/
def rowTable (t : Team) (a : Atd) (k : AttnMask) : List (Nat × Nat) :=
  if k == .tree then (List.range a.nq).map fun r => (poolNat t (a.qtab + 8 * r) 4, poolNat t (a.qtab + 8 * r + 4) 4) else []

/-- A KV pool of a partition (R336). -/
def poolOf (s : State) (p k : Nat) : Option Pool := ((partOf s p).pools.find? fun x => x.1 == k).map (·.2)

/-- The INFO values of TTBAD that an attention descriptor meets (R350, R358). -/
def attnBad (s : State) (part : Nat) (a : Atd) (q : TileMap) (rows : List (Nat × Nat)) : List Nat :=
  match poolOf s part a.pool with
  | none => [4]
  | some p =>
    (if idMalformed p a.tag || idMalformed p a.knode || rows.any fun r => idMalformed p r.1 then [1] else [])
      ++ (if some q.fmt != Ty.ofCode p.fmt || p.nhead < a.kvhead || p.dlog != a.dlog then [3] else [])
      ++ (match nodeOf p a.knode with
        | some x => if x.fin < a.kstart + a.klen then [5] else []
        | none => [])

/-- A tag, key node or row node is stale at the issue (R358). -/
def attnStale (s : State) (part : Nat) (a : Atd) (rows : List (Nat × Nat)) : Bool :=
  match poolOf s part a.pool with
  | some p => (nodeOf p a.tag).isNone || (nodeOf p a.knode).isNone || rows.any fun r => (nodeOf p r.1).isNone
  | none => false

/-- The Q map fits its operation (R245). -/
def attnMapOk (m : Nat) (a : Atd) : Bool :=
  let q := TileMap.ofNat m
  q.ok && !mapReserved m && [Ty.bf16, .f16, .e4m3, .e5m2].contains q.fmt && !q.trans && decide (a.nq ≤ q.rows) && q.cols == a.d

/-- The planes of Q for the rows used. -/
def attnRuns (q : TileMap) (nq : Nat) : List (Nat × Nat) := ({ q with rows := nq } : TileMap).runs

/-- The operations of a core's Gauntlet, oldest first (R438). -/
def gauntletOps (s : State) (core : Nat) : List EngOp :=
  ((coreOps s core).filter fun o => o.kind.isGauntlet).foldl (fun l o =>
    (l.filter fun y => decide (y.id ≤ o.id)) ++ [o] ++ l.filter fun y => decide (o.id < y.id)) []

/-- The four places of the queue are taken. -/
def gauntletFull (s : State) (core : Nat) : Bool := decide (4 ≤ (gauntletOps s core).length)

/-- ATTN (R245). -/
def execAttn (k : AttnMask) (f : RRR) (s : State) : Out :=
  issue (.attn k f) s fun c =>
    if c.act = 0 then .go {}
    else
      let off := c.av ((lowLane c.act).getD 0) % 2 ^ 32
      let locked (l : List (Nat × Nat)) : List Nat := if (poolLocked c.s c.t l false).isSome then [tcLockhit] else []
      match lowestCode ((if off % 128 = 0 then [] else [tcAlign]) ++ poolCodes c.t [(off, 128)] ++ locked [(off, 128)]) with
      | some code => .trap (causeOf code)
      | none =>
        if c.g.queue.any fun a => isWindowOp a.opc && !isReadOp a.opc then .stall
        else
        let w := (List.range 32).map fun i => poolNat c.t (off + 4 * i) 4
        let a := Atd.of w
        let m := mapOf c.t a.qmap
        let q := TileMap.ofNat m
        if a.reserved || a.nq = 0 || decide (64 < a.nq) || a.klen = 0 || decide (65536 < a.klen) || a.kstart % 64 != 0
            || decide (3 < a.dlog) || !(attnMapOk m a) then .trap (causeOf tcIllfmt)
        else
          match lowestCode (tileCodes c.t a.tiles ++ poolCodes c.t (attnRuns q a.nq)
              ++ (if k == .tree then poolCodes c.t [(a.qtab, 8 * a.nq)] ++ locked [(a.qtab, 8 * a.nq)] else [])
              ++ (match windowPlace c.s c.gr c.r.team.lin a.arrive 8 with | .inr e => [e] | .inl _ => [])) with
          | some code => .trap (causeOf code)
          | none =>
            let rows := rowTable c.t a k
            match lowestCode (attnBad c.s c.t.part a q rows) with
            | some info => .trap (causeInfo tcTtbad info)
            | none =>
              if gauntletFull c.s c.t.core then .stall
              else
                let o := newOp c 0 .attn a.tiles [] [maskCode k] (w ++ [m] ++ rows.flatMap fun r => [r.1, r.2]) 0
                pushOps c [{ o with cancelled := attnStale c.s c.t.part a rows }]

/-- ATTNF (R250): `ctl` holds NQ, D/32 and the scratch tile. -/
def execAttnf (f : RI) (s : State) : Out :=
  issue (.attnf f) s fun c =>
    let i := f.imm.toNat
    let nq := bitsOf i 17 12 + 1
    let d := 2 ^ bitsOf i 19 18
    let tiles := ((List.range ((nq + 31) / 32 * d)).map fun k => i % 64 + k) ++ [bitsOf i 11 6]
    match lowestCode (tileCodes c.t tiles) with
    | some k => .trap (causeOf k)
    | none =>
      if c.act = 0 then .go {}
      else if gauntletFull c.s c.t.core then .stall
      else pushOps c [newOp c 0 .attnf tiles [] [nq, d, bitsOf i 11 6] [] 0]

/-! Performing an attention operation. -/

def EngOp.atd (o : EngOp) : Atd := Atd.of (o.words.take 32)
/-- Node and position of query row `r` (R246). -/
def EngOp.queryRow (o : EngOp) (r : Nat) : Nat × Nat :=
  let a := o.atd
  if o.ctl.headD 0 = 0 then (o.words.getD (33 + 2 * r) 0, o.words.getD (34 + 2 * r) 0) else (a.tag, a.qpos0 + r)

/-- Key `p`, held by node `y`, is allowed for row `r` (R246). -/
def keyAllowed (pl : Pool) (o : EngOp) (y : Option Node) (r p : Nat) : Bool :=
  let a := o.atd
  let q := o.queryRow r
  decide (a.kstart ≤ p) && decide (p < a.kstart + a.klen) &&
    (match o.ctl.headD 0 with
      | 0 => decide (p ≤ q.2) && (match y, nodeOf pl q.1 with | some y, some x => isAncestor y x | _, _ => false)
      | 1 => decide (p ≤ q.2)
      | _ => true)

/-- What a fetch of key and value vectors answers: a fault with its address, the host lines it waits for (none of them where it waits for the
side log or the share), or the vectors. -/
inductive KvGot where
  | fault (code va : Nat)
  | wait (lacks : List (Nat × Nat))
  | ok (k v : List Nat)

/-- Bytes that an engine of a core reads at a virtual address, translated for its cluster (R257) and past what the core's own threads
wrote before (R304); or the first fault with its address. -/
def coreReadBy (rd : Nat → Nat → Byte) (s : State) (t : Team) (va n : Nat) : List Byte ⊕ (Nat × Nat) :=
  (virtPieces va n).foldl (fun r x =>
    match r, xlate s t.part t.core x.1 1 with
    | .inr e, _ => .inr e
    | .inl _, .err c => .inr (c, x.1)
    | .inl b, .ok pa share _ => .inl (b ++ (List.range x.2.2).map fun i => rd share (pa + i))) (.inl [])
@[inherit_doc coreReadBy] def coreRead (s : State) (t : Team) (va n : Nat) : List Byte ⊕ (Nat × Nat) :=
  coreReadBy (fun _ pa => rdEngine s t.core pa) s t va n
/-- The same by a plain load: a stale guest copy is what the core's threads read too (R288, R299, R348). -/
def coreLoad (s : State) (t : Team) (va n : Nat) : List Byte ⊕ (Nat × Nat) :=
  coreReadBy (fun share pa => if (s.l1.any fun l => l.core == t.core && l.pline == pa / 128 && l.dirty.getD (pa % 128) false) then
    rdEngine s t.core pa else rdFrom s t.core share pa) s t va n

/-- The host lines that a core's read still lacks (R394, R435). -/
def coreLacks (s : State) (t : Team) (va n : Nat) : List (Nat × Nat) :=
  (List.range ((va % 64 + n + 63) / 64)).filterMap fun k =>
    match xlate s t.part t.core ((va / 64 + k) * 64 % 2 ^ 64) 1 with
    | .ok pa share _ => if (region pa == some 2 || share == shSystem) && !(hostReady s share pa .load) then some (share, pa) else none
    | .err _ => none

/-- Where the vectors of a position stand for the operation's head (R338), and their bytes. -/
def kvPlace (pl : Pool) (x : Node) (a : Atd) (fmt : Ty) (p : Nat) : Nat × Nat :=
  let n := 2 * a.d * (fmt.bits / 8)
  (positionAddr pl x p + n * a.kvhead, n)

/-- The key and value vectors of a position for the operation's head (R338, R358), with the stores that the team's share holds (R321); or the
access that would fault (R224), or what it waits for: the side log (R262), a reduction of the share (R321) or host lines (R435). -/
def kvFetch (s : State) (t : Team) (pl : Pool) (x : Node) (a : Atd) (fmt : Ty) (p : Nat) : KvGot :=
  let es := fmt.bits / 8
  let (va, n) := kvPlace pl x a fmt p
  if lockedAt s t.core t.part none (signed 64 va) n false then .fault tcLockhit va
  else match coreRead s t va n with
    | .inl b =>
      let lacks := coreLacks s t va n
      let b := (b.zipIdx).map fun y => shareByte t (va + y.2) y.1
      let e (k : Nat) : Nat := ofBytes ((b.drop (es * k)).take es)
      if ((slogOf s t.core).any fun y => slogTouches y va n) || shareHolds t va n then .wait []
      else if !lacks.isEmpty then .wait lacks
      else .ok ((List.range a.d).map e) ((List.range a.d).map fun k => e (a.d + k))
    | .inr e => .fault e.1 e.2

/-- The state of one row: m, l and O (R247). -/
structure RowAcc where
  m : Nat
  l : Nat
  o : List Nat
  fl : Flags

/-- Score of a row and a key: exact chunks from +0, then the scale (R247). -/
def attnScore (fm : Fmt) (kc scale : Nat) (q k : List Nat) : Nat × Flags :=
  let n := min kc q.length
  let x := accChunks fmtF32 n (0, 0) ((q.zip k).map fun y => (fm.val y.1, fm.val y.2))
  let z := fpMul fmtF32 ⟨.rne, false, false⟩ x.1 scale
  (z.1, x.2 ||| z.2)

/-- One row's step over a block: scores where a key is allowed, and the value vectors (R247). -/
def attnRow (fmt : Ty) (kc scale : Nat) (q : List Nat) (keys : List (Option (List Nat × List Nat))) (x : RowAcc) : RowAcc :=
  let fm := Ty.fmt fmt
  let sc : List (Option (Nat × Flags)) := keys.map fun k => k.map fun y => attnScore fm kc scale q y.1
  let ss := sc.map fun y => match y with | some z => z.1 | none => 0xff800000
  let mx := maxOf ss
  let m1 := fpMinMax fmtF32 true false x.m mx.1
  let corr := corrOf x.m m1.1
  let ps : List (Nat × Flags) := sc.map fun y => match y with
    | some z => if m1.1 = 0xff800000 then (0, 0) else corrOf z.1 m1.1
    | none => (0, 0)
  let l0 := fpMul fmtF32 ⟨.rne, false, false⟩ x.l corr.1
  let l1 := ps.foldl (fun (r : Nat × Flags) p =>
    let z := fpAdd fmtF32 ⟨.rne, false, false⟩ r.1 p.1
    (z.1, r.2 ||| p.2 ||| z.2)) l0
  let pv := ps.map fun p => cvtCode fmt .f32 .rne false p.1
  let os := (x.o.zipIdx).map fun y =>
    let z := fpMul fmtF32 ⟨.rne, false, false⟩ y.1 corr.1
    accChunks fmtF32 kc z ((pv.zip keys).map fun p =>
      (fm.val p.1.1, match p.2 with | some kv => fm.val (kv.2.getD y.2 0) | none => .zero false))
  let orAll (f : Flags) (l : List (Nat × Flags)) : Flags := l.foldl (fun f y => f ||| y.2) f
  { m := m1.1, l := l1.1, o := os.map (·.1)
    fl := orAll (orAll (sc.foldl (fun f y => f ||| (match y with | some z => z.2 | none => 0))
      (x.fl ||| mx.2 ||| m1.2 ||| corr.2 ||| l1.2)) pv) os }

/-- The keys of a block that some row admits, or what stops the fetch. -/
def attnFetch (s : State) (t : Team) (pl : Pool) (x : Node) (o : EngOp) (fmt : Ty) (b : Nat) :
    List (Option (List Nat × List Nat)) ⊕ KvGot :=
  let a := o.atd
  (List.range 64).foldl (fun r k =>
    match r with
    | .inr e => .inr e
    | .inl l =>
      let p := 64 * b + k
      let y := nodeHolding pl x p
      if (List.range a.nq).any fun i => keyAllowed pl o y i p then
        match kvFetch s t pl x a fmt p with
        | .ok kk vv => .inl (l ++ [some (kk, vv)])
        | e => .inr e
      else .inl (l ++ [none])) (.inl [])

/-- The rows at the start: from the tiles, or new (ATD.INIT). -/
def attnStart (t : Team) (a : Atd) (new : Bool) : List RowAcc :=
  (List.range a.nq).map fun r =>
    if new then { m := 0xff800000, l := 0, o := List.replicate a.d 0, fl := 0 }
    else
      let st := rowState t.acc a.stile r
      { m := st.1, l := st.2
        o := (List.range a.d).map fun c => accWord t.acc (a.otile + r / 32 * a.dt + c / 32) (r % 32) (c % 32), fl := 0 }

/-- Write the rows back to the output and scratch tiles (R245). -/
def attnStore (acc : Sparse) (a : Atd) (rows : List RowAcc) : Sparse :=
  let acc := (a.outs.zipIdx).foldl (fun acc y =>
    accPut acc y.1 ((List.range 1024).map fun x =>
      let r := 32 * (y.2 / a.dt) + x / 32
      match rows[r]? with
      | some w => w.o.getD (32 * (y.2 % a.dt) + x % 32) 0
      | none => accWord acc y.1 (x / 32) (x % 32))) acc
  (rows.zipIdx).foldl (fun acc y => rowStatePut acc a.stile y.2 y.1.m y.1.l) acc

/-- The operation ends with its bytes added to the arrival word (R249). -/
def attnEnd (s : State) (t : Team) (gr : Grid) (o : EngOp) (acc : Sparse) (fl : Flags) : State :=
  let a := o.atd
  let s := updTeam s t.ref fun t => { t with acc := acc }
  endOp (arwAddAt s gr t.ref.lin a.arrive (a.nq * a.d * 4) o.cancelled) t.ref o fl

/-- The budget units of one key block (R243, R248): its quarter operations run in fused passes of four, each charged as a pass that reads
Q first (log entry 36). -/
def attnCharge (t : Team) (a : Atd) (q : TileMap) : Nat :=
  let kop := (pairK q.fmt q.fmt).elim 1 (·.1)
  let n := (a.nq + 31) / 32 * (2 * ((a.d + kop - 1) / kop) + a.dt * ((64 + kop - 1) / kop))
  (n + 3) / 4 * occupancy q.fmt false true * (16 + toggles t q)

/-- The rows after key block `b` (R247), or what stops it. -/
def attnBlock (s : State) (t : Team) (pl : Pool) (x : Node) (o : EngOp) (q : TileMap) (b : Nat) (rows : List RowAcc) : List RowAcc ⊕ KvGot :=
  let a := o.atd
  let kc := if q.fmt == .bf16 || q.fmt == .f16 then 16 else 64
  let qs := (List.range a.nq).map fun r => (List.range a.d).map fun c => q.at (poolByte t) r c
  match attnFetch s t pl x o q.fmt b with
  | .inr e => .inr e
  | .inl keys => .inl ((rows.zip qs).zipIdx.map fun y =>
    let mine := (keys.zipIdx).map fun k =>
      let p := 64 * b + k.2
      if keyAllowed pl o (nodeHolding pl x p) y.2 p then k.1 else none
    attnRow q.fmt kc a.scale y.1.2 mine y.1.1)

/-- The translations that a key block used enter the cluster's TLB (R257). -/
def attnTlb (s : State) (t : Team) (pl : Pool) (x : Node) (o : EngOp) (fmt : Ty) (b : Nat) : State :=
  let a := o.atd
  (List.range 64).foldl (fun s k =>
    let p := 64 * b + k
    if (List.range a.nq).any fun i => keyAllowed pl o (nodeHolding pl x p) i p then
      (virtPieces (kvPlace pl x a fmt p).1 (kvPlace pl x a fmt p).2).foldl (fun s y => tlbFill s t.part t.core y.1) s
    else s) s

/-- Key blocks from the operation's progress on (R224, R243, R247): the state, the rows, the blocks done, and what stopped it. -/
def attnBlocks (t : Team) (pl : Pool) (x : Node) (o : EngOp) (q : TileMap) : Nat → State → List RowAcc → Nat → State × List RowAcc × Nat × UnitRes
  | 0, s, rows, k => (s, rows, k, .ok s)
  | n + 1, s, rows, k =>
    let b := o.atd.kstart / 64 + k
    match budgetLeft s t [o] (attnCharge t o.atd q) with
    | none => (s, rows, k, .wait)
    | some left => match attnBlock s t pl x o q b rows with
      | .inl rows => attnBlocks t pl x o q n (updCoreRegs (attnTlb s t pl x o q.fmt b) t.core fun c => { c with remaining := left }) rows (k + 1)
      | .inr (.fault code va) => (s, rows, k, .fault (engCause code 0 va))
      | .inr (.wait l) => (s, rows, k, if l.all fun y => hostAsked s y.2 then .wait else .ask (l.foldl (fun s y => hostAsk s y.1 y.2 .load) s))
      | .inr (.ok ..) => (s, rows, k, .wait)

/-- What is done of an operation, in its tiles: the next block starts from there (R224, R251). -/
def attnKeep (s : State) (t : Team) (o : EngOp) (rows : List RowAcc) (k : Nat) : State :=
  if k = o.prog then s
  else updOp (updTeam s t.ref fun t => { t with acc := attnStore t.acc o.atd rows }) t.ref o.id fun o =>
    { o with prog := k, started := true, flags := rows.foldl (fun f r => f ||| r.fl) o.flags }

/-- The key blocks of an operation that starts or goes on, with the pool and the node it reads. -/
def attnGo (s : State) (t : Team) (o : EngOp) (pl : Pool) (x : Node) : State × List RowAcc × Nat × UnitRes :=
  let a := o.atd
  attnBlocks t pl x o (TileMap.ofNat (o.words.getD 32 0)) ((a.kstart + a.klen - 1) / 64 + 1 - a.kstart / 64 - o.prog) s
    (attnStart t a (a.init && o.prog == 0)) o.prog

/-- The pool and the key node of an operation, while they stand. -/
def attnNode (s : State) (t : Team) (o : EngOp) : Option (Pool × Node) :=
  (poolOf s t.part o.atd.pool).bind fun pl => (nodeOf pl o.atd.knode).map fun x => (pl, x)

/-- A lock over the operation's arrival word (R224). -/
def arriveLocked (s : State) (t : Team) (gr : Grid) (va : Nat) : Bool :=
  match windowPlace s gr t.ref.lin va 8 with
  | .inl (r, b, off) => lockedAt s t.core t.part (some r) ((65536 * b + off : Nat) : Int) 8 true
  | .inr _ => false

/-- The key blocks that an operation can do now are done (R224). -/
def attnProgress (s : State) (t : Team) (o : EngOp) : State :=
  match attnNode s t o with
  | some (pl, x) => let r := attnGo s t o pl x; attnKeep r.1 t o r.2.1 r.2.2.1
  | none => s

/-- An attention operation performs (R247), or ends cancelled with +0 in its tiles (R249): the flags of the key blocks done before that
count too (DESIGN CHOICE, log entry 137). -/
def attnRun (s : State) (t : Team) (gr : Grid) (o : EngOp) : UnitRes :=
  let a := o.atd
  let drop (o : EngOp) : UnitRes := .ok (attnEnd s t gr o (a.tiles.foldl (fun acc k => accPut acc k []) t.acc) 0)
  if arriveLocked s t gr a.arrive then .fault (engCause tcLockhit 0 a.arrive)
  else if o.cancelled then drop o
  else match poolLocked s t (attnRuns (TileMap.ofNat (o.words.getD 32 0)) a.nq) false, attnNode s t o with
    | some c, _ => .fault c
    | none, none => drop { o with cancelled := true }
    | none, some (pl, x) => match attnGo s t o pl x with
      | (s', rows, _, .ok _) => .ok (attnEnd s' t gr o (attnStore t.acc a rows) (rows.foldl (fun f r => f ||| r.fl) 0))
      | (_, _, k, .fault c) => if k = o.prog then .fault c else .ok (attnProgress s t o)
      | (_, _, k, .ask s') => if k = o.prog then .ask s' else .ok (attnProgress s t o)
      | (_, _, k, _) => if k = o.prog then .wait else .ok (attnProgress s t o)

/-! Events. -/

/-- Change the state that a unit of work leaves. -/
def UnitRes.map (r : UnitRes) (f : State → State) : UnitRes :=
  match r with
  | .ask s => .ask (f s)
  | .ok s => .ok (f s)
  | r => r

/-- An attention operation of a team can go on, but for its budget. -/
def attnReady (s : State) (t : Team) (o : EngOp) : Bool :=
  o.kind == .attn && !o.cancelled && o.fault.isNone && opFree t o && ((gauntletOps s t.core).head?).any fun x => x.id == o.id

/-- Some operation of the core is ready and waits for its budget (R244). -/
def budgetWaits (s : State) (core : Nat) : Bool :=
  sliceWaits s core || (s.teams.filter fun t => t.core == core && !(coreHeld s t)).any fun t => t.eops.any fun o =>
    attnReady s t o && (budgetLeft s t [o] (attnCharge t o.atd (TileMap.ofNat (o.words.getD 32 0)))).isNone

/-- The operations of a core that are ready (R243). -/
def readyOps (s : State) (core : Nat) : List Nat :=
  (s.teams.filter fun t => t.core == core && !(coreHeld s t)).flatMap fun t =>
    (t.eops.filter fun o => (o.kind == .mma && passReady s t (passOf t o)) || attnReady s t o).map (·.id)

/-- The clk at which the present period of a core's matrix budget began: periods count from the start of its partition (R243). -/
def periodStart (s : State) (core : Nat) : Nat :=
  let c0 := match clusterOfCore s core with | some c => (partOf s c.ref.part).clock0 | none => 0
  s.clk - (s.clk - c0) % 2400
def canMatrixBudgetPeriod (s : State) (core : Nat) : Bool := decide ((coreRegsOf s core).periodAt < periodStart s core)
/-- MATRIX_BUDGET_PERIOD (R243, R244). -/
def execMatrixBudgetPeriod (core : Nat) (s : State) : Out :=
  event s (canMatrixBudgetPeriod s core) fun s =>
    updCoreRegs s core fun c =>
      { c with remaining := effUnits s 5 c.units, periodAt := periodStart s core, atBegin := readyOps s core }

/-- `n` clk pass for the cores whose matrix budget is limited (R244). -/
def countStalls (s : State) (n : Nat) : State :=
  if s.coreRegs.all (fun c => effUnits s 5 c.units == 0xffffffff) then s
  else
    let count (c : CoreRegs) : CoreRegs :=
      if effUnits s 5 c.units != 0xffffffff && budgetWaits s c.core then { c with stalls := min (c.stalls + n) 0xffffffff } else c
    { s with coreRegs := s.coreRegs.map count }

/-- A drain of the team waits for room in its share (R320). -/
def shareWaits (s : State) (t : Team) : Bool :=
  t.eops.any fun o => (o.kind == .drain || o.kind == .drainAdd) && o.started && o.fault.isNone && decide (o.prog < 32)
    && (match rowRun s t.ref o.id o.prog with | .full => true | _ => false)

/-- Count the last `n` clk of the cores where an instruction or a drain waits for room in a share (R320): a row of a drain takes up to
three entries. -/
def countWaits (s : State) (n : Nat) : State :=
  (s.teams.filter fun t => t.tk.cap != 0 && ((t.tk.waits.any fun x => roomWait s t x)
    || (decide (t.tk.cap < t.tk.share.length + 4) && shareWaits s t))).foldl (fun s t => countRoom s t.core n) s
@[inherit_doc countWaits] def countDrains (s : State) : State := countWaits s 1

/-- What an operation does next, whatever its unit, under the tables of its issue (R148). -/
def engRun (s : State) (t : Team) (gr : Grid) (o : EngOp) : UnitRes :=
  let u := withRoot s t.part o.root
  (if o.kind == .attn then attnRun u t gr o else opRun u t o).map fun x => withRoot x t.part (partOf s t.part).ptroot

/-- An access of memory that stands before clk `born`. -/
def accessBefore (born : Nat) (a : Access) : Bool := decide (a.born < born) && isMemOp a.opc && !isWaitOp a.opc && !isFenceOp a.opc
/-- No access of a group that satisfies a test is unperformed. -/
def noneLeft (p : Access → Bool) (t : Team) (grp : Nat) : Bool :=
  (t.groups[grp]?).all fun g => (g.queue ++ g.saved.flatMap fun v => v.held).all fun a => !(p a)
/-- The accesses that the issuing group issued before clk `born` are performed. -/
def groupSettled (t : Team) (grp born : Nat) : Bool := noneLeft (accessBefore born) t grp
/-- An operation follows an access of its group (R304): of any kind if it reads or writes memory, of the bank pool if it only uses
that, of none if it works on tiles alone. -/
def EngOp.follows (o : EngOp) (a : Access) : Bool :=
  accessBefore o.born a && match o.kind with
    | .zero | .attnf => false
    | .mma | .heapclr => isWindowOp a.opc
    | _ => true
/-- The accesses that an operation follows are performed (R304). -/
def opSettled (t : Team) (o : EngOp) : Bool := noneLeft o.follows t o.grp

/-- While its partition halts, an entry of a group is still performed where an engine operation follows it, or follows one behind it: the
operation runs to completion (R251, R304, R389). -/
def haltRuns (s : State) (r : GroupRef) (k : Nat) : Bool :=
  match teamAt s r.team, groupAt s r with
  | some t, some g => (partOf s t.part).life == .halted && (g.queue[k]?).any (fun a => isMemOp a.opc)
      && t.eops.any fun o => o.grp == r.grp && o.fault.isNone && (g.queue.drop k).any o.follows
  | _, _ => false

/-- An operation is being performed: it has started, or it heads its Gauntlet and its tiles are free. A cancelled one holds no
fault. -/
def opRuns (s : State) (t : Team) (o : EngOp) : Bool :=
  !(coreHeld s t) && (o.fault.isNone || o.cancelled) && opSettled t o &&
    (o.started || (o.kind.isGauntlet && opFree t o && ((gauntletOps s t.core).head?).any fun x => x.id == o.id))

/-- The operations in progress, oldest first, of a kind. -/
def running (s : State) (t : Team) (attn : Bool) : List EngOp :=
  t.eops.filter fun o => opRuns s t o && (o.kind == .attn) == attn

/-- The first of them that can go on, with its state after. -/
def progressOf (s : State) (r : TeamRef) (attn : Bool) : Option State :=
  match teamAt s r, gridAt s r.grid with
  | some t, some gr => (running s t attn).findSome? fun o =>
      match engRun s t gr o with
      | .ok s => some s
      | .ask s => some s
      | _ => none
  | _, _ => none

def canEngineOpCompletion (s : State) (t : TeamRef) : Bool := (progressOf s t false).isSome
/-- ENGINE_OP_COMPLETION (R223, R231, R438). -/
def execEngineOpCompletion (t : TeamRef) (s : State) : Out :=
  event s (canEngineOpCompletion s t) fun s => (progressOf s t false).getD s

def canAttnCompletion (s : State) (t : TeamRef) : Bool := (progressOf s t true).isSome
/-- ATTN_COMPLETION (R249). -/
def execAttnCompletion (t : TeamRef) (s : State) : Out :=
  event s (canAttnCompletion s t) fun s => (progressOf s t true).getD s

/-- The first operation that meets a fault. -/
def faulting (s : State) (r : TeamRef) : Option (Team × EngOp × Cause) :=
  match teamAt s r, gridAt s r.grid with
  | some t, some gr => (t.eops.filter fun o => opRuns s t o).findSome? fun o =>
      match engRun s t gr o with
      | .fault c => some (t, o, c)
      | _ => none
  | _, _ => none

def canEngineFault (s : State) (t : TeamRef) : Bool := (faulting s t).isSome
/-- ENGINE_FAULT (R224): the operation stops with its progress recorded, and its cause is pending. -/
def execEngineFault (t : TeamRef) (s : State) : Out :=
  event s (canEngineFault s t) fun s =>
    match faulting s t with
    | some (x, o, c) =>
      let u := opProgress (withRoot s x.part o.root) x o
      let s := updOp (withRoot u x.part (partOf s x.part).ptroot) t o.id fun o => { o with fault := some c, takenBy := none }
      postCause s t o.grp c
    | none => s

end Sys2Proof.Machine
end

