-- ==== Sys2Proof/Machine/Lines.lean ====
section
/-! DEFINITION. Reading a descriptor or a record as one plain load of the issuing group's lowest active lane (R215, R265, R380). -/

namespace Sys2Proof.Machine

/-- What a descriptor load answers: not yet, ask the host for a line, a trap, or the bytes with the load's own effect. -/
inductive LineGot where
  | wait
  | ask (f : State → State)
  | bad (c : Cause)
  | got (b : List Byte) (f : State → State)

/-- The load of `2 ^ k` bytes as an access of the lowest active lane; `win`: of the cluster window. -/
def lineAccess (c : Ctx) (win : Bool) (k va : Nat) : Access :=
  { (accessOf c (oneLane c.act) Dst.unused k (fun _ => va) fun _ => 0) with opc := if win then 0x82 else 0x80, sub := 0 }

/-- An older write of the group, or an ordering entry, that the load must follow (R159, R300). -/
def lineHeld (c : Ctx) (a : Access) (l : Nat) : Bool :=
  c.g.queue.any fun b => b.fault.isSome || acquires b
    || (isMemOp b.opc && !isReadOp b.opc && isWindowOp b.opc == isWindowOp a.opc && (lanesOf b.lanes).any fun i =>
        bytesMeet ((Lanes.at b.addr i 0).toNat % 65536) (accBytes c.gr b) ((Lanes.at a.addr l 0).toNat % 65536) a.width)

/-- Load `2 ^ k` bytes at `va`, of access kind `kind`. -/
def lineLoad (c : Ctx) (win : Bool) (k va kind : Nat) : LineGot :=
  let a := lineAccess c win k va
  let l := (lowLane c.act).getD 0
  if lineHeld c a l then .wait
  else match lanePlace c.s c.t c.gr c.g a l with
    | .inr (code, info) => if code = tcPfload ∧ !win && (slogOf c.s c.t.core).any (fun e => slogTouches e va a.width) then .wait
      else .bad ⟨code, info, kind, a.lanes, BitVec.ofNat 64 va⟩
    | .inl p =>
      if !win && ((slogOf c.s c.t.core).any (fun e => slogTouches e va a.width) || shareHolds c.t va a.width) then .wait
      else match hostLacks c.s a [(l, p)] with
        | [] => .got (placeRead c.s c.t p 0 0 a.width).2 fun s => hostDone (placeRead s c.t p 0 0 a.width).1 (hostLinesOf [(l, p)])
        | x :: r => if (x :: r).all fun x => hostAsked c.s x.2.1 then .wait
          else .ask fun s => (x :: r).foldl (fun s x => hostAsk s x.1 x.2.1 x.2.2) s

/-- Go on with the bytes of a descriptor. -/
def withLine (c : Ctx) (win : Bool) (k va kind : Nat) (f : List Byte → (State → State) → Act) : Act :=
  match lineLoad c win k va kind with
  | .wait => .stall
  | .ask g => .hold g
  | .bad e => .trap e
  | .got b g => f b g

end Sys2Proof.Machine
end

