-- ==== Sys2Proof/Machine/TeamOps.lean ====
section
/-! DEFINITION. Team barriers (R203, R204), arrival words (R207, R208), hardware queues (R211), loop queues (R213), the address
engine (R214 to R216), accumulator banks (R217) and ROLE (R201), opcodes 0xb7 to 0xc7 without BANKMODE. -/

namespace Sys2Proof.Machine

/-! Barriers. -/

/-- Active lanes arrive at a barrier, which may complete (R203, R273, R283, R379). The group's threads that the completion releases keep
their mark until R171's moment (DEDUCED, log entry 134). -/
def barEffect (c : Ctx) (k : BarKey) (wait : Bool) (s : State) : State :=
  let s := match k with
    | .team _ => s
    | _ => markRelease (releaseAt s c.t.core k.scope) c.r c.act k.scope
  let s := arrive s c.r k c.act wait
  let s := updGroup s c.r fun g =>
    { g with sel := g.sel || (lanesOf c.act).any fun l => (threadAt g l).mark == .parked }
  fireBars s c.r.team [k]

/-- Accesses of the group that a release must follow (R300), unsent messages among them (R401): those that wait for a ticket's turn
are not (R322). -/
def unperformed (c : Ctx) : Bool := c.g.queue.any fun a =>
  (isMemOp a.opc || a.opc == 0xda || a.opc == 0xeb || a.opc == 0xf7 || a.opc == 0xf8 || isFabric a.opc) && a.stage != 2

/-- An arrival is a release (R300): it waits until the group's accesses are performed; wider than the team also for its side-log
entries (R262, R274, R285). -/
def barAct (c : Ctx) (k : BarKey) (wait : Bool) : Act :=
  let log : Bool := match k with
    | .team _ => false
    | _ => slogHolds c.s c.r c.t.core
  if c.act != 0 && (unperformed c || log) then .stall else effect c (barEffect c k wait)

/-- BAR.SYNC (R204). -/
def execBarSync (f : RI) (s : State) : Out :=
  issue (.barSync f) s fun c => barAct c (.team (f.imm.toNat % 16)) true
/-- BAR.ARV (R204). -/
def execBarArv (f : RI) (s : State) : Out :=
  issue (.barArv f) s fun c => barAct c (.team (f.imm.toNat % 16)) false

/-- Threads waiting in BART whose time is over (R204): status 1, and the thread is released while its arrival stays counted. -/
def bartOver (g : Group) (m : BitVec 32) (b : Nat) : Group :=
  let g := bartDone g b m 1
  refreshGroup (updThreads g m fun _ t => { t with rel := true })

/-- BART's arrival (R204): its lanes wait at the barrier for their status in D, which within a loop-queue run is the tail it takes
(R213); a timeout of 0 is over at once. -/
def bartArrive (c : Ctx) (f : RI) (s : State) : State :=
  let b := f.imm.toNat % 16
  let d := match runOf c.g f.dst.index.toNat with
    | some (_, q) => q.base + (q.head + q.occ) % q.len
    | none => f.dst.index.toNat
  let s := updGroup s c.r fun g => { g with barts := g.barts ++ (lanesOf c.act).map fun l =>
    (⟨l, d, b, c.av l % 2 ^ 32, s.clk⟩ : Bart) }
  let s := barEffect c (.team b) true s
  updGroup s c.r fun g =>
    let late := laneMask fun l => g.barts.any fun x => x.lane == l && x.left == 0
    if late = 0 then g else bartOver g late b

/-- BART (R204): D is EMPTY until every active lane holds its status. -/
def execBart (f : RI) (s : State) : Out :=
  issue (.bart f) s fun c =>
    if c.act = 0 then .go { vec := some fun _ => 0 }
    else if unperformed c then .stall
    else .go { vec := some fun _ => 0, lazy := true, post := bartArrive c f }

/-! Arrival words. -/

/-- ARRINIT (R208). -/
def execArrinit (f : MF) (s : State) : Out := issue (.arrinit f) s fun c => storeAct c f 32 false
/-- ARRADD (R208). -/
def execArradd (f : MF) (s : State) : Out := issue (.arradd f) s fun c => storeAct c f 32 false
/-- ARRWAIT (R208, R209). -/
def execArrwait (k : Timed) (f : MF) (s : State) : Out :=
  issue (.arrwait k f) s fun c =>
    let l := (lowLane c.act).getD 0
    let a := accessOf c c.act f.dst f.mod.toNat (fun _ => addrOf c f 32 l) fun _ => c.bv l % 2 ^ 32
    let a := { a with wait := ⟨if k == .timed then some (c.bv l / 2 ^ 32 % 2 ^ 32) else none, c.s.clk⟩ }
    waitAct c a fun s => endAtOnce (runTok s c.r a.tok) c.r a.tok

/-! Hardware queues. -/

/-- HQINIT (R211). -/
def execHqinit (f : RI) (s : State) : Out :=
  issue (.hqinit f) s fun c =>
    let i := f.imm.toNat
    let n := i % 16
    let b := bitsOf i 7 4
    let cap := bitsOf i 21 8 + 1
    match c.t.banks[b]?, clusterOfCore c.s c.t.core with
    | some k, some cl =>
      let old := cl.hqs.find? fun q => q.num == n
      let used := cl.hqs.foldl (fun r q => if q.num != n && q.home == c.r.team && q.bank == b then r + q.cap else r) 0
      if k.mode != .fifo || (match old with | some q => !q.entries.isEmpty | none => false) || decide (16384 < used + cap) then
        .trap (causeOf tcQueueerr)
      else
        let q : HwQueue := ⟨n, c.r.team, b, cap, [], 0, match old with | some q => q.waiters | none => []⟩
        effect c fun s => updCluster s cl.ref fun cl => { cl with hqs := q :: cl.hqs.filter fun x => x.num != n }
    | none, _ => .trap (causeOf tcProt)
    | some _, none => .trap (causeOf tcQueueerr)

/-- What a release of HQPUSH must follow (R212, R262). -/
def unreleased (c : Ctx) : Bool := unperformed c || slogHolds c.s c.r c.t.core

/-- A wait entry of HQPUSH, HQPOP or ACCALLOC. -/
def waitEntry (c : Ctx) (dst : Dst) (mod v : Nat) : Access := accessOf c c.act dst mod (fun _ => 0) fun _ => v

/-- The release that a push is (R211, R306). -/
def pushRelease (c : Ctx) (s : State) : State := markRelease (releaseAt s c.t.core shCluster) c.r c.act shCluster

/-- HQPUSH (R211, R212). -/
def execHqpush (f : RRR) (s : State) : Out :=
  issue (.hqpush f) s fun c =>
    let n := f.mod.toNat % 16
    let v := c.av ((lowLane c.act).getD 0) % 2 ^ 32
    if c.act = 0 then .go {}
    else match hqAt c.s c.t.core n with
      | none => .trap (causeOf tcQueueerr)
      | some (cl, q) =>
        if unreleased c || queueFull c.g then .stall
        else if q.allow = 0 then
          .go { drop := true, post := fun s => pushAccess c.r (waitEntry c f.dst f.mod.toNat v) (pushRelease c s) }
        else if q.waiters.isEmpty && decide (q.cap ≤ q.entries.length) then .trap (causeOf tcQueueerr)
        else
          let post (s : State) : State :=
            let s := pushRelease c s
            hqAppend (updHq s cl n fun q => { q with allow := q.allow - 1 }) cl n (BitVec.ofNat 32 v)
          .go { post := post }

/-- HQPOP (R211, R212): a fixed-latency result, or a wait in the queue's order. -/
def execHqpop (f : RRR) (s : State) : Out :=
  issue (.hqpop f) s fun c =>
    let n := f.mod.toNat % 16
    if c.act = 0 then .go { vec := some fun _ => 0 }
    else match hqAt c.s c.t.core n with
      | none => .trap (causeOf tcQueueerr)
      | some (cl, q) =>
        match q.entries, q.waiters with
        | v :: rest, [] =>
          .go { vec := some fun _ => v.setWidth 128
                post := fun s => acquireAt (updHq s cl n fun q => { q with entries := rest }) c.t.core shCluster }
        | _, _ =>
          if queueFull c.g then .stall
          else
            let a := waitEntry c f.dst f.mod.toNat 0
            let w : TeamRef × Nat × Nat := (c.r.team, c.r.grp, a.tok)
            .go { vec := some fun _ => 0, lazy := true, drop := true
                  post := fun s => pushAccess c.r a (updHq s cl n fun q => { q with waiters := q.waiters ++ [w] }) }

/-- HQALLOW (R211): waiting pushes go on. -/
def execHqallow (f : RI) (s : State) : Out :=
  issue (.hqallow f) s fun c =>
    let n := f.imm.toNat % 16
    let k := bitsOf f.imm.toNat 31 16
    match hqAt c.s c.t.core n with
    | none => .trap (causeOf tcQueueerr)
    | some (cl, q) =>
      if 2 ^ 20 < q.allow + k then .trap (causeOf tcQueueerr)
      else effect c fun s => hqRelease (updHq s cl n fun q => { q with allow := q.allow + k }) cl n

/-! Loop queues. -/

/-- Set the registers of a run DEAD (R213). -/
def deadRun (g : Group) (base len : Nat) : Group :=
  (List.range len).foldl (fun g i => setReg g (base + i) { (regAt g (base + i)) with st := .dead }) g
/-- The run of a configured queue. -/
def deadQueue (g : Group) (k : Nat) : Group :=
  match g.loopqs.toList.getD k none with
  | some q => deadRun g q.base q.len
  | none => g
/-- A register of a run still awaits its value. -/
def runEmpty (g : Group) (base len : Nat) : Bool := (List.range len).any fun i => (regAt g (base + i)).st == .empty

/-- LQCFG (R213). Its own traps are raised whatever lanes are active: R56 withholds the change only (DESIGN CHOICE, log
entry 113). It waits while a register of the old or the new run is EMPTY (DESIGN CHOICE, log entry 136). -/
def execLqcfg (f : RI) (s : State) : Out :=
  issue (.lqcfg f) s fun c =>
    let i := f.imm.toNat
    let k := i % 8
    let base := bitsOf i 11 4
    let len := bitsOf i 15 12 + 1
    let on := i.testBit 3
    let old := c.g.loopqs.toList.getD k none
    let shared : Bool := on && (c.g.loopqs.toList.zipIdx).any fun x => x.2 != k && (match x.1 with
      | some q => decide (q.base < base + len) && decide (base < q.base + q.len)
      | none => false)
    if shared || (match old with | some q => q.occ != 0 | none => false) || streamFeeds c.t c.r.grp k then .trap (causeOf tcQueueerr)
    else if (on && runEmpty c.g base len) || (match old with | some q => runEmpty c.g q.base q.len | none => false) then .stall
    else effect c fun s => updGroup s c.r fun g =>
      let g := deadQueue g k
      let g := if on then deadRun g base len else g
      { g with loopqs := g.loopqs.setIfInBounds k (if on then some ⟨base, len, 0, 0, false⟩ else none) }

/-! The address engine. -/

def streamNloop (ctl : Nat) : Nat := bitsOf ctl 2 0 + 1
def streamMode (ctl : Nat) : Nat := bitsOf ctl 4 3
def streamGrp (ctl : Nat) : Nat := bitsOf ctl 13 9
def streamLq (ctl : Nat) : Nat := bitsOf ctl 8 6
def streamHq (ctl : Nat) : Nat := bitsOf ctl 17 14

/-- The number of elements of a stream. -/
def streamTotal (x : Stream) : Nat := (x.count.take (streamNloop x.ctl)).foldl (· * ·) 1
/-- The address of element `e` (R214). -/
def streamAddr (x : Stream) (e : Nat) : Nat :=
  let r := ((x.count.zip x.stride).take (streamNloop x.ctl)).foldl (fun (r : Nat × Int) y =>
    (r.1 / max 1 y.1, r.2 + ((r.1 % max 1 y.1 : Nat) : Int) * y.2)) (e, (x.base : Int))
  wrap 64 r.2

/-- A descriptor is valid for a team (R215). -/
def streamOk (c : Ctx) (b : List Byte) : Bool :=
  let ctl := dNat b 0 8
  let mode := streamMode ctl
  ctl < 2 ^ 18 && dNat b 0x70 16 == 0 && mode != 3
    && ((List.range (streamNloop ctl)).all fun k => dNat b (0x50 + 4 * k) 4 != 0)
    && (if mode == 2 then (hqAt c.s c.t.core (streamHq ctl)).isSome
        else match c.t.groups[streamGrp ctl]? with
          | some g => (g.loopqs.toList.getD (streamLq ctl) none).isSome
          | none => false)

def updStream (s : State) (t : TeamRef) (f : Stream → Stream) : State := updTeam s t fun t => { t with stream := f t.stream }

/-- AECFG (R215). -/
def execAecfg (f : MF) (s : State) : Out :=
  issue (.aecfg f) s fun c =>
    if c.act = 0 then .go {}
    else if c.t.stream.st == .running then .trap (causeOf tcQueueerr)
    else withLine c false 7 (addrOf c f 64 ((lowLane c.act).getD 0)) 2 fun b load =>
      if streamOk c b then
        let x : Stream := ⟨.configured, dNat b 0 8, dNat b 8 8, (List.range 8).map fun k => dInt b (0x10 + 8 * k),
          (List.range 8).map fun k => dNat b (0x50 + 4 * k) 4, 0, [], none⟩
        .go { post := fun s => updStream (load s) c.r.team fun _ => x }
      else .trap (causeOf tcQueueerr)

/-- The program has pushed values that the target queue still holds (R215). -/
def progFed (t : Team) : Bool :=
  streamMode t.stream.ctl != 2 && match t.groups[streamGrp t.stream.ctl]? with
    | some g => match g.loopqs.toList.getD (streamLq t.stream.ctl) none with
      | some q => q.byProg
      | none => true
    | none => true

/-- AEGO (R215, R216): it waits until the group's earlier accesses are performed; a stream that runs already goes on (DESIGN CHOICE, log
entry 135). -/
def execAego (f : RI) (s : State) : Out :=
  issue (.aego f) s fun c =>
    if c.t.stream.st == .idle || progFed c.t then .trap (causeOf tcQueueerr)
    else if !c.g.queue.isEmpty || slogHolds c.s c.r c.t.core then .stall
    else effect c fun s => updStream s c.r.team fun x =>
      match x.st with
      | .running => x
      | .done => { x with st := .running, elem := 0, part := [], fault := none }
      | _ => { x with st := .running, fault := none }
/-- AESTOP (R215): a stream that does not run is left as it is (DESIGN CHOICE, log entry 135). -/
def execAestop (f : RI) (s : State) : Out :=
  issue (.aestop f) s fun c => effect c fun s => updStream s c.r.team fun x =>
    if x.st == .running then { x with st := .stopped } else x

/-- Push a row of lanes to a loop queue by the address engine (R214). -/
def streamPush (g : Group) (k : Nat) (v : List Nat) : Group :=
  match g.loopqs.toList.getD k none with
  | some q =>
    let t := q.base + (q.head + q.occ) % q.len
    let g := setReg g t ⟨.full, Lanes.mk fun l => BitVec.ofNat 32 (v.getD l 0)⟩
    { g with loopqs := g.loopqs.setIfInBounds k (some { q with occ := q.occ + 1 }) }
  | none => g

/-- The stream's next element counts, with its value; a full row, or the last, is pushed. -/
def streamTake (s : State) (t : TeamRef) (v : Nat) : State :=
  match teamAt s t with
  | some x =>
    let st := x.stream
    let row := st.part ++ [v]
    let last := decide (streamTotal st ≤ st.elem + 1)
    let full := last || row.length == 32
    let s := if full then updGroup s ⟨t, streamGrp st.ctl⟩ fun g => streamPush g (streamLq st.ctl) row else s
    updStream s t fun st => { st with elem := st.elem + 1, part := if full then [] else row, st := if last then .done else .running }
  | none => s

/-- The load of a LOAD element as an access of the fed group (R214, R216). -/
def streamAccess (x : Stream) (va : Nat) : Access :=
  { opc := if abit x.ctl 5 == 1 then 0x82 else 0x80
    sub := 0, mod := 2, lanes := 1, dst := 0, addr := Lanes.all (BitVec.ofNat 64 va), data := Lanes.all 0, all := 1, pc := 0
    slot2 := false, tok := 0, fault := none, stage := 0, wait := ⟨none, 0⟩, born := 0, wasDead := false, owed := 0
    thr := Lanes.all 0, ser := false, narrow := false }

/-- What the next element of a running stream does: nothing yet, ask for a host line, stop, or one value. -/
def streamNext (s : State) (t : Team) (gr : Grid) : Option State :=
  let x := t.stream
  let va := streamAddr x x.elem
  let room : Bool := match t.groups[streamGrp x.ctl]? with
    | some g => match g.loopqs.toList.getD (streamLq x.ctl) none with
      | some q => decide (q.occ < q.len) || !(x.part.length == 31 || decide (streamTotal x ≤ x.elem + 1))
      | none => false
    | none => false
  if x.st != .running then none
  else if streamMode x.ctl = 2 then
    match hqAt s t.core (streamHq x.ctl) with
    | some (cl, q) =>
      if q.allow = 0 ∨ (q.waiters.isEmpty ∧ q.cap ≤ q.entries.length) then none
      else
        let s := hqAppend (updHq s cl q.num fun q => { q with allow := q.allow - 1 }) cl q.num (BitVec.ofNat 32 va)
        let last := decide (streamTotal x ≤ x.elem + 1)
        some (updStream s t.ref fun x => { x with elem := x.elem + 1, st := if last then .done else .running })
    | none => none
  else if !room then none
  else if streamMode x.ctl = 1 then some (streamTake s t.ref (va % 2 ^ 32))
  else match t.groups[streamGrp x.ctl]? with
    | none => none
    | some g =>
      let a := streamAccess x va
      match lanePlace s t gr g a 0 with
      | .inr (code, info) => some (updStream s t.ref fun x => { x with st := .stopped, fault := some (code, info, va) })
      | .inl p =>
        if abit x.ctl 5 == 0 && ((slogOf s t.core).any (fun e => slogTouches e va 4) || shareHolds t va 4) then none
        else match hostLacks s a [(0, p)] with
          | [] => some (hostUsed (streamTake (placeRead s t p 0 0 4).1 t.ref (ofBytes (placeRead s t p 0 0 4).2)) (hostLinesOf [(0, p)]))
          | l => if l.all fun y => hostAsked s y.2.1 then none else some (l.foldl (fun s y => hostAsk s y.1 y.2.1 y.2.2) s)

def streamStep (s : State) (t : TeamRef) : Option State :=
  match teamAt s t, gridAt s t.grid with
  | some x, some gr => if partRuns s t then streamNext s x gr else none
  | _, _ => none
def canAeStreamElement (s : State) (t : TeamRef) : Bool := (streamStep s t).isSome
/-- AE_STREAM_ELEMENT (R214, R216). -/
def execAeStreamElement (t : TeamRef) (s : State) : Out :=
  event s (canAeStreamElement s t) fun s => (streamStep s t).getD s

/-! Accumulator banks and roles. -/

/-- ACCALLOC (R217). -/
def execAccalloc (f : RI) (s : State) : Out :=
  issue (.accalloc f) s fun c =>
    let n := f.imm.toNat % 32
    if 16 < c.t.accN + n then .trap (causeOf tcAccna)
    else if c.act = 0 then .go {}
    else if (accWaiting c.s c.t.core).isEmpty && decide (n ≤ freeBanks c.s c.t.core) then
      .go { uni := some (BitVec.ofNat 64 (4 * c.t.accN)), post := fun s => grantBanks s c.r.team n }
    else if queueFull c.g then .stall
    else .go { drop := true, post := fun s => pushAccess c.r (waitEntry c f.dst 0 n) s }
/-- ACCFREE (R217). -/
def execAccfree (f : RI) (s : State) : Out :=
  issue (.accfree f) s fun c =>
    let n := f.imm.toNat % 32
    let h := c.t.accN
    if h < n then .trap (causeOf tcAccna)
    else if c.t.eops.any fun o => o.tiles.any fun k => decide (4 * (h - n) ≤ k) && decide (k < 4 * h) then .stall
    else effect c fun s =>
      accGrant (updTeam s c.r.team fun t =>
        { t with accN := h - n, acc := t.acc.filter fun x => decide (x.1 < 4096 * (h - n)) }) c.t.core
/-- ROLE (R201). -/
def execRole (f : RI) (s : State) : Out :=
  issue (.role f) s fun c => effect c fun s => updGroup s c.r fun g =>
    let i := f.imm.toNat
    { g with role := ⟨if i.testBit 4 then some (i % 16) else none, if i.testBit 9 then some (bitsOf i 8 5) else none⟩ }

end Sys2Proof.Machine
end

