-- ==== Sys2Proof/Machine/Cluster.lean ====
section
/-! DEFINITION. Cluster instructions, opcodes 0xe0 to 0xe5 and 0xe8: TLBINV (R259), the side log (R260 to R263), the copy engine
(R264 to R272), cluster and die barriers (R273, R274, R283 to R285), and the events of the side log and the copy engine. -/

namespace Sys2Proof.Machine

/-! TLBINV. -/

/-- Remove TLB entries of a partition's clusters, and the L1 lines of the pages they name (R259). -/
def tlbInvalidate (s : State) (part : Nat) (hit : TlbEntry → Bool) (line : L1Line → Bool) : State :=
  let cores := (s.clusters.filter fun c => c.ref.part == part).flatMap clusterCores
  let s := l1Drop s fun l => cores.contains l.core && line l
  { s with clusters := s.clusters.map fun (c : Cluster) =>
      if c.ref.part == part then { c with tlb := c.tlb.filter fun e => !(hit e) } else c }

/-- TLBINV.PAGE (R259), of the lowest active lane: every access issued before it has been performed in this model, whose accesses
perform at once. A non-canonical address is that lane's fault (R219). -/
def execTlbinvPage (f : MF) (s : State) : Out :=
  issue (.tlbinvPage f) s fun c =>
    let l := (lowLane c.act).getD 0
    let va := addrOf c f 64 l
    let asid := c.bv l % 65536
    if c.act = 0 then .go {}
    else if !(canonical va) then .trap ⟨tcProt, 0, 0, oneLane c.act, BitVec.ofNat 64 va⟩
    else effect c fun s => tlbInvalidate s c.t.part (fun e => e.asid == asid && e.vpage == va / 2 ^ e.size)
      fun x => x.asid == asid && 128 * x.vline / 2 ^ x.size == va / 2 ^ x.size
/-- TLBINV.ASID (R259). -/
def execTlbinvAsid (f : MF) (s : State) : Out :=
  issue (.tlbinvAsid f) s fun c => effect c fun s =>
    let asid := c.bv ((lowLane c.act).getD 0) % 65536
    tlbInvalidate s c.t.part (fun e => e.asid == asid) fun x => x.asid == asid
/-- TLBINV.ALL (R259). -/
def execTlbinvAll (f : MF) (s : State) : Out :=
  issue (.tlbinvAll f) s fun c => effect c fun s => tlbInvalidate s c.t.part (fun _ => true) fun _ => true

/-! The side log. -/

/-- A team and a grid that stand for one whose slot is released, or for a graph's copy: nothing of them but the core, the
partition and the absence of a deterministic launch is used. -/
def ghostTeam (ref : TeamRef) (part core : Nat) : Team :=
  { ref := ref, part := part, core := core, slot := 0, groups := []
    regs := ⟨[], [], [], [], [], 0, 0⟩, banks := [], accN := 0, acc := [], stream := ⟨.idle, 0, 0, [], [], 0, [], none⟩
    eops := [], tk := ⟨.none, false, [], false, [], 0, 0⟩, lastFlag := false, curG := none, pruned := false, cancelled := false }
@[inherit_doc ghostTeam] def ghostGrid (id part : Nat) : Grid :=
  { id := id, part := part, link := ⟨0, 0, none⟩, lr := [], code := [], teams := 0, nextL := 0, dieNext := [], finish := 0, startClk := 0
    order := 0, released := [], retired := [], aborted := [], ds := [], dflags := 0, outs := [], dieBars := [], gridBars := []
    instBars := [], dmap := [], prio := 0 }

/-- What a retry pass finds for an entry (R261). -/
inductive SlogFate where
  | stays
  | asks (l : List (Nat × Nat × HostUse)) (ps : List (Nat × Place))
  | faults (c : Cause)
  | replays (l : List (Nat × Place))

/-- Translate an entry's lanes anew (R261): a missing translation keeps it unless its page request failed; a lock keeps it. -/
def slogFate (s : State) (part : Nat) (e : SlogEntry) : SlogFate :=
  let rs := (lanesOf e.acc.lanes).map fun l =>
    let va := (Lanes.at e.acc.addr l 0).toNat
    (l, va, match (xlate s part e.core va 10 : Walked) with
      | .err c => if c = tcPfload && e.failed.contains (va / 65536) then Walked.err tcProt else Walked.err c
      | w => w)
  let missing : Bool := rs.any fun x => match x.2.2 with | .err c => c == tcPfload | .ok .. => false
  let bad := rs.filterMap fun x => match x.2.2 with | .err c => some (x.1, c) | .ok .. => none
  if missing then .stays
  else if !bad.isEmpty then
    let code := bad.foldl (fun m x => min m x.2) 0xff
    let m := laneMask fun l => bad.any fun x => x.1 == l && x.2 == code
    .faults ⟨code, 0, 3, m, Lanes.at e.acc.addr ((lowLane m).getD 0) 0⟩
  else
    let ps : List (Nat × Place) := rs.filterMap fun x => match x.2.2 with
      | .ok pa share _ => some (x.1, .virt x.2.1 pa share)
      | .err _ => none
    if rs.any fun x => lockedAt s e.core part none (signed 64 x.2.1) e.acc.width true then .stays
    else
      let lacks := hostLacks s e.acc ps
      if lacks.isEmpty then .replays ps else .asks lacks ps

/-- An older entry that remains touches a byte of an entry. -/
def slogBehind (kept : List SlogEntry) (e : SlogEntry) : Bool :=
  (lanesOf e.acc.lanes).any fun l =>
    let va := (Lanes.at e.acc.addr l 0).toNat
    kept.any fun k => slogTouches k va e.acc.width

/-- An entry of the side log is an ordered store. -/
def SlogEntry.releases (e : SlogEntry) : Bool := e.acc.ord == 1 || e.acc.ord == 3

/-- Lanes of a replayed entry perform (R153, R155, R261), its release before them (R303): its thread holds narrow releases where this or an
earlier one is such (R306). -/
def slogReplay (s : State) (part : Nat) (e : SlogEntry) (ps : List (Nat × Place)) : State :=
  let t := (teamAt s e.team).getD (ghostTeam e.team part e.core)
  let gr := (gridAt s e.team.grid).getD (ghostGrid e.team.grid part)
  let r : GroupRef := ⟨e.team, e.grp⟩
  let sh := widest ps
  let s := if e.releases then markRelease (releaseAt s e.core sh) r e.acc.lanes sh else s
  let narrow : Bool := if e.releases && sh != shTeam then decide (sh < shPackage)
    else if (groupAt s r).isSome then narrowLanes s r e.acc.lanes else e.acc.narrow
  hostDone (performLanes s t gr { e.acc with narrow := narrow } ps).1 (hostLinesOf ps)

/-- An entry whose page and lines are there replays, once a release at SYSTEM scope is performed before it (R288, R300). -/
def slogTry (s : State) (part : Nat) (e : SlogEntry) (ps : List (Nat × Place)) : Option State :=
  match if e.releases then releaseWaits s e.core (widest ps) else none with
  | none => some (slogReplay s part e ps)
  | some _ => none

/-- One entry of a pass: the state and the entries that remain before it. An entry behind an older one to its bytes is not replayed,
but its fault is found (R261). Lanes whose host line has its GO perform then (R435). -/
def slogVisit (part : Nat) (x : State × List SlogEntry) (e : SlogEntry) : State × List SlogEntry :=
  let (s, kept) := x
  let stay := (s, kept ++ [e])
  let waits (ps : List (Nat × Place)) : State × List SlogEntry :=
    match releaseWaits s e.core (widest ps) with
    | some (.done u) => (u, kept ++ [e])
    | _ => stay
  match slogFate s part e with
  | .stays => stay
  | .faults c => (slogReturn s e.team e.grp e.acc part c, kept)
  | .asks l ps =>
    if slogBehind kept e then stay
    else
      let now := grantedOf s (hostUse e.acc ps) ps
      if now.isEmpty then (l.foldl (fun s y => hostAsk s y.1 y.2.1 y.2.2) s, kept ++ [e])
      else match slogTry s part e now with
        | some u => (u, kept ++ [{ e with acc := { e.acc with lanes := e.acc.lanes &&& ~~~laneMask fun i => now.any fun y => y.1 == i } }])
        | none => waits ps
  | .replays ps =>
    if slogBehind kept e then stay
    else match slogTry s part e ps with
      | some u => (u, kept)
      | none => waits ps

/-- A retry pass over the entries of a cluster's log that satisfy a test (R261). -/
def slogRetry (s : State) (c : ClusterRef) (p : SlogEntry → Bool) : State :=
  match clusterAt s c with
  | none => s
  | some cl =>
    let r := cl.slog.foldl (fun x e => if p e then slogVisit c.part x e else (x.1, x.2 ++ [e])) (s, [])
    updCluster r.1 c fun x => { x with slog := r.2 }
/-- A retry pass over a cluster's log (R261). -/
def slogPass (s : State) (c : ClusterRef) : State := slogRetry s c fun _ => true

/-- SLOG.FULL is set while the log is full (R263). -/
def fullLog (s : State) (c : ClusterRef) : State :=
  updCluster s c fun x => { x with slogFull := x.slogFull || decide (256 ≤ x.slog.length) }

/-- SLOGCTL.QUERY (R263). -/
def execSlogctlQuery (f : RI) (s : State) : Out :=
  issue (.slogctlQuery f) s fun c =>
    let l := slogOf c.s c.t.core
    let full : Bool := (clusterOfCore c.s c.t.core).any fun k => k.slogFull
    vecOf fun _ => l.length + (l.filter fun e => e.team == c.r.team).length * 2 ^ 9 + b2n full * 2 ^ 18
/-- SLOGCTL.DRAIN (R263): the pass it starts has ended when the next instruction issues. -/
def execSlogctlDrain (f : RI) (s : State) : Out :=
  issue (.slogctlDrain f) s fun c => effect c fun s =>
    match clusterOfCore c.s c.t.core with
    | some cl => fullLog (slogPass (updCluster s cl.ref fun x => { x with slogFull := false }) cl.ref) cl.ref
    | none => s

def canSideLogRetryPass (s : State) (c : ClusterRef) : Bool := 
  (partOf s c.part).life != .halted && (clusterAt s c).any fun x => !x.slog.isEmpty
/-- SIDE_LOG_RETRY_PASS (R261). -/
def execSideLogRetryPass (c : ClusterRef) (s : State) : Out :=
  event s (canSideLogRetryPass s c) fun s => slogPass s c

/-! Copies: checks at the issue. -/

/-- Fields of a COPY or GATHER descriptor (R265). -/
def dSsp (d : List Byte) : Bool := abit (dNat d 0 8) 0 == 1
@[inherit_doc dSsp] def dDsp (d : List Byte) : Bool := abit (dNat d 0 8) 1 == 1
@[inherit_doc dSsp] def dTagv (d : List Byte) : Bool := abit (dNat d 0 8) 2 == 1
@[inherit_doc dSsp] def dLen (d : List Byte) : Nat := dNat d 0x18 4
@[inherit_doc dSsp] def dArrive (d : List Byte) : Nat := dNat d 0x24 4
@[inherit_doc dSsp] def dTag (d : List Byte) : Nat := dNat d 0x48 4
/-- Rows of an operation in its order of writing. -/
def dRows (gather : Bool) (d : List Byte) : Nat := if gather then dNat d 0x1c 4 else dNat d 0x1c 4 * dNat d 0x20 4
/-- The total T (R265). -/
def dTotal (gather : Bool) (d : List Byte) : Nat := dLen d * dRows gather d

/-- Source and destination address of row `k` of a COPY (R265). -/
def copyRowAddr (d : List Byte) (k : Nat) : Int × Int :=
  let n1 := max 1 (dNat d 0x1c 4)
  let q : Int := (k / n1 : Nat)
  let r : Int := (k % n1 : Nat)
  ((dNat d 8 8 : Int) + q * dInt d 0x30 + r * dInt d 0x28, (dNat d 0x10 8 : Int) + q * dInt d 0x40 + r * dInt d 0x38)

/-- The shape of a descriptor breaks R265. -/
def copyBadShape (dims : Option CopyDims) (d : List Byte) : Bool :=
  let gather := dims.isNone
  decide (8 ≤ dNat d 0 8) || dNat d 0x4c 52 != 0 || decide (2 ^ 32 ≤ dTotal gather d) || dNat d 0x1c 4 == 0 || dNat d 0x20 4 == 0
    || dLen d == 0
    || (match dims with
      | none => decide (65536 < dLen d) || decide (65536 < dNat d 0x1c 4) || dNat d 0x3c 12 != 0
      | some k => decide (2 ^ 24 < dLen d)
          || (k != .d3 && (dNat d 0x20 4 != 1 || dNat d 0x30 8 != 0 || dNat d 0x40 8 != 0))
          || (k == .d1 && (dNat d 0x1c 4 != 1 || dNat d 0x28 8 != 0 || dNat d 0x38 8 != 0)))

/-- The bounding interval of a range widened to 128 B, with its first address as given (R266). -/
def rangeBounds (d : List Byte) (gather dst : Bool) : Int × Int :=
  let base (win : Bool) (off : Nat) : Int := if win then (dNat d off 8 : Int) else signed 64 (dNat d off 8)
  if gather then
    if dst then spanOf (base (dDsp d) 0x10) (dNat d 0x1c 4) (dInt d 0x30) 1 0 (dLen d)
    else spanOf (base (dSsp d) 8) (dNat d 0x20 4) (dInt d 0x28) 1 0 (dLen d)
  else
    if dst then spanOf (base (dDsp d) 0x10) (dNat d 0x1c 4) (dInt d 0x38) (dNat d 0x20 4) (dInt d 0x40) (dLen d)
    else spanOf (base (dSsp d) 8) (dNat d 0x1c 4) (dInt d 0x28) (dNat d 0x20 4) (dInt d 0x30) (dLen d)

/-- What is wrong with a range (R266): a window range outside one team's held SPAD banks, or a non-canonical virtual range. -/
def rangeCodes (s : State) (gr : Grid) (lin : Nat) (win : Bool) (b : Int × Int) : List Nat :=
  if win then
    if b.1 < 0 ∨ 2 ^ 24 < b.2 then [tcAlign]
    else
      let lo := b.1.toNat
      let hi := b.2.toNat - 1
      if lo / 2 ^ 20 ≠ hi / 2 ^ 20 then [tcProt]
      else (List.range (hi / 65536 + 1 - lo / 65536)).filterMap fun k =>
        match windowPlace s gr lin ((lo / 65536 + k) * 65536) 1 with
        | .inr c => some c
        | .inl _ => none
  else if b.1 < -(2 ^ 56 : Int) ∨ (2 ^ 56 : Int) < b.2 then [tcProt] else []

/-- The KV pools of a partition. -/
def partPools (s : State) (part : Nat) : List Pool := (partOf s part).pools.map (·.2)

/-- INFO of TTBAD for a TAG (R266, R350); none where some created pool takes it as well formed. -/
def tagInfo (s : State) (part tag : Nat) : Option Nat :=
  let ps := partPools s part
  if ps.isEmpty then some 4 else if ps.all fun p => idMalformed p tag then some 1 else none
/-- No created pool holds a live node with the id (R358). -/
def tagStale (s : State) (part tag : Nat) : Bool := (partPools s part).all fun p => idMalformed p tag || (nodeOf p tag).isNone

/-- The codes of R266 for a well-shaped descriptor. -/
def copyCodes (c : Ctx) (gather : Bool) (d : List Byte) : List Nat :=
  let codes := rangeCodes c.s c.gr c.r.team.lin
  let src := rangeBounds d gather false
  let dst := rangeBounds d gather true
  let idx := dNat d 0x38 8
  let ranges := descRanges (some c.gr) c.t.part c.r.team.lin gather d
  let overlap : Bool := match ranges.head?, ranges.getLast? with
    | some x, some y => y.meets x.part x.team x.lo x.hi
    | _, _ => false
  codes (dSsp d) src ++ codes (dDsp d) dst
    ++ (if gather then (if idx % 4 = 0 then [] else [tcAlign]) ++ codes true (spanOf (idx : Int) 1 0 1 0 (4 * dNat d 0x1c 4)) else [])
    ++ (if dArrive d = 0xffffffff then []
        else match windowPlace c.s c.gr c.r.team.lin (dArrive d) 8 with | .inr e => [e] | .inl _ => [])
    ++ (if overlap then [tcLockhit] else [])
    ++ (if dTagv d && (tagInfo c.s c.t.part (dTag d)).isSome then [tcTtbad] else [])

/-- Pages of `n` bytes at an address. -/
def pagesOf (a : Int) (n : Nat) : List Nat :=
  let lo := wrap 64 a
  (List.range ((lo % 65536 + n + 65535) / 65536)).map fun k => if k = 0 then lo else (lo / 65536 + k) * 65536 % 2 ^ 64

/-- The destination pages of an operation in a deterministic launch, translated at the issue (R323): the first fault, or whether
some page is wide (R317). What an aborted team would write to a wide page is withdrawn without a trap (R315). -/
def copyDestination (c : Ctx) (gather : Bool) (d : List Byte) : (Nat × Nat × Nat) ⊕ Bool :=
  let post : Bool := ((lowLane c.act).map fun l => (threadAt c.g l).post).getD false
  (List.range (dRows gather d)).foldl (fun r (k : Nat) =>
    let a : Int := if gather then (dNat d 0x10 8 : Int) + ((k : Nat) : Int) * dInt d 0x30 else (copyRowAddr d k).2
    (pagesOf a (dLen d)).foldl (fun r va =>
      match r with
      | .inr w =>
        let n := min (dLen d) (65536 - va % 65536)
        match xlate c.s c.t.part c.t.core va 10 with
        | .err code => .inl (code, 0, va)
        | .ok _ share _ => if c.t.tk.abortMark && decide (shCluster ≤ share) then .inr true else match detFault c.gr c.r.team.lin false post false true va n share with
          | some e => .inl (e.1, e.2, va)
          | none => .inr (w || decide (shCluster ≤ share))
      | e => e) r) (.inr false)

/-- Entries of the range-lock table in use (R267), those of restored teams that wait for their place among them (log entry 103). -/
def locksUsed (s : State) (cl : Cluster) : Nat := (cl.copies ++ parkedCopies s cl).foldl (fun n o => if o.cancelled || o.run.isSome then n else n + if o.gather then 3 else 2) 0

/-- Operations issued earlier whose ranges an operation must wait for (R268). -/
def copyBlocked (s : State) (cl : Cluster) (o : CopyOp) : Bool :=
  let mine := copyRanges s o cl.ref.part
  (cl.copies.takeWhile (fun x => x.id != o.id) ++ (parkedCopies s cl).filter fun x => decide (x.born < o.born)).any fun x =>
    (copyRanges s x cl.ref.part).any fun r => mine.any fun m => (r.dst || m.dst) && m.meets r.part r.team r.lo r.hi

/-- Hand a checked operation to the cluster's copy engine. -/
def copyPush (c : Ctx) (cl : ClusterRef) (gather : Bool) (d : List Byte) (waiting follows withdrawn : Bool) (load : State → State) : Act :=
  let stale : Bool := dTagv d && tagStale c.s c.t.part (dTag d)
  let o : CopyOp :=
    { id := 4096 * stamp c.s, team := c.r.team, grp := c.r.grp, core := c.t.core, gather := gather, desc := d, started := false, prog := 0
      off := 0, follows := follows, held := false, fault := none, takenBy := none, waiting := waiting, cancelled := stale || withdrawn, outOfRange := false, run := none
      pc := c.pc, born := stamp c.s, root := (partOf c.s c.t.part).ptroot }
  .go { post := fun s => updCluster (load s) cl fun x => { x with copies := x.copies ++ [{ o with held := copyBlocked c.s x o }] } }

/-- COPY and GATHER (R264 to R267). -/
def copyAct (c : Ctx) (f : MF) (dims : Option CopyDims) : Act :=
  let gather := dims.isNone
  if c.act = 0 then .go {}
  else withLine c true 7 (addrOf c f 32 ((lowLane c.act).getD 0)) 0 fun d load =>
    if copyBadShape dims d then .trap (causeOf tcIllfmt)
    else match lowestCode (copyCodes c gather d) with
      | some k => .trap (if k = tcTtbad then causeInfo k ((tagInfo c.s c.t.part (dTag d)).getD 0) else causeOf k)
      | none => match clusterOfCore c.s c.t.core with
        | none => .stall
        | some cl =>
          if decide (32 ≤ (cl.copies.filter fun o => o.run.isNone).length) || decide (64 < locksUsed c.s cl + if gather then 3 else 2) then .stall
          else if lrDet c.gr.lr && !(dDsp d) then
            match copyDestination c gather d with
            | .inl (code, info, va) => .trap ⟨code, info, 3, oneLane c.act, BitVec.ofNat 64 va⟩
            | .inr wide =>
              copyPush c cl.ref gather d (wide && ticketBuffers c.gr c.t && !c.t.tk.abortMark)
                (wide && !(ticketBuffers c.gr c.t) && c.g.status != .handler) (wide && c.t.tk.abortMark) load
          else copyPush c cl.ref gather d false false false load

/-- COPY (R264, R265). -/
def execCopy (k : CopyDims) (f : MF) (s : State) : Out := issue (.copy k f) s fun c => copyAct c f (some k)
/-- GATHER (R264, R265). -/
def execGather (f : MF) (s : State) : Out := issue (.gather f) s fun c => copyAct c f none

/-- Operations of a group that are incomplete (R270). -/
def copiesOf (s : State) (r : GroupRef) : Nat :=
  s.clusters.foldl (fun n c => n + (c.copies.filter fun o => o.run.isNone && o.team == r.team && o.grp == r.grp).length) 0

/-- COPYST (R270). -/
def execCopyst (f : MF) (s : State) : Out :=
  issue (.copyst f) s fun c =>
    let n := copiesOf c.s c.r
    if c.act = 0 then vecOf fun _ => 0
    else if f.mod.toNat % 64 < n then .stall
    else .go { vec := some fun _ => BitVec.ofNat 128 (n + b2n c.g.copyCancelled * 2 ^ 16 + b2n c.g.copyRange * 2 ^ 17)
               post := fun s => acquireAt (updGroup s c.r fun g => { g with copyCancelled := false, copyRange := false })
                 c.t.core shSystem }

/-! Copies: performing. -/

/-- Pieces of `n` bytes at `a` within 64-byte lines: offset and length. -/
def lineRuns (a n : Nat) : List (Nat × Nat) :=
  (List.range ((a % 64 + n + 63) / 64)).map fun k =>
    let lo := if k = 0 then 0 else 64 * k - a % 64
    (lo, min n (64 * (k + 1) - a % 64) - lo)

/-- Who an operation acts for. -/
structure CopyEnv where
  t : Team
  gr : Grid
  rel : Bool

/-- The team of an operation, or what stands for it. -/
def copyEnv (s : State) (part : Nat) (o : CopyOp) : CopyEnv :=
  match o.run, teamAt s o.team, gridAt s o.team.grid with
  | none, some t, some gr => ⟨t, gr, ((t.groups[o.grp]?).map (·.outRel)).getD true⟩
  | _, _, _ => ⟨ghostTeam o.team part o.core, ghostGrid o.team.grid part, true⟩

/-- The place of the `n` bytes at an address, or their fault (R271). -/
def copyPlace (s : State) (e : CopyEnv) (win write : Bool) (a : Int) (n : Nat) : Place ⊕ Cause :=
  let va := wrap 64 a
  if win then match windowPlace s e.gr e.t.ref.lin va 1 with
    | .inl (q, b, off) => .inl (.bank q b off)
    | .inr c => .inr (engCause c 0 va)
  else match xlate s e.t.part e.t.core va (if write then 10 else 1) with
    | .err c => .inr (engCause c 0 va)
    | .ok pa share _ => match detFault e.gr e.t.ref.lin e.rel false (!write) write va n share with
      | some d => .inr (engCause d.1 d.2 va)
      | none => .inl (.virt va pa share)

/-- The places of `n` bytes, piece by piece, or the first fault. -/
def copyPlaces (s : State) (e : CopyEnv) (win write : Bool) (a : Int) (n : Nat) : List (Nat × Place) ⊕ Cause :=
  (lineRuns (wrap 64 a) n).foldl (fun r x =>
    match r, copyPlace s e win write (a + (x.1 : Int)) x.2 with
    | .inr c, _ => .inr c
    | .inl _, .inr c => .inr c
    | .inl l, .inl p => .inl (l ++ [(x.2, p)])) (.inl [])

/-- The bytes that a write puts at its places. -/
def writtenAt (ps : List (Nat × Place)) (b : List Byte) : List (Nat × List Byte) :=
  (ps.foldl (fun (r : List (Nat × List Byte) × List Byte) x =>
    (match x.2 with | .virt _ pa _ => r.1 ++ [(pa, r.2.take x.1)] | .bank .. => r.1, r.2.drop x.1)) ([], b)).1

/-- The side log (R262), the share (R321) and host lines (R435) that reads of places wait for, or the write of `b` there. -/
def copyGate (s : State) (e : CopyEnv) (b : Option (List Byte)) (ps : List (Nat × Place)) : Option UnitRes :=
  let u (pa : Nat) : HostUse := match b with | some b => lineUse (writtenAt ps b) pa | none => .load
  let slow : Bool := ps.any fun x => match x.2 with
    | .virt va _ _ => (slogOf s e.t.core).any (fun y => slogTouches y va x.1) || (b.isNone && shareHolds e.t va x.1)
    | .bank .. => false
  let lacks : List (Nat × Nat) := ps.filterMap fun x => match x.2 with
    | .virt _ pa sh => if (region pa == some 2 || sh = shSystem) && !(hostReady s sh pa (u pa)) then some (sh, pa) else none
    | .bank .. => none
  if slow then some .wait
  else if lacks.isEmpty then none
  else if lacks.all fun x => hostAsked s x.2 then some .wait
  else some (.ask (lacks.foldl (fun s x => hostAsk s x.1 x.2 (u x.2)) s))

/-- Read or write the places of a row: past the core's L1, at their homes. -/
def copyRead (s : State) (e : CopyEnv) (ps : List (Nat × Place)) : State × List Byte :=
  ps.foldl (fun r x =>
    let y := placeRead r.1 e.t x.2 0 2 x.1
    (y.1, r.2 ++ y.2)) (s, [])
@[inherit_doc copyRead] def copyWrite (s : State) (e : CopyEnv) (ps : List (Nat × Place)) (b : List Byte) : State :=
  hostDone (ps.foldl (fun (r : State × List Byte) x => (placeWrite r.1 e.t x.2 1 2 false (r.2.take x.1), r.2.drop x.1)) (s, b)).1
    (hostLinesOf ps)

/-- The source address of row `k`, none for a row of zeros (out of range), or its fault (R265). -/
def rowSource (s : State) (e : CopyEnv) (o : CopyOp) (k : Nat) : Option Int ⊕ Cause :=
  let d := o.desc
  if o.gather then
    let ia := dNat d 0x38 8 + 4 * k
    match windowPlace s e.gr e.t.ref.lin ia 4 with
    | .inr c => .inr (engCause c 0 ia)
    | .inl (q, b, off) =>
      let j := bankGet s q b off 4
      .inl (if j < dNat d 0x20 4 then some ((dNat d 8 8 : Int) + (j : Int) * dInt d 0x28) else none)
  else .inl (some (copyRowAddr d k).1)

/-- The next piece of an operation's row, within one 64-byte line of its destination, and of its source where the next line of that
faults: what comes of it, and the operation after it. -/
def copyPiece (s : State) (part : Nat) (o : CopyOp) : UnitRes × CopyOp :=
  let e := copyEnv s part o
  let d := o.desc
  let dst : Int := (if o.gather then (dNat d 0x10 8 : Int) + (o.prog : Int) * dInt d 0x30 else (copyRowAddr d o.prog).2) + (o.off : Int)
  match rowSource s e o o.prog with
  | .inr c => (.fault c, o)
  | .inl src =>
    let room (a : Int) : Nat := 64 - wrap 64 a % 64
    let most := min (dLen d - o.off) (room dst)
    let from' (n : Nat) : List (Nat × Place) ⊕ Cause := match src with
      | some a => copyPlaces s e (dSsp d) false (a + (o.off : Int)) n
      | none => .inl []
    let n := match from' most, src with | .inr _, some a => min most (room (a + (o.off : Int))) | _, _ => most
    let next : CopyOp :=
      if o.off + n < dLen d then { o with off := o.off + n }
      else { o with prog := o.prog + 1, off := 0, outOfRange := o.outOfRange || src.isNone }
    match from' n, copyPlace s e (dDsp d) true dst n with
    | .inr c, _ => (.fault c, o)
    | .inl _, .inr c => (.fault c, o)
    | .inl src, .inl p => match copyGate s e none src with
      | some r => (r, o)
      | none =>
        let x := copyRead s e src
        let b := if src.isEmpty then zeroBytes n else x.2
        match copyGate s e (some b) [(n, p)] with
        | some r => (r, o)
        | none => (.ok (copyWrite x.1 e [(n, p)] b), next)

/-- Pieces from the operation's progress on: the state, the operation, and what stopped it. -/
def copyPieces (part : Nat) : Nat → State → CopyOp → State × CopyOp × UnitRes
  | 0, s, o => (s, o, .ok s)
  | n + 1, s, o =>
    if dRows o.gather o.desc ≤ o.prog then (s, o, .ok s)
    else match copyPiece s part o with
      | (.ok s', o') => copyPieces part n s' o'
      | (r, _) => (s, o, r)

/-- What is left of an operation is moved, under the tables of its issue (R148). -/
def copyRun (s : State) (part : Nat) (o : CopyOp) : State × CopyOp × UnitRes :=
  let back (x : State) : State := withRoot x part (partOf s part).ptroot
  let r := copyPieces part ((dRows o.gather o.desc - o.prog) * (dLen o.desc / 32 + 3)) (withRoot s part o.root) o
  (back r.1, r.2.1, r.2.2.map back)

def copyAt (s : State) (c : ClusterRef) (k : Nat) : Option CopyOp := (clusterAt s c).bind fun x => x.copies[k]?
def updCopy (s : State) (c : ClusterRef) (id : Nat) (f : CopyOp → CopyOp) : State :=
  updCluster s c fun x => { x with copies := x.copies.map fun o => if o.id == id then f o else o }

/-- An operation ends (R269, R272): its writes are performed at their pages' scopes, its locks go, its arrival word gets T bytes, and COPYST counts it no longer. -/
def copyEnd (s : State) (c : ClusterRef) (o : CopyOp) : State :=
  let s := guestsAcked (updCluster s c fun x => { x with copies := x.copies.filter fun y => y.id != o.id })
  match o.run, gridAt s o.team.grid with
  | none, some gr =>
    let s := if dArrive o.desc = 0xffffffff then s
      else arwAddAt s gr o.team.lin (dArrive o.desc) (dTotal o.gather o.desc) o.cancelled
    let s := updGroup s ⟨o.team, o.grp⟩ fun g =>
      { g with copyCancelled := g.copyCancelled || o.cancelled, copyRange := g.copyRange || o.outOfRange }
    settleTickets s o.team.grid
  | _, _ => s

/-- The turn of an operation that waits for its ticket (R317), or writes wide pages directly behind what its team has waiting or undrained
(R335). -/
def copyTurn (s : State) (o : CopyOp) : Bool :=
  !(o.waiting || o.follows) || (match teamAt s o.team, gridAt s o.team.grid with
    | some t, some gr => (isHead gr t.ref.lin || !o.waiting) && (t.tk.share.all fun e => decide (o.born < e.born))
        && (waitingBorn s t ++ drainBorn t).all fun b => decide (o.born ≤ b)
    | _, _ => false)

/-- An operation of a cluster could start, but for its budget: its turn has come, no earlier range is in its way, and what its group did
before is performed. -/
def copyReady (s : State) (cl : Cluster) (o : CopyOp) : Bool :=
  !o.started && !o.cancelled && copyTurn s o && !(copyBlocked s cl o)
    && (match teamAt s o.team with | some t => o.run.isSome || groupSettled t o.grp o.born | none => o.run.isSome)

/-- Operations that start after a release keep their issue order (R268). -/
def copyStartable (s : State) (c : ClusterRef) (k : Nat) : Bool :=
  match clusterAt s c, copyAt s c k with
  | some cl, some o =>
    budgetOpen s 3 && (partOf s c.part).life == .running && copyReady s cl o
      && !(o.held && (cl.copies.take k).any fun x => x.held && copyReady s cl x)
  | _, _ => false

/-- COPY_OP_START (R265, R268). -/
def execCopyOpStart (c : ClusterRef) (k : Nat) (s : State) : Out :=
  event s (copyStartable s c k) fun s =>
    match copyAt s c k with
    | some o => updCopy (charge s 3 (dTotal o.gather o.desc)) c o.id fun o => { o with started := true }
    | none => s

/-- What a started or cancelled operation does next: the state after it completed or asked for host lines. -/
def copyProgress (s : State) (c : ClusterRef) (k : Nat) : Option State :=
  match copyAt s c k with
  | some o =>
    if o.cancelled then some (copyEnd s c o)
    else if !o.started || o.fault.isSome || (partOf s c.part).life == .restoring then none
    else match copyRun s c.part o with
      | (s', o', .ok _) => some (copyEnd s' c o')
      | (s', o', .wait) => if o' = o then none else some (updCopy s' c o.id fun _ => o')
      | (_, o', .ask s') => some (updCopy s' c o.id fun _ => o')
      | _ => none
  | none => none

def canCopyCompletion (s : State) (c : ClusterRef) (k : Nat) : Bool := (copyProgress s c k).isSome
/-- COPY_COMPLETION (R269, R272). -/
def execCopyCompletion (c : ClusterRef) (k : Nat) (s : State) : Out :=
  event s (canCopyCompletion s c k) fun s => (copyProgress s c k).getD s

/-- The fault an operation meets, with what was moved before it. -/
def copyFaulting (s : State) (c : ClusterRef) (k : Nat) : Option (State × CopyOp × Cause) :=
  match copyAt s c k with
  | some o =>
    if o.cancelled || !o.started || o.fault.isSome || (partOf s c.part).life == .restoring then none
    else match copyRun s c.part o with
      | (s', o', .fault e) => some (s', o', e)
      | _ => none
  | none => none

/-! Barriers. -/

/-- CBAR (R273, R274). -/
def execCbar (f : RI) (s : State) : Out := issue (.cbar f) s fun c => barAct c (.inst (f.imm.toNat % 4)) true

/-- DBAR (R283 to R285). -/
def execDbar (f : RI) (s : State) : Out :=
  issue (.dbar f) s fun c =>
    if lrNdie c.gr.lr = 0 || !(lrCoop c.gr.lr) then .trap (causeInfo tcGridbar 1) else barAct c (.die (f.imm.toNat % 4)) true

end Sys2Proof.Machine
end

