-- ==== Sys2Proof/Machine/Tickets.lean ====
section
/-! DEFINITION. TKWAIT, TKCOMMIT and DSCALE, opcodes 0xe9, 0xea and 0xed (R328 to R331), the drain of commit buffers (R319, R324,
R327) and the release of a team's slot (R222, R332). -/

namespace Sys2Proof.Machine

/-- TKWAIT (R330). -/
def execTkwait (f : RI) (s : State) : Out :=
  issue (.tkwait f) s fun c =>
    waitAct c (accessOf c c.act f.dst 0 (fun _ => 0) fun _ => 0) fun s => tkwaitTeam s c.r.team

/-- TKCOMMIT (R331). -/
def execTkcommit (f : RI) (s : State) : Out :=
  issue (.tkcommit f) s fun c =>
    if c.act != 0 && slogHolds c.s c.r c.t.core then .stall
    else if !(lrDet c.gr.lr) then .go {}
    else effect c fun s =>
      settleTickets (updGroup s c.r fun g => updThreads g c.act fun _ t => { t with post := true }) c.r.team.grid

/-- Write a scale register of a grid (R328). -/
def putScale (s : State) (grid n e : Nat) : State := updGrid s grid fun g => { g with ds := g.ds.set n (BitVec.ofNat 12 e) }

/-- The post-commit lanes of an issue (R314): those that DETRACE finds. -/
def postLanes (c : Ctx) : BitVec 32 := laneMask fun l => c.act.getLsbD l && (threadAt c.g l).post

/-- A scaled addition of the team, of a queue or the side log, or a fabric reduction under a scale register is issued and not performed: a
scale register changes for the later ones only (R329, R335). -/
def scaleOwed (s : State) (gr : Grid) (t : Team) : Bool :=
  let uses (a : Access) : Bool := isScaledAdd gr a || (a.opc == 0xfd && xdDsr (entryDesc a) != 0)
  (t.groups.any fun g => g.queue.any uses) || (slogOf s t.core).any fun e => e.team == t.ref && uses e.acc

/-- DSCALE (R329): at once outside a deterministic launch, else as a buffered operation (R317). -/
def execDscale (f : RI) (s : State) : Out :=
  issue (.dscale f) s fun c =>
    let i := f.imm.toNat
    let e := if f.mod.toNat.testBit 0 then c.av ((lowLane c.act).getD 0) % 4096 else bitsOf i 15 4
    let post := postLanes c
    if c.act = 0 then .go {}
    else if !(lrDet c.gr.lr) then
      if scaleOwed c.s c.gr c.t then .stall else effect c fun s => putScale s c.gr.id (i % 16) e
    else if c.t.tk.abortMark then .go {}
    else if post ≠ 0 then .trap ⟨tcDetrace, 1, 0, post, 0⟩
    else if ticketBuffers c.gr c.t then
      let es := [newEntry 0 (.scale (i % 16) e) (stamp c.s)]
      match addEntries c.s c.t c.gr es with
      | none => .hold (countStall c)
      | some _ => .go { post := fun s => (addEntries s c.t c.gr es).getD s }
    else if (waitingBorn c.s c.t).isEmpty && !(scaleOwed c.s c.gr c.t) then effect c fun s => putScale s c.gr.id (i % 16) e
    else .stall

/-! Draining. -/

/-- The words of a reduction entry: offset and operand; a scaled addition's take 8 B each (R327). -/
def entryWords (e : Entry) (w : Nat) : List (Nat × Nat) :=
  (List.range (128 / w)).filterMap fun k =>
    if e.mask.getD (w * k) false then some (w * k, ofBytes ((e.data.drop (w * k)).take w)) else none

/-- Runs of masked bytes of an entry: offset and bytes. -/
def entryRuns (e : Entry) : List (Nat × List Byte) :=
  ((e.data.zip e.mask).zipIdx.filter fun x => x.1.2).map fun x => (x.2, [x.1.1])

/-- The releases of the ordered stores that an entry holds (R306, R322): its write is one after a narrow release where one of them is
such, or some thread of its team holds one. A mark too many only promotes early. -/
def entryRelease (s : State) (t : Team) (e : Entry) (share : Nat) : State × Bool :=
  let s := e.rels.foldl (fun s x => markRelease (releaseAt s t.core share) ⟨t.ref, x.1⟩ x.2 share) s
  (s, (!e.rels.isEmpty && share != shTeam && decide (share < shPackage))
    || (teamAt s t.ref).any fun t => t.groups.any fun g => g.threads.any (·.narrow))

/-- Perform an entry at its place (R319, R327); `va` and `pa` are those of its line. -/
def entryApply (s : State) (t : Team) (gr : Grid) (e : Entry) (va pa share : Nat) : State :=
  let place (off : Nat) : Place := .virt (va + off) (pa + off) share
  let (s, narrow) := entryRelease s t e share
  let s := match e.kind with
    | .scale n x => putScale s gr.id n x
    | .store => (entryRuns e).foldl (fun s x => placeWrite s t (place x.1) 1 2 narrow x.2) s
    | .reduce sub w sgn =>
      (entryWords e (if sub = 9 then 8 else w)).foldl (fun s x =>
        if sub = 9 then
          let ex := (scaleOf gr (va + x.1)).toNat
          let (n, fl) := scaledAddend w ex x.2
          orDflags (placeUpdate s t (place x.1) 8 narrow fun old => some (wrap 64 ((old : Int) + n))).1 gr.id fl
        else (placeUpdate s t (place x.1) w narrow fun old => some (atomNew sub w sgn old x.2)).1) s
    | .tileAdd ty =>
      let s := l1Flush (tlbFill s t.part t.core va) t.core (pa / 128)
      let old := (List.range 128).map fun i => rdHome s (pa + i)
      let z := addRow ((Ty.ofCode ty).getD .f32) old e.data e.mask
      let put (s : State) : State := (((z.1.zip e.mask).zipIdx).filter fun x => x.1.2).foldl
        (fun s x => wrHome s (some share) (pa + x.2) x.1.1) s
      orMstat (coreWrote (put s) t.core narrow share pa) t.ref z.2
  if shPackage ≤ share then guestsAcked s else s

/-- Change the oldest entry of a share. -/
def updHead (s : State) (t : TeamRef) (f : Entry → Entry) : State :=
  updTeam s t fun t => { t with tk := { t.tk with share := modAt t.tk.share 0 f } }

/-- The oldest entry is performed and leaves. -/
def drainDone (s : State) (t : TeamRef) : State :=
  settleTickets (updTeam s t fun t => { t with tk := { t.tk with share := t.tk.share.drop 1 } }) t.grid

/-- A drain's fault that is no missing page (R324): taken by the lowest group that is not DONE, else the ticket is aborted. -/
def drainFault (s : State) (t : Team) (code va : Nat) : State :=
  match (List.range t.groups.length).find? fun k => (t.groups[k]?).any fun g => g.status != .done with
  | some k =>
    updGroup (updHead s t.ref fun e => { e with takenBy := some k }) ⟨t.ref, k⟩ fun g =>
      { g with pending := g.pending ++ [⟨code, 0, 3, 0, BitVec.ofNat 64 va⟩] }
  | none => settleTickets (markAborted s t.ref) t.ref.grid

/-- What the drain of the head's oldest entry does now (R319, R324). An entry that covers a host line writes it at its GO (R435). -/
def drainStep (s : State) (r : TeamRef) : Option State :=
  match teamAt s r, gridAt s r.grid with
  | some t, some gr =>
    match t.tk.share with
    | [] => none
    | e :: _ =>
      if !(lrDet gr.lr) || !(isHead gr r.lin) || !(partRuns s r) || e.takenBy.isSome || (e.asked && !e.failed)
          || (waitingBorn s t ++ drainBorn t).any fun b => decide (b < e.born) then none
      else match e.kind with
        | .scale .. => some (drainDone (entryApply s t gr e 0 0 0) r)
        | _ =>
          let va := 128 * e.line
          let pfail (code : Nat) : Option State :=
            if code = tcPfload then some (updHead (pageRequest s t.part va 4) r fun e => { e with asked := true })
            else some (drainFault s t code va)
          if e.failed then some (drainFault s t tcProt va)
          else match xlate s t.part t.core va 10 with
          | .err code => pfail code
          | .ok pa share _ =>
            let owes := if e.rels.isEmpty then none else releaseWaits s t.core share
            if owes.isSome then (match owes with | some (.done u) => some u | _ => none)
            else if lockedAt s t.core t.part none (signed 64 va) 128 true || (slogOf s t.core).any (fun x => (List.range 128).any fun i => e.mask.getD i false && slogTouches x (va + i) 1) then none
            else
              let half (k : Nat) (e : Entry) : Entry := { e with mask := (e.mask.zipIdx).map fun x => x.1 && x.2 / 64 == k }
              let rest (k : Nat) (e : Entry) : Entry := { e with mask := (e.mask.zipIdx).map fun x => x.1 && x.2 / 64 != k }
              let use (p : Nat) : HostUse := if e.kind == .store then lineUse ((entryRuns e).map fun x => (pa + x.1, x.2)) p else .part
              let halves := [0, 1].filter fun k => (half k e).mask.any fun b => b
              let lacks := if region pa == some 2 || share = shSystem then
                  halves.filter fun k => !(hostReady s share (pa + 64 * k) (use (pa + 64 * k))) else []
              let run (s : State) (e : Entry) : State :=
                hostDone (entryApply s t gr e va pa share) (if region pa == some 2 then [pa / 64, pa / 64 + 1] else [])
              match halves.find? fun k => !(lacks.contains k) && !(grantedOf s use [(0, .virt va (pa + 64 * k) share)]).isEmpty with
              | some k =>
                if lacks.isEmpty then some (drainDone (run s e) r) else some (updHead (run s (half k e)) r (rest k))
              | none =>
                if lacks.isEmpty then some (drainDone (run s e) r)
                else if lacks.all fun k => hostAsked s (pa + 64 * k) then none
                else some (lacks.foldl (fun s k => hostAsk s share (pa + 64 * k) (use (pa + 64 * k))) s)
  | _, _ => none

def canCommitDrainEntry (s : State) (t : TeamRef) : Bool := (drainStep s t).isSome
/-- COMMIT_DRAIN_ENTRY (R319). -/
def execCommitDrainEntry (t : TeamRef) (s : State) : Out :=
  event s (canCommitDrainEntry s t) fun s => (drainStep s t).getD s

/-! The release of a slot. -/

/-- No operation of the team is pending (R222), but for those that can no longer go on: their fault was taken by a handler that ended its
group, or they stand behind such a one. They are discarded with the slot (R224, R271). -/
def opsSettled (s : State) (t : Team) : Bool :=
  let behind (x o : EngOp) : Bool := !o.started && (opsMeet x o || (x.kind.isTransfer && o.kind.isTransfer)
    || (x.kind.isGauntlet && o.kind.isGauntlet) || (x.kind == .mma && o.kind == .mma && x.ctl.head? == o.ctl.head?))
  let left : List EngOp := t.eops.foldl (fun l o =>
    if (o.fault.isSome && o.takenBy.isSome) || l.any fun x => behind x o then l ++ [o] else l) []
  t.eops.length == left.length && s.clusters.all fun c =>
    let ended (o : CopyOp) : Bool := o.team == t.ref && o.fault.isSome && o.takenBy.isSome
    c.copies.all fun o => o.run.isSome || o.team != t.ref || ended o
      || (!o.started && !o.cancelled && copyBlocked s { c with copies := (c.copies.filter ended) ++ [o] } o)

/-- R222 and R332; a fault that a group of the team has not taken yet is passed on first (R100). -/
def canTeamSlotRelease (s : State) (r : TeamRef) : Bool :=
  match teamAt s r, gridAt s r.grid with
  | some t, some gr =>
    let faults (g : Group) : Bool := !g.side.isEmpty || g.pending.any fun c => c.code != tcBarhang && c.code != tcCancel
    (t.groups.all fun g => g.status == .done && !(faults g)) && opsSettled s t && t.stream.st != .running && t.tk.share.isEmpty
      && (!(lrDet gr.lr) || t.tk.retired != .none)
      && (partOf s t.part).life == .running
  | _, _ => false

/-- The team's slot and everything it holds is free (R222); its CACHE banks are written back (R202), its queues go, the barriers
of others count it as arrived, and waiting accumulator requests are granted. -/
def releaseSlot (s : State) (r : TeamRef) : State :=
  match teamAt s r with
  | some t =>
    let s := if t.banks.any fun b => b.mode == .cache then l1Drop s fun l => l.core == t.core else s
    let s := { s with
      teams := s.teams.filter fun x => x.ref != r
      monitors := s.monitors.filter fun m => m.grp.team != r
      clusters := s.clusters.map fun (c : Cluster) =>
        { c with hqs := c.hqs.filter fun q => q.home != r, copies := c.copies.filter fun o => o.run.isSome || o.team != r } }
    let s := updGrid s r.grid fun g => { g with released := r.lin :: g.released }
    accGrant (fireBars s r barKeys) t.core
  | none => s

/-- TEAM_SLOT_RELEASE (R222). -/
def execTeamSlotRelease (t : TeamRef) (s : State) : Out :=
  event s (canTeamSlotRelease s t) fun s => releaseSlot s t

end Sys2Proof.Machine
end

