-- ==== Sys2Proof/Machine/Milliner.lean ====
section
/-! DEFINITION. The Milliner: tree requests and vocabularies, opcodes 0xf0 to 0xf8 (R345 to R364), pools (R336 to R340), prunes
and what they cancel (R359, R360), and its events. -/

namespace Sys2Proof.Machine

/-! Pools. -/

def updPool (s : State) (part k : Nat) (f : Pool → Pool) : State :=
  updPart s part fun p => { p with pools := p.pools.map fun x => if x.1 == k then (x.1, f x.2) else x }

/-- The pool a descriptor describes (R337, R339); none where it breaks R337. -/
def poolOfDesc (b : List Byte) : Option Pool :=
  let w0 := dNat b 0 4
  let bpp := w0 % 8
  let fmt := bitsOf w0 7 3
  let dlog := bitsOf w0 9 8
  let nhead := bitsOf w0 25 10
  let arena := dNat b 8 8
  let npage := dNat b 0x10 4
  let nnode := dNat b 0x14 4
  let area := dNat b 0x18 8
  let es := if fmt = 11 ∨ fmt = 12 then 2 else 1
  if bpp = 7 ∨ w0 / 2 ^ 26 ≠ 0 ∨ dNat b 4 4 ≠ 0 ∨ dNat b 0x24 92 ≠ 0 ∨ !([11, 12, 13, 14].contains fmt)
      ∨ arena % (16 * 2 ^ (12 + bpp)) ≠ 0 ∨ npage = 0 ∨ 2 ^ 24 < npage ∨ nnode = 0 ∨ 2 ^ 24 < nnode ∨ area % 4096 ≠ 0
      ∨ npage < dNat b 0x20 4 ∨ 2 ^ (12 + bpp) < (nhead + 1) * 2 * (32 * 2 ^ dlog) * es then none
  else some
    { bppLog := bpp, fmt := fmt, dlog := dlog, nhead := nhead, arena := arena, npage := npage, nnode := nnode, metaBase := area
      reserve := dNat b 0x20 4, nodes := [], gens := [], pref := [], pageStack := [], freshPage := 0, nodeStack := []
      freshNode := 0, free := npage, dying := [] }

/-- POOLCTL.ERR (R336). -/
def poolErr (s : State) (part : Nat) (e : Bool) : State := updPart s part fun p => { p with poolErr := e }

/-- CREATE (R336): refused where the pool exists, or its descriptor or private area cannot be reached. -/
def poolCreate (s : State) (part k : Nat) : State :=
  let base := canon57 (bitsOf (partOf s part).poolbase.toNat 56 12 * 4096 + 128 * k)
  match poolOf s part k, virtRead s part base 128 with
  | none, .inl b => match poolOfDesc b with
    | some p =>
      if (engFault s part p.metaBase (p.nnode * 1024 + p.npage * 8) 3).isSome then poolErr s part true
      else poolErr (updPart s part fun x => { x with pools := x.pools ++ [(k, p)] }) part false
    | none => poolErr s part true
  | _, _ => poolErr s part true

/-! What a prune cancels (R359). -/

/-- An attention operation names one of some nodes of a pool. -/
def attnNames (o : EngOp) (pool : Nat) (ids : List Nat) : Bool :=
  let a := o.atd
  o.kind == .attn && a.pool == pool
    && (ids.contains a.tag || ids.contains a.knode || (List.range a.nq).any fun r => ids.contains (o.queryRow r).1)

/-- A team as a prune of some nodes of a pool leaves it: its operations that they tag are cancelled (R249, R359), and it is to take CANCEL
where they are its branch (R360). -/
def pruneTeam (grids : List Grid) (pool : Nat) (ids : List Nat) (t : Team) : Team :=
  let hit : Bool := (grids.find? fun g => g.id == t.ref.grid).any fun g =>
    lrBpool g.lr == pool && ids.contains (lrBranch g.lr)
  { t with
    eops := t.eops.map fun (o : EngOp) => if attnNames o pool ids then { o with cancelled := true } else o
    pruned := t.pruned || hit }

/-- Cancel the operations of a partition tagged with nodes that became stale, those of saved teams in place (R249, R359), and mark the
teams whose branch they are (R360). -/
def cancelOps (s : State) (part pool : Nat) (ids : List Nat) : State :=
  let copy (o : CopyOp) : CopyOp := if dTagv o.desc && ids.contains (dTag o.desc) then { o with cancelled := true } else o
  let kept (l : List Grid) (x : Parked) : Parked := { x with team := pruneTeam l pool ids x.team, copies := x.copies.map copy }
  { s with
    teams := s.teams.map fun (t : Team) => if t.part == part then pruneTeam s.grids pool ids t else t
    parked := s.parked.map fun x => if x.team.part == part then kept s.grids x else x
    saves := s.saves.map fun (c : SavedCtx) =>
      if c.part == part then { c with teams := c.teams.map (kept c.grids), copies := c.copies.map copy } else c
    clusters := s.clusters.map fun (c : Cluster) => if c.ref.part == part then { c with copies := c.copies.map copy } else c }

/-- A cancelled operation of a partition has not ended yet; those of saved teams perform no further write (R359). -/
def cancelsPending (s : State) (part : Nat) : Bool :=
  (s.teams.any fun t => t.part == part && t.eops.any fun o => o.cancelled)
    || s.clusters.any fun c => c.ref.part == part && c.copies.any fun o => o.cancelled

/-- The operations of a team that comes back, with those cancelled whose nodes became stale meanwhile (R359). -/
def recheckOps (s : State) (part : Nat) (x : Parked) : Parked :=
  let op (o : EngOp) : EngOp :=
    if o.kind == .attn && attnStale s part o.atd ((List.range o.atd.nq).map o.queryRow) then { o with cancelled := true } else o
  let copy (o : CopyOp) : CopyOp := if dTagv o.desc && tagStale s part (dTag o.desc) then { o with cancelled := true } else o
  { x with team := { x.team with eops := x.team.eops.map op }, copies := x.copies.map copy }

/-- A prune of every root of a pool with its cancellations: no id of it is live any more (R336, R359). -/
def pruneRoots (s : State) (part k : Nat) (p : Pool) : State :=
  let roots := sortAsc ((p.nodes.filter fun n => n.st != .dying && n.parent.isNone).map (·.idx))
  let out := pruneAll roots p [] []
  cancelOps (updPool s part k fun _ => out.1) part k out.2.2

/-- Everything that a pool's prunes wait for has ended: cancelled operations and earlier prunes (R359). -/
def poolQuiet (s : State) (part k : Nat) : Bool := !(cancelsPending s part) && (poolOf s part k).all fun p => p.dying.isEmpty

/-- The pool is removed, and the CSRW of its DESTROY completes (R148, R336). -/
def poolRemove (s : State) (part k : Nat) : State :=
  let waiters := ((partOf s part).gone.filter fun x => x.1 == k).filterMap fun x => x.2.waiter
  let s := updPart s part fun x => { x with pools := x.pools.filter fun y => y.1 != k, gone := x.gone.filter fun y => y.1 != k }
  waiters.foldl (fun s w => updGroup s w.1 fun g => { g with csrw := false }) s

/-- DESTROY (R336) for a group's CSRW or the host: a prune of every root, after which the pool is removed. Where operations are still to
end or pages to return, the pool stays till then and the CSRW with it (R148). -/
def poolDestroy (s : State) (part k : Nat) (r : Option GroupRef) : State :=
  match poolOf s part k with
  | none => poolErr s part true
  | some p =>
    let s := poolErr (pruneRoots s part k p) part false
    if poolQuiet s part k then poolRemove s part k
    else
      let s := updPart s part fun x => { x with gone := x.gone ++ [(k, ⟨[], r.map fun r => (r, 0, 0)⟩)] }
      match r with
      | some r => updGroup s r fun g => { g with csrw := true }
      | none => s

/-- The end of a DESTROY that waited: nodes opened meanwhile are pruned too, and the pool is removed once nothing is left to end. -/
def destroyEnd (s : State) (part k : Nat) : Option State :=
  match poolOf s part k with
  | some p =>
    if !((partOf s part).gone.any fun x => x.1 == k) || !(poolQuiet s part k) then none
    else
      let s := pruneRoots s part k p
      some (if poolQuiet s part k then poolRemove s part k else s)
  | none => none

/-- RESERVE (R336). -/
def poolReserve (s : State) (part k v : Nat) : State :=
  match poolOf s part k with
  | some p => if p.npage < v then poolErr s part true else poolErr (updPool s part k fun p => { p with reserve := v }) part false
  | none => poolErr s part true

/-- POOLCTL_CREATE (R336, R339). -/
def execPoolctlCreate (part pool : Nat) (s : State) : Out := event s (decide (pool < 16)) fun s => poolCreate s part pool
/-- POOLCTL_DESTROY (R336). -/
def execPoolctlDestroy (part pool : Nat) (s : State) : Out := event s (decide (pool < 16)) fun s => poolDestroy s part pool none
/-- POOLCTL_RESERVE (R336). -/
def execPoolctlReserve (part pool val : Nat) (s : State) : Out :=
  event s (decide (pool < 16) && decide (val < 2 ^ 32)) fun s => poolReserve s part pool val

/-! Vocabularies. -/

/-- What a request of one lane answers: a value, a trap with INFO, a faulting read with its address, an access of the Milliner
that failed, or a value that comes when pages have returned. -/
inductive Reply where
  | val (v : Nat)
  | trap (code info : Nat)
  | fault (code info va : Nat)
  | machine
  | later (v : Nat)
  /-- a read that waits, for the side log, the share or these host lines -/
  | wait (lacks : List (Nat × Nat))
  deriving DecidableEq, Repr

/-- A plain load of PACKAGE scope by a thread of a group (R348): locks (R268), deterministic checks (R325), the side log (R262), the
share (R321) and host lines (R435) as for its other loads. -/
def tableRead (s : State) (t : Team) (gr : Grid) (g : Group) (va n : Nat) : Nat ⊕ Reply :=
  match coreLoad s t va n, xlate s t.part t.core va 1 with
  | .inr e, _ => .inr (.fault e.1 0 e.2)
  | _, .err c => .inr (.fault c 0 va)
  | .inl b, .ok pa share _ =>
    let lacks := ([(share, pa), (share, (pa + n - 1) / 64 * 64)].filter fun x =>
      (region x.2 == some 2 || x.1 == shSystem) && !(hostReady s x.1 x.2 .load))
    if lockedAt s t.core t.part none (signed 64 va) n false then .inr (.fault tcLockhit 0 va)
    else match detFault gr t.ref.lin g.outRel false true false va n share with
      | some f => .inr (.fault f.1 f.2 va)
      | none =>
        if ((slogOf s t.core).any fun e => slogTouches e va n) || shareHolds t va n then .inr (.wait [])
        else if !lacks.isEmpty then .inr (.wait lacks)
        else .inl (ofBytes ((b.zipIdx).map fun x => shareByte t (va + x.2) x.1))

/-- How the tables of a vocabulary are read: a number of so many bytes at an address, or what stands in the way. -/
abbrev TableReader := Nat → Nat → Nat ⊕ Reply

/-- Read `n` bytes of a table, then go on. -/
def vocRead (rd : TableReader) (va n : Nat) (f : Nat → Reply) : Reply :=
  match rd (va % 2 ^ 64) n with
  | .inl v => f v
  | .inr e => e

/-- The descriptor of a vocabulary of the table at `base` (R362), as a number of 512 bits. -/
def vocWith (rd : TableReader) (base v : Nat) (f : Nat → Reply) : Reply :=
  vocRead rd (base + 64 * v) 64 fun d =>
    if abit d 32 = 0 ∨ bitsOf d 63 33 ≠ 0 ∨ d / 2 ^ (8 * 0x2c) ≠ 0 then .trap tcTtbad 4 else f d

/-- DETOK (R363). -/
def detokReply (rd : TableReader) (base v a : Nat) : Reply :=
  vocWith rd base v fun d =>
    if bitsOf d 31 0 ≤ a then .trap tcTtbad 6
    else vocRead rd (bitsOf d 127 64 + 8 * a) 8 fun e =>
      let len := bitsOf e 38 32
      if len = 0 ∨ 64 < len ∨ bitsOf e 63 39 ≠ 0 then .trap tcTtbad 6 else .val (e % 2 ^ 32 + len * 2 ^ 32)

/-- Search the edges from the lowest (R364). -/
def edgeSearch (rd : TableReader) (base c : Nat) (f : Option Nat → Reply) : Nat → Nat → Reply
  | 0, _ => f none
  | n + 1, i => vocRead rd (base + 8 * i) 8 fun e =>
    if e % 256 = c then f (some (bitsOf e 63 32)) else edgeSearch rd base c f n (i + 1)

/-- A trie state's record. -/
def stateWith (rd : TableReader) (d n : Nat) (f : Nat → Reply) : Reply :=
  vocRead rd (bitsOf d 255 192 + 16 * n) 16 fun r => if 256 < bitsOf r 63 32 then .trap tcTtbad 6 else f r

/-- TOKSTEP (R364). -/
def tokstepReply (rd : TableReader) (base v a c : Nat) : Reply :=
  let none32 : Nat := 0xffffffff
  vocWith rd base v fun d =>
    let nstate := bitsOf d 351 320
    let ntok := bitsOf d 31 0
    let give (nx tok : Nat) : Reply :=
      if (nx ≠ none32 ∧ nstate ≤ nx) ∨ (tok ≠ none32 ∧ ntok ≤ tok) then .trap tcTtbad 6 else .val (nx + tok * 2 ^ 32)
    let edge (r : Nat) (f : Option Nat → Reply) : Reply := edgeSearch rd (bitsOf d 319 256) c f (bitsOf r 63 32) (r % 2 ^ 32)
    let used (nx : Nat) (f : Nat → Reply) : Reply := if nstate ≤ nx then .trap tcTtbad 6 else f nx
    if 256 < c ∨ (a ≠ none32 ∧ nstate ≤ a) then .trap tcTtbad 6
    else if a = none32 then .val (none32 + none32 * 2 ^ 32)
    else stateWith rd d a fun r =>
      let tok := bitsOf r 95 64
      if c = 256 then give (if tok = none32 ∧ a ≠ 0 then none32 else 0) tok
      else edge r fun e => match e with
        | some nx => used nx fun nx => .val (nx + none32 * 2 ^ 32)
        | none =>
          if a = 0 ∨ tok = none32 then .val (none32 + none32 * 2 ^ 32)
          else if ntok ≤ tok then .trap tcTtbad 6
          else stateWith rd d 0 fun r0 => edge r0 fun e => match e with
            | some nx => used nx fun nx => .val (nx + tok * 2 ^ 32)
            | none => .val (none32 + tok * 2 ^ 32)

/-! Requests. -/

/-- The requests that change a tree: they release, and wait for their turn in a deterministic launch (R347, R348). -/
def isMutating (opc : Nat) : Bool := (0xf0 ≤ opc && opc ≤ 0xf3) || opc == 0xf5

/-- The tree operation of an access for one lane. -/
def treeRun (p : Pool) (a : Access) (x y : Nat) : TreeOut :=
  match a.opc, a.sub with
  | 0xf0, _ => treeFork p x
  | 0xf1, _ => treeAppend p x y (abit a.mod 4 == 1)
  | 0xf2, _ => treePrune p x
  | 0xf3, _ => treeCommit p x y
  | 0xf4, _ => treeWalk p x y
  | 0xf5, 0 => treeRef p .attach x
  | 0xf5, 1 => treeRef p .detach x
  | 0xf5, 2 => treeRef p .pin x
  | 0xf5, 3 => treeRef p .unpin x
  | 0xf5, _ => treeRef p .evict x
  | _, 0 => treeGives p p.free
  | _, 1 => treeGives p p.reserve
  | _, _ => treeState p x

/-- Copy the filled prefix of a page (R352), performed at PACKAGE scope (R304, R348), or nothing where the arena cannot be reached. -/
def pageCopy (s : State) (part : Nat) (p : Pool) (g q n : Nat) : Option State :=
  let at' (k : Nat) : Nat := (p.arena + poolPageBytes p * k) % 2 ^ 64
  match virtRead s part (at' g) n with
  | .inl b => match virtWrite s part (at' q) b with
    | .inl s => some (guestsAcked s)
    | .inr _ => none
  | .inr _ => none

/-- The parts of PD.META that a request accesses, as address and length (R337, R340): the records of the nodes that it names or
changes, and the words of the pages whose PREF it changes (log entry 102). -/
def metaTouched (p q : Pool) (x : Nat) : List (Nat × Nat) :=
  let named := if x = 0xffffffff ∨ idMalformed p x = true then [] else [x % 2 ^ 24]
  let nodes := named ++ ((q.nodes.filter fun n => !(p.nodes.contains n)) ++ p.nodes.filter fun n => (nodeAt q n.idx).isNone).map (·.idx)
  let pages := ((q.pref.filter fun y => !(p.pref.contains y)) ++ p.pref.filter fun y => prefGet q y.1 == 0).map (·.1)
  nodes.map (fun i => ((p.metaBase + 1024 * i) % 2 ^ 64, 1024)) ++ pages.map fun g => ((p.metaBase + 1024 * p.nnode + 8 * g) % 2 ^ 64, 8)

/-- One lane's request (R346, R347): the state after and the reply. A result that waits for pages names its lane. -/
def requestLane (s : State) (rd : TableReader) (r : GroupRef) (part : Nat) (a : Access) (l : Nat) : State × Reply :=
  let base := canon57 (bitsOf (partOf s part).vocbase.toNat 56 12 * 4096)
  let x := (Lanes.at a.addr l 0).toNat % 2 ^ 32
  let y := (Lanes.at a.data l 0).toNat % 2 ^ 32
  let k := a.mod % 16
  if a.opc = 0xf7 then (s, detokReply rd base k x)
  else if a.opc = 0xf8 then (s, tokstepReply rd base k x y)
  else match poolOf s part k with
    | none => (s, .trap tcTtbad 4)
    | some p =>
      let o := treeRun p a x y
      if (a.opc != 0xf6 || a.sub == 2) && (metaTouched p o.pool x).any fun z => (engFault s part z.1 z.2 3).isSome then (s, .machine)
      else match o.reply with
      | .trap code info => (s, .trap code info)
      | .val v =>
        let s' : Option State := match o.copy with
          | some (g, q, n) => pageCopy (charge s 2 n) part p g q n
          | none => some s
        match s' with
        | some s => (cancelOps (updPool s part k fun _ => o.pool) part k o.pruned, .val v)
        | none => (s, .machine)
      | .onReturn v bs =>
        let p' := { o.pool with dying := o.pool.dying ++ [⟨bs, some (r, a.tok, l + 32 * v)⟩] }
        (cancelOps (updPool s part k fun _ => p') part k o.pruned, .later v)

/-- The lanes of a request, in ascending order, until one faults (R346, R350): the state, results, lanes whose results come
later, and what stopped it. -/
def requestLanes (rd : TableReader) (r : GroupRef) (part : Nat) (a : Access) :
    List Nat → State → List (Nat × Nat) → BitVec 32 → State × List (Nat × Nat) × BitVec 32 × Option (Nat × Reply)
  | [], s, vs, w => (s, vs, w, none)
  | l :: rest, s, vs, w =>
    match requestLane s rd r part a l with
    | (s, .val v) => requestLanes rd r part a rest s (vs ++ [(l, v)]) w
    | (s, .later _) => requestLanes rd r part a rest s vs (w ||| laneMask fun i => i == l)
    | (s, e) => (s, vs, w, some (l, e))

/-- Older entries that a request follows (R347, R348, R164), unsent messages among them (R401). -/
def requestOrder (g : Group) (k : Nat) (a : Access) : Bool :=
  (g.queue.take k).all fun b => b.fault.isNone && !(isRequest b.opc && b.lanes != 0) && !(acquires b && !(isRequest b.opc))
    && !(isMutating a.opc && (isMemOp b.opc || isFabric b.opc))

/-- Perform entry `k` of a group, a request; `turn` at its team's turn (R317). A TTAPPEND waits for the Milliner's budget (R415, R416). -/
def requestStep (s : State) (r : GroupRef) (k : Nat) (turn : Bool) : Option State :=
  match teamAt s r.team, groupAt s r, gridAt s r.team.grid with
  | some t, some g, some gr =>
    match g.queue[k]? with
    | none => none
    | some a =>
      if !(isRequest a.opc) || a.fault.isSome || a.lanes = 0 || (a.stage == 2 && !turn) || !(requestOrder g k a)
          || (isMutating a.opc && (slogHolds s r t.core || followsOwed s t gr g a)) || (a.opc == 0xf1 && !(budgetOpen s 2)) then none
      else if lrDet gr.lr && isMutating a.opc && t.tk.abortMark then some (withdraw s r a a.lanes)
      else
        let s := if isMutating a.opc then markRelease (releaseAt s t.core shPackage) r a.all shPackage else s
        match requestLanes (tableRead s t gr g) r t.part a (lanesOf a.lanes) s [] 0 with
        | (s, vs, w, e) =>
          match e with
          | some (_, .machine) => some (mcheck s t.part)
          | some (_, .wait lacks) =>
            let s' := lacks.foldl (fun s x => hostAsk s x.1 x.2 .load) s
            let m := laneMask fun l => vs.any fun x => x.1 == l
            if m ≠ 0 then some (finishLanes (acquireAt s' t.core shPackage) r a m fun l =>
              match vs.find? fun x => x.1 == l with | some x => x.2 | none => 0)
            else if lacks.all fun x => hostAsked s x.2 then none
            else some s'
          | _ =>
            let m := laneMask fun l => vs.any fun x => x.1 == l
            let s := setEntry s r a.tok fun x => { x with owed := x.owed ||| w, stage := 0 }
            let a' := { a with owed := a.owed ||| w, lanes := a.lanes &&& ~~~w }
            let s := acquireAt s t.core shPackage
            let s := setEntry s r a.tok fun x => { x with lanes := a'.lanes }
            let s := if m = 0 ∧ (w ≠ 0 ∨ e.isSome) then s
              else finishLanes s r a' m fun l => match vs.find? fun x => x.1 == l with | some x => x.2 | none => 0
            match e with
            | some (l, .trap code info) => some (setEntry s r a.tok fun x =>
                { x with fault := some ⟨code, info, 4, laneMask fun i => i == l, 0⟩ })
            | some (l, .fault code info va) => some (setEntry s r a.tok fun x =>
                { x with fault := some ⟨code, info, 2, laneMask fun i => i == l, BitVec.ofNat 64 va⟩ })
            | _ => some s
  | _, _, _ => none

@[inherit_doc requestStep] def requestTry (s : State) (r : GroupRef) (k : Nat) (turn : Bool) : Option State :=
  (requestStep s r k turn).map fun s => settleTickets s r.team.grid

/-- Issue a request (R345, R346); one that changes a tree waits in a deterministic launch (R317). -/
def requestAct (c : Ctx) (f : RRR) : Act :=
  let a := accessOf c c.act f.dst f.mod.toNat (fun l => c.av l % 2 ^ 32) fun l => c.bv l % 2 ^ 32
  let wait : Bool := isMutating a.opc && lrDet c.gr.lr && ticketBuffers c.gr c.t && !c.t.tk.abortMark
  if c.act = 0 then .go {}
  else if queueFull c.g then .stall
  else .go { vec := some fun _ => 0, lazy := true, post := pushAccess c.r { a with stage := if wait then 2 else 0 } }

/-- TTFORK (R351). -/
def execTtfork (f : RRR) (s : State) : Out := issue (.ttfork f) s fun c => requestAct c f
/-- TTAPPEND (R352). -/
def execTtappend (f : RRR) (s : State) : Out := issue (.ttappend f) s fun c => requestAct c f
/-- TTPRUNE (R353). -/
def execTtprune (f : RRR) (s : State) : Out := issue (.ttprune f) s fun c => requestAct c f
/-- TTCOMMIT (R354). -/
def execTtcommit (f : RRR) (s : State) : Out := issue (.ttcommit f) s fun c => requestAct c f
/-- TTWALK (R357). -/
def execTtwalk (f : RRR) (s : State) : Out := issue (.ttwalk f) s fun c => requestAct c f
/-- TTREF.ATTACH (R355). -/
def execTtrefAttach (f : RRR) (s : State) : Out := issue (.ttrefAttach f) s fun c => requestAct c f
/-- TTREF.DETACH (R355). -/
def execTtrefDetach (f : RRR) (s : State) : Out := issue (.ttrefDetach f) s fun c => requestAct c f
/-- TTREF.PIN (R355). -/
def execTtrefPin (f : RRR) (s : State) : Out := issue (.ttrefPin f) s fun c => requestAct c f
/-- TTREF.UNPIN (R355). -/
def execTtrefUnpin (f : RRR) (s : State) : Out := issue (.ttrefUnpin f) s fun c => requestAct c f
/-- TTREF.EVICT (R355). -/
def execTtrefEvict (f : RRR) (s : State) : Out := issue (.ttrefEvict f) s fun c => requestAct c f
/-- TTQUERY.FREE (R356). -/
def execTtqueryFree (f : RRR) (s : State) : Out := issue (.ttqueryFree f) s fun c => requestAct c f
/-- TTQUERY.RESERVE (R356). -/
def execTtqueryReserve (f : RRR) (s : State) : Out := issue (.ttqueryReserve f) s fun c => requestAct c f
/-- TTQUERY.STATE (R356). -/
def execTtqueryState (f : RRR) (s : State) : Out := issue (.ttqueryState f) s fun c => requestAct c f
/-- DETOK (R363). -/
def execDetok (f : RRR) (s : State) : Out := issue (.detok f) s fun c => requestAct c f
/-- TOKSTEP (R364). -/
def execTokstep (f : RRR) (s : State) : Out := issue (.tokstep f) s fun c => requestAct c f

/-! Events. -/

def canMillinerRequest (s : State) (r : GroupRef) (k : Nat) : Bool := 
  partRuns s r.team && (requestTry s r k false).isSome
/-- MILLINER_REQUEST (R346, R347). -/
def execMillinerRequest (g : GroupRef) (k : Nat) (s : State) : Out :=
  event s (canMillinerRequest s g k) fun s => (requestTry s g k false).getD s

/-- A lane's result arrives for a request whose pages have returned (R359): in its queue, or held by a trapped group. The completion is
an acquire at PACKAGE scope (R348). -/
def owedResult (s : State) (r : GroupRef) (tok l v : Nat) : State :=
  let m := laneMask fun i => i == l
  let s := match teamAt s r.team with | some t => acquireAt s t.core shPackage | none => s
  match groupAt s r with
  | some g => match g.queue.find? fun a => a.tok == tok with
    | some a =>
      let a' := { a with owed := a.owed &&& ~~~m }
      let s := updGroup s r fun g => deliver g a m fun _ => BitVec.ofNat 128 v
      if a.lanes = 0 ∧ a'.owed = 0 then dropEntry (updGroup s r fun g => finishDst g a) r tok
      else setEntry s r tok fun _ => a'
    | none => updGroup s r fun g =>
        let held := g.saved.flatMap fun x => x.held
        match held.find? fun a => a.tok == tok with
        | some a => { (deliver g a m fun _ => BitVec.ofNat 128 v) with
            saved := g.saved.map fun (x : SavedTrap) =>
              { x with held := x.held.map fun (a : Access) => if a.tok == tok then { a with owed := a.owed &&& ~~~m } else a } }
        | none => g
  | none => s

/-- Deliver the result of a prune (R359, step 4). -/
def pruneResult (s : State) (d : Dying) : State :=
  match d.waiter with
  | some (r, tok, lv) => settleTickets (owedResult s r tok (lv % 32) (lv / 32)) r.team.grid
  | none => s

/-- Steps 3 and 4 of R359 for the oldest prune of a pool, then the end of its DESTROY. -/
def pruneReturn (s : State) (part k : Nat) : Option State :=
  if cancelsPending s part then none
  else match poolOf s part k with
    | none => none
    | some p => match p.dying with
      | [] => destroyEnd s part k
      | d :: rest =>
        some (pruneResult (updPool s part k fun _ => { (d.batches.foldl returnBatch p) with dying := rest }) d)

def canPrunePageReturn (s : State) (part pool : Nat) : Bool := (pruneReturn s part pool).isSome
/-- PRUNE_PAGE_RETURN (R359). -/
def execPrunePageReturn (part pool : Nat) (s : State) : Out :=
  event s (canPrunePageReturn s part pool) fun s => (pruneReturn s part pool).getD s

/-- The branch of a team names no live node (R360). -/
def branchStale (s : State) (gr : Grid) : Bool :=
  let b := lrBranch gr.lr
  b != 0xffffffff && (match poolOf s gr.part (lrBpool gr.lr) with
    | some p => idMalformed p b || (nodeOf p b).isNone
    | none => true)

def canCancelDelivery (s : State) (r : TeamRef) : Bool :=
  match teamAt s r, gridAt s r.grid with
  | some t, some _ => !t.cancelled && t.pruned
  | _, _ => false
/-- CANCEL becomes pending in every group that is not DONE (R360). -/
def cancelTeam (t : Team) : Team :=
  { t with
    cancelled := true
    groups := t.groups.map fun (g : Group) => if g.status == .done then g else { g with pending := g.pending ++ [causeOf tcCancel] } }
/-- CANCEL_DELIVERY (R360): every group that is not DONE takes CANCEL. -/
def execCancelDelivery (t : TeamRef) (s : State) : Out :=
  event s (canCancelDelivery s t) fun s => updTeam s t cancelTeam

end Sys2Proof.Machine
end

