-- ==== Sys2Proof/Machine/Graphs.lean ====
section
/-! DEFINITION. Task graphs as data (R382 to R384): the graph table, nodes and edges, malformed graphs, and the signals of a run
(R385). -/

namespace Sys2Proof.Machine

/-- Fields of a node (R383). -/
def gnKind (n : List Byte) : Nat := dNat n 0 4 % 8
@[inherit_doc gnKind] def gnNsucc (n : List Byte) : Nat := bitsOf (dNat n 0 4) 19 16
@[inherit_doc gnKind] def gnNpred (n : List Byte) : Nat := dNat n 4 4 % 2 ^ 13
@[inherit_doc gnKind] def gnArg0 (n : List Byte) : Nat := dNat n 8 8
@[inherit_doc gnKind] def gnArg1 (n : List Byte) : Nat := dNat n 0x10 8
@[inherit_doc gnKind] def gnVar (n : List Byte) : Nat := dNat n 0x18 8 % 4

/-- The node kinds of R383. -/
def gnKernel : Nat := 0
@[inherit_doc gnKernel] def gnCopy : Nat := 1
@[inherit_doc gnKernel] def gnCond : Nat := 2
@[inherit_doc gnKernel] def gnWhile : Nat := 3
@[inherit_doc gnKernel] def gnEvent : Nat := 4
@[inherit_doc gnKernel] def gnSignal : Nat := 5

/-- The outgoing edges of a node in order: target and BACK. -/
def gnSucc (n : List Byte) : List (Nat × Bool) :=
  (List.range (min 8 (gnNsucc n))).map fun k =>
    let w := dNat n (0x20 + 2 * k) 2
    (w % 4096, abit w 15 == 1)

/-- An edge of a graph: source, target, BACK. -/
abbrev Edge := Nat × Nat × Bool

def graphEdges (nodes : List (List Byte)) : List Edge :=
  (nodes.zipIdx).flatMap fun x => (gnSucc x.1).map fun y => (x.2, y.1, y.2)

/-- A node's reserved bits, kind, number of successors or a successor breaks R383 or R384. -/
def nodeBad (count : Nat) (n : List Byte) : Bool :=
  let w0 := dNat n 0 4
  bitsOf w0 15 3 != 0 || decide (2 ^ 20 ≤ w0) || decide (2 ^ 13 ≤ dNat n 4 4) || decide (4 ≤ dNat n 0x18 8) || dNat n 0x30 16 != 0
    || decide (5 < gnKind n) || decide (8 < gnNsucc n)
    || ((gnKind n == gnCond || gnKind n == gnWhile) && gnNsucc n != 2)
    || (List.range (min 8 (gnNsucc n))).any fun k =>
        let w := dNat n (0x20 + 2 * k) 2
        bitsOf w 14 12 != 0 || decide (count ≤ w % 4096)

/-- The nodes that a cycle of edges without BACK leaves when nodes without a remaining predecessor are taken away, again and
again. -/
def cycleRest (edges : List Edge) : Nat → List Nat → List Nat
  | 0, l => l
  | n + 1, l => cycleRest edges n (l.filter fun v => edges.any fun e => e.2.1 == v && !e.2.2 && l.contains e.1)

/-- The nodes reached from a set without entering `avoid`. -/
def reachFrom (edges : List Edge) (avoid : Nat) : Nat → List Nat → List Nat
  | 0, l => l
  | n + 1, l =>
    reachFrom edges avoid n (edges.foldl (fun l e =>
      if l.contains e.1 && e.2.1 != avoid && !(l.contains e.2.1) then l ++ [e.2.1] else l) l)

/-- The body of a WHILE node (R384). -/
def bodyOf (nodes : List (List Byte)) (w : Nat) : List Nat :=
  match (nodes[w]?).bind fun n => (gnSucc n).head? with
  | some (t, _) => if t = w then [] else reachFrom (graphEdges nodes) w nodes.length [t]
  | none => []

/-- The edges at a node break R384: a BACK edge to a node that is no WHILE, a WHILE without exactly one BACK edge from its body, or
a wrong NPRED. -/
def edgesBad (nodes : List (List Byte)) (edges : List Edge) (i : Nat) (n : List Byte) : Bool :=
  let back := edges.filter fun e => e.2.1 == i && e.2.2
  gnNpred n != (edges.filter fun e => e.2.1 == i && !e.2.2).length
    || (if gnKind n == gnWhile then back.length != 1 || back.any fun e => !((bodyOf nodes i).contains e.1) else !back.isEmpty)

/-- The lowest node at which a graph is malformed (R384). -/
def graphBad (nodes : List (List Byte)) : Option Nat :=
  match nodes.findIdx? fun n => nodeBad nodes.length n with
  | some k => some k
  | none =>
    let edges := graphEdges nodes
    let rest := cycleRest edges nodes.length (List.range nodes.length)
    ((nodes.zipIdx).find? fun x => rest.contains x.2 || edgesBad nodes edges x.2 x.1).map (·.2)

/-- The nodes of graph `g` of a partition (R382); none where the table or the node array cannot be read, or VALID is 0. -/
def graphNodes (s : State) (part g : Nat) : Option (List (List Byte)) :=
  match virtRead s part (canon57 (bitsOf (partOf s part).graphbase.toNat 56 12 * 4096 + 16 * g)) 16 with
  | .inl e =>
    let base := dNat e 0 8
    let w := dNat e 8 8
    let n := w % 4096 + 1
    if abit w 12 = 0 ∨ 2 ^ 13 ≤ w ∨ base % 64 ≠ 0 then none
    else match virtRead s part base (64 * n) with
      | .inl b => some ((List.range n).map fun k => (b.drop (64 * k)).take 64)
      | .inr _ => none
  | .inr _ => none

/-- A node at the start of a run or of a pass (R385). -/
def freshNode (n : List Byte) : RunNode :=
  { counter := gnNpred n, taken := false, active := gnNpred n == 0, started := false }
/-- A node of a loop's body at the start of the next pass (R385): its counter is reset, and a node that is still active goes on. -/
def rearmed (n : List Byte) (x : RunNode) : RunNode := { x with counter := gnNpred n, taken := false }

/-- The WHILE node has signalled its body as taken in the current pass. -/
def entered (nodes : List (List Byte)) (t : Nat) (sts : List RunNode) : Bool :=
  match gnSucc (nodes.getD t []) with
  | x :: _ => (sts[x.1]?).any fun n => n.taken
  | [] => false

/-- Deliver signals (R385): target, taken, BACK. A taken arrival activates a node whose counter is or becomes 0; a node whose
counter becomes 0 without one is skipped and passes that on. A signal on a BACK edge resets the body's counters and starts the next pass of
the loop, unless the WHILE node has skipped its body in this pass; a node of the body that is still active stays so, and one activated
while it is active completes once (log entry 52). -/
def deliverSignals (nodes : List (List Byte)) : Nat → List (Nat × Bool × Bool) → List RunNode → List RunNode
  | 0, _, sts => sts
  | _, [], sts => sts
  | fuel + 1, (t, taken, back) :: rest, sts =>
    if back then
      if taken || entered nodes t sts then
        let body := bodyOf nodes t
        let sts := (sts.zipIdx).map fun x =>
          if x.2 == t then { x.1 with active := true, started := false }
          else if body.contains x.2 then rearmed (nodes.getD x.2 []) x.1 else x.1
        deliverSignals nodes fuel rest sts
      else deliverSignals nodes fuel rest sts
    else match sts[t]? with
      | none => deliverSignals nodes fuel rest sts
      | some n =>
        let c := n.counter - 1
        let got := n.taken || taken
        let due := c = 0 ∧ (n.counter ≠ 0 ∨ taken)
        let n' : RunNode := { n with counter := c, taken := got, active := n.active || (decide due && got) }
        let more := if due ∧ !got then (gnSucc (nodes.getD t [])).map fun y => (y.1, false, y.2) else []
        deliverSignals nodes fuel (rest ++ more) (sts.set t n')

/-- The signals of a completed node (R385): `nonzero` is the word of a COND or WHILE node. -/
def nodeSignals (n : List Byte) (nonzero : Bool) : List (Nat × Bool × Bool) :=
  if gnKind n == gnCond || gnKind n == gnWhile then
    ((gnSucc n).zipIdx).map fun x => (x.1.1, (x.2 == 0) == nonzero, x.1.2)
  else (gnSucc n).map fun y => (y.1, true, y.2)

end Sys2Proof.Machine
end

