-- ==== Sys2Proof/Machine/Start.lean ====
section
/-! DEFINITION. A team at its start (R101, R166, R191) and the clusters of a map (R367, R368). -/

namespace Sys2Proof.Machine

/-- A group at team start (R101, R166): `n` threads present, registers DEAD and zero, Cuff and Brim invalid. -/
def startGroup (grp n regs gslot : Nat) (entry : DWord) : Group :=
  { status := .ready
    threads := Lanes.mk fun l => { noThread with present := decide (32 * grp + l < n), tid := 32 * grp + l, pc := entry }
    regs := List.replicate regs ⟨.dead, zeroWords⟩
    cuffs := Vector.replicate 8 ⟨false, none, zeroWords, none⟩
    lx := noLatch, ly := noLatch
    lfsr := BitVec.ofNat 16 (0xace1 ^^^ grp), fpstat := 0, gpc := entry, sel := true, chosen := false, lines := []
    ser := ⟨false, 0, 0, 0, 0⟩, loopqs := Vector.replicate 8 none, role := ⟨none, none⟩, queue := [], pending := []
    cause := ⟨0, 0, 0, 0, 0, 0⟩, saved := [], side := [], joins := [], issues := 0, yielded := false, tok := 0, gslot := gslot
    watch := none, outRel := false, copyCancelled := false, copyRange := false, barts := [], csrw := false }

/-- The commit-buffer entries of a team (R316): 32 · floor(16 / D), D the teams of the launch that fit on one core (R378). -/
def perCore (b : List Byte) : Nat :=
  let g := lrGroups b
  let q (n d : Nat) : Nat := if d = 0 then 16 else n / d
  min (min (min 16 (q 64 g)) (min (q 4096 (lrRegs b * g)) (q 1024 (lrUni b)))) (min (q 16 (lrSpad b)) (q 16 (lrAcc b)))
@[inherit_doc perCore] def shareSize (b : List Byte) : Nat := if lrDet b && perCore b != 0 then 32 * (16 / perCore b) else 0

/-- A team at its start (R191, R193); `first` is where its share begins (R316). -/
def startTeam (g : Grid) (lin core slot : Nat) (gslots : List Nat) (first : Nat) : Team :=
  let b := g.lr
  { ref := ⟨g.id, lin⟩, part := g.part, core := core, slot := slot
    groups := (List.range (lrGroups b)).map fun k =>
      startGroup k (lrThreads b) (lrRegs b) (gslots.getD k 0) (BitVec.ofNat 64 (lrEntry b))
    regs :=
      { sregs := BitVec.ofNat 64 (lrParam b) :: List.replicate 63 0
        owner := List.replicate 64 0, xfer := List.replicate 64 none, maps := List.replicate 16 0
        bars := List.replicate 16 Bar.atStart, bartmo := 0x01000000, mstat := 0 }
    banks := List.replicate (lrSpad b) ⟨.spad, []⟩
    accN := lrAcc b, acc := []
    stream := ⟨.idle, 0, 0, [], [], 0, [], none⟩
    eops := [], tk := ⟨.none, false, [], false, [], shareSize b, first⟩, lastFlag := false, curG := none, pruned := false, cancelled := false }

/-- A grid started from a launch record. -/
def startGrid (id part queue slot prio : Nat) (run : Option (Nat × Nat)) (lr : List Byte) (outs : List OutRange)
    (code : List Host.Cell) (teams clk : Nat) : Grid :=
  { id := id, part := part, link := ⟨queue, slot, run⟩, lr := lr, code := code, teams := teams, nextL := 0
    dieNext := if lrTdie lr then (List.range (lrNdie lr)).map (dieFirst lr teams) else [], finish := teams
    startClk := clk, order := id, released := [], retired := [], aborted := [], ds := List.replicate 16 0, dflags := 0, outs := outs
    dieBars := [], gridBars := [], instBars := [], dmap := [], prio := prio }

/-- The cluster of a map entry (R367), in its reset state (R256). -/
def mapCluster (part idx e : Nat) : Cluster :=
  { ref := ⟨part, idx⟩, die := bitsOf e 3 1, row0 := bitsOf e 6 4, col0 := bitsOf e 9 7, h := bitsOf e 12 10 + 1
    w := bitsOf e 15 13 + 1, tlb := [], slog := [], slogFull := false, copies := [], hqs := [] }

/-- The clusters of a map (R368): numbered per partition in ascending order of their entries. -/
def mapClusters (m : List Nat) : List Cluster :=
  let valid := m.filter fun e => abit e 0 == 1
  (List.range 16).flatMap fun p =>
    ((valid.filter fun e => bitsOf e 19 16 == p).zipIdx).map fun x => mapCluster p x.2 x.1

end Sys2Proof.Machine
end

