-- ==== Sys2Proof/Machine/Launch.lean ====
section
/-! DEFINITION. The launch engine (R369 to R381): queue descriptors, checks of records, enqueueing, starting, completing; LNCH and
GRIDBAR, opcodes 0xeb and 0xec. -/

namespace Sys2Proof.Machine

/-! Queues (R369, R371). -/

/-- The descriptor of queue `q`. -/
def qdBytes (s : State) (q : Nat) : List Byte := (List.range 64).map fun k => rdHome s (s.pkg.qbase + 64 * q + k)
def qdPart (d : List Byte) : Nat := bitsOf (dNat d 0 4) 6 3
def qdPrio (d : List Byte) : Nat := bitsOf (dNat d 0 4) 2 1
/-- The queue accepts and starts records: QD.EN, and a SLOTLOG that does not disable it. -/
def qdOn (d : List Byte) : Bool := abit (dNat d 0 4) 0 == 1 && decide (bitsOf (dNat d 0 4) 10 7 < 9)
def qdSlots (d : List Byte) : Nat := 2 ^ (4 + bitsOf (dNat d 0 4) 10 7)
def qdRemote (d : List Byte) : Bool := abit (dNat d 0 4) 11 == 1

/-- The occupancy of a queue (R371). -/
def queueOcc (s : State) (q : Nat) : Nat := (queueOf s q).waiting.length + (queueOf s q).running.length

/-! Checks of a launch record (R376). -/

/-- Reason 1. -/
def lrBadForm (b : List Byte) : Bool :=
  dNat b 0 1 != 1 || bitsOf (lrCtl b) 31 29 != 0 || bitsOf (lrRes b) 31 29 != 0 || decide (2 ^ 22 ≤ dNat b 0x1c 4)
    || decide (2 ^ 15 ≤ dNat b 0x20 4) || dNat b 0x48 56 != 0

/-- Teams of a record (R374). -/
def lrTeams (b : List Byte) : Nat := lrNtx b * lrNty b * lrNtz b

/-- Reason 3. `known`: the team count is known. -/
def lrBadSize (b : List Byte) : Bool :=
  decide (lrThreads b = 0) || decide (1024 < lrThreads b) || decide (lrRegs b = 0) || decide (256 < lrRegs b)
    || decide (64 < lrUni b) || decide (16 < lrSpad b) || decide (16 < lrAcc b) || perCore b == 0
    || lrCmpl b % 64 != 0 || (decide (0 < lrNout b) && lrOuttab b % 16 != 0)
    || (if lrTcsrc b then lrNty b != 1 || lrNtz b != 1 || lrTcaddr b % 4 != 0
        else lrTeams b == 0 || decide (2 ^ 32 ≤ lrTeams b))

def partClusters (s : State) (p : Nat) : List Cluster := s.clusters.filter fun c => c.ref.part == p
/-- The compute dies of a partition. -/
def partDies (s : State) (p : Nat) : List Nat :=
  (List.range 8).filter fun d => (partClusters s p).any fun c => c.die == d

/-- The shapes of R252. -/
def shapeAdmitted (h w : Nat) : Bool := decide (h ≤ 6) && decide (w ≤ 8) && decide (h * w ≤ 12)

/-- Reason 5. -/
def lrBadShape (s : State) (p : Nat) (b : List Byte) (known : Bool) : Bool :=
  let n := lrInst b
  !(shapeAdmitted (lrH b) (lrW b))
    || (n != 1 && !((partClusters s p).any fun c => c.h == lrH b && c.w == lrW b))
    || (known && lrTeams b % n != 0)

/-- Reason 6: an instance spans logical dies where a boundary between them, at ceil(k·N / NDIE), is no multiple of its size. -/
def lrBadDie (s : State) (p : Nat) (b : List Byte) (known : Bool) : Bool :=
  let nd := lrNdie b
  decide (8 < nd) || decide ((partDies s p).length < nd) || (lrTdie b && nd == 0)
    || (known && (List.range (nd - 1)).any fun k => ((k + 1) * lrTeams b + nd - 1) / nd % lrInst b != 0)

/-- The class mask admits a core. -/
def classAdmits (s : State) (b : List Byte) (core : Nat) : Bool := lrCmask b / 2 ^ coreClass s core % 2 == 1

/-- The guaranteed residency of R378. -/
def residency (s : State) (p : Nat) (b : List Byte) : Nat :=
  let n := lrInst b
  let cs := partClusters s p
  perCore b *
    (if n = 1 then ((cs.flatMap clusterCores).filter fun c => classAdmits s b c).length
     else n * (cs.filter fun c => c.h == lrH b && c.w == lrW b && (clusterCores c).all fun k => classAdmits s b k).length)

/-- The guaranteed cores of one die (R280). -/
def dieCores (b : List Byte) : Nat := if lrCmask b = 15 then 40 else if lrCmask b % 4 = 3 then 36 else 0

/-- Teams of logical die `k` (R277). -/
def dieTeams (b : List Byte) (k : Nat) : Nat :=
  let nd := lrNdie b
  ((k + 1) * lrTeams b + nd - 1) / nd - (k * lrTeams b + nd - 1) / nd

/-- Reason 9. The guaranteed cores of a die count whatever the cluster shape (DESIGN CHOICE, log entry 140). -/
def lrBadCoop (s : State) (p : Nat) (b : List Byte) : Bool :=
  lrCoop b && (decide (residency s p b < lrTeams b)
    || (List.range (lrNdie b)).any fun k => decide (perCore b * dieCores b < dieTeams b k))

/-- The output ranges of a record (R325, R374); none where the table cannot be read or one is malformed. -/
def readOuts (s : State) (p : Nat) (b : List Byte) : Option (List OutRange) :=
  if 8 < lrNout b then none
  else if lrNout b = 0 then some []
  else match virtRead s p (lrOuttab b) (16 * lrNout b) with
    | .inr _ => none
    | .inl t =>
      let rs : List (Nat × OutRange) := (List.range (lrNout b)).map fun k =>
        let w := dNat t (16 * k + 8) 8
        (w, ⟨dNat t (16 * k) 8, w % 2 ^ 41, bitsOf w 43 41⟩)
      let bad : Bool := rs.any fun x =>
        decide (2 ^ 44 ≤ x.1) || x.2.base % 128 != 0 || x.2.len % 128 != 0 || decide (x.2.len < 128) || decide (2 ^ 40 < x.2.len)
          || (lrTdie b && decide (lrNdie b ≤ x.2.die))
      let meet : Bool := (rs.zipIdx).any fun x => (rs.zipIdx).any fun y =>
        decide (x.2 < y.2) && bytesMeet x.1.2.base x.1.2.len y.1.2.base y.1.2.len
      if bad || meet then none else some (rs.map (·.2))

/-- Reason 11. -/
def lrBadBranch (s : State) (p : Nat) (b : List Byte) : Bool :=
  lrBranch b != 0xffffffff && (match poolOf s p (lrBpool b) with
    | some k => idMalformed k (lrBranch b)
    | none => true)

/-- The checks of a launch record for partition `p` that are made where the clusters or the team count decide. -/
def lateReasons (s : State) (p : Nat) (b : List Byte) (known : Bool) : List (Nat × Bool) :=
  if (partClusters s p).isEmpty then []
  else [(5, lrBadShape s p b known), (6, lrBadDie s p b known), (9, known && lrBadCoop s p b)]

/-- All checks of R376 for a launch record; `foreign`: it comes from another partition. -/
def lrReasons (s : State) (p : Nat) (b : List Byte) (known foreign : Bool) : List (Nat × Bool) :=
  [(1, lrBadForm b), (2, !(pcOk (lrEntry b))), (3, lrBadSize b), (4, lrCmask b == 0),
    (7, lrPolicy b == 3 || (lrDet b && lrPolicy b != 1)),
    (8, (decide (0 < lrNout b) && !(lrDet b)) || (readOuts s p b).isNone),
    (10, bitsOf (lrCtl b) 11 8 != p || foreign), (11, lrBadBranch s p b)] ++ lateReasons s p b known

/-- The lowest reason that fails. -/
def lowestReason (l : List (Nat × Bool)) : Option Nat :=
  (l.filter (·.2)).foldl (fun m x => some (match m with | some k => min k x.1 | none => x.1)) none

/-! Enqueueing (R370, R371, R373, R376). -/

/-- Where a record comes from: LNCH of a partition, the host port, the fabric. -/
inductive RecSource where
  | lnch (part : Nat)
  | host
  | fabric
  deriving DecidableEq, Repr

/-- Why a record is refused at enqueue: reason and node index. -/
def recReason (s : State) (p : Nat) (b : List Byte) (src : RecSource) : Option (Nat × Nat) :=
  let foreign : Bool := match src with | .lnch k => k != p | _ => false
  let plain (r : Option Nat) : Option (Nat × Nat) := r.map fun k => (k, 0)
  match dNat b 0 1 with
  | 1 => if src = .fabric then some (1, 0) else plain (lowestReason (lrReasons s p b (!(lrTcsrc b)) foreign))
  | 2 => if src = .fabric ∧ dNat b 0 4 = 2 then none else some (1, 0)
  | 3 =>
    let w := dNat b 0 4
    if src = .fabric ∨ bitsOf w 15 14 ≠ 0 ∨ 2 ^ 17 ≤ w ∨ dNat b 4 4 ≠ 0 ∨ dNat b 0x10 112 ≠ 0 then some (1, 0)
    else if foreign then some (10, 0)
    else match graphNodes s p (bitsOf w 13 8) with
      | none => some (12, 0)
      | some ns => (graphBad ns).map fun k => (12, k)
  | _ => some (1, 0)

/-- The completion record and the interrupt of a record. -/
def recCmpl (b : List Byte) : Nat × Bool :=
  match dNat b 0 1 with
  | 1 => (lrCmpl b, lrIrq b)
  | 2 => (dNat b 8 8, false)
  | 3 => (dNat b 8 8, abit (dNat b 0 4) 16 == 1)
  | _ => (lrCmpl b, lrIrq b)

/-- The interrupt of a record at queue `q`: for a work record that of the queue's template (R398). -/
def recIrq (s : State) (q : Nat) (b : List Byte) : Bool :=
  let d := qdBytes s q
  if dNat b 0 1 = 2 then (match virtRead s (qdPart d) (dNat d 0x10 8) 128 with | .inl t => lrIrq t | .inr _ => false) else (recCmpl b).2

/-- Write REFUSED into a record's completion record in the space of `p`; a fault stops the partition of its queue (R377). -/
def refuse (s : State) (p qpart cmpl : Nat) (irq : Bool) (reason node : Nat) : State :=
  (writeCompletion s p cmpl 2 (reason + 256 * node) 0 (clockOf s p) [] irq).getD (mcheck s qpart)

/-- The tail slot of a queue: the next one that is free. -/
def tailSlot (s : State) (q n : Nat) : Nat :=
  let x := queueOf s q
  let busy (k : Nat) : Bool := x.running.contains k || x.waiting.any fun r => r.slot == k
  (((List.range n).map fun k => (x.tail + k) % n).find? fun k => !(busy k)).getD (x.tail % n)

/-- Append a record (R371, R373): it is written to its ring slot, a work record also to its parameter slot. -/
def appendRec (s : State) (q : Nat) (d b : List Byte) : State :=
  let p := qdPart d
  let n := qdSlots d
  let k := tailSlot s q n
  let put (s : State) (a : Nat) (v : List Byte) : State := match virtWrite s p (a % 2 ^ 64) v with | .inl s => s | .inr _ => s
  let s := put s (dNat d 8 8 + 128 * k) b
  let s := if dNat b 0 1 = 2 then guestsAcked (put s (dNat d 0x18 8 + 64 * k) (b.take 64)) else s
  let outs := if dNat b 0 1 = 1 then (readOuts s p b).getD [] else []
  updQueue s q fun x =>
    { x with waiting := x.waiting ++ [⟨k, b, outs, Memory.writes s.mem s.wbuf⟩], tail := (k + 1) % n }

/-- Enqueue a record: status and reason (R371, R376, R380). -/
def enqueueRec (s : State) (q : Nat) (b : List Byte) (src : RecSource) : State × Nat × Nat :=
  let d := qdBytes s q
  let p := qdPart d
  match recReason s p b src with
  | some (reason, node) =>
    let space := match src with | .lnch k => k | _ => p
    (refuse s space p (recCmpl b).1 (recIrq s q b) reason node, 2, reason)
  | none =>
    if !(qdOn d) || decide (qdSlots d ≤ queueOcc s q) then (s, 1, 0) else (appendRec s q d b, 0, 0)

/-! What the engine reads of memory beside a record (R325, R373, R375, R382). -/

/-- The ranges that a graph's entry and nodes take. -/
def graphReads (s : State) (p g : Nat) : List (Nat × Nat) :=
  let at' := canon57 (bitsOf (partOf s p).graphbase.toNat 56 12 * 4096 + 16 * g)
  (at', 16) :: match virtRead s p at' 16 with
    | .inl e => [(dNat e 0 8, 64 * (dNat e 8 8 % 4096 + 1))]
    | .inr _ => []
/-- The ranges that a launch record takes at its start: the count word, and the table of outputs where it was not read at enqueue. -/
def lrReads (b : List Byte) (full : Bool) : List (Nat × Nat) :=
  (if lrTcsrc b then [(lrTcaddr b, 4)] else []) ++ if full then [(lrOuttab b, 16 * min 8 (lrNout b))] else []
/-- The template of a queue. -/
def templateReads (s : State) (q : Nat) : List (Nat × Nat) := [(dNat (qdBytes s q) 0x10 8, 128)]
/-- The ranges that an enqueue takes. -/
def enqReads (s : State) (q : Nat) (b : List Byte) : List (Nat × Nat) :=
  match dNat b 0 1 with
  | 1 => [(lrOuttab b, 16 * min 8 (lrNout b))]
  | 2 => templateReads s q
  | 3 => graphReads s (qdPart (qdBytes s q)) (bitsOf (dNat b 0 4) 13 8)
  | _ => []

/-! Starting (R372, R375). -/

/-- LR.SER of a record, for a work record that of the queue's template (R373). -/
def recSer (s : State) (d b : List Byte) : Bool :=
  match dNat b 0 1 with
  | 1 => lrSer b
  | 2 => (match virtRead s (qdPart d) (dNat d 0x10 8) 128 with | .inl t => lrSer t | .inr _ => false)
  | _ => false

/-- An earlier grid of a queue has not completed: it runs, or is in a context that waits for its restore. -/
def queueHasGrid (s : State) (q : Nat) : Bool :=
  let mine (g : Grid) : Bool := g.link.queue == q && g.link.run.isNone
  s.grids.any mine || s.saves.any fun c => c.live && c.grids.any mine

/-- A graph of a partition has a run in progress, or one in a context that waits for its restore. -/
def graphRuns (s : State) (p g : Nat) : Bool :=
  (partOf s p).runs.any (fun x => x.graph == g) || s.saves.any fun c => c.live && c.part == p && c.runs.any fun x => x.graph == g

/-- The head of a queue can start (R372). -/
def headStarts (s : State) (q : Nat) : Bool :=
  let d := qdBytes s q
  let p := qdPart d
  match (queueOf s q).waiting with
  | [] => false
  | r :: _ =>
    qdOn d && (partOf s p).life == .running && !((partClusters s p).isEmpty)
      && !(recSer s d r.bytes && queueHasGrid s q)
      && !(dNat r.bytes 0 1 == 3 && graphRuns s p (bitsOf (dNat r.bytes 0 4) 13 8))

/-- The queue that the engine serves next for a partition (R372). -/
def servedQueue (s : State) (p : Nat) : Option Nat :=
  let qs := (s.queues.map (·.num)).filter fun q => qdPart (qdBytes s q) == p && headStarts s q
  let prio (q : Nat) : Nat := qdPrio (qdBytes s q)
  let top := qs.foldl (fun m q => max m (prio q)) 0
  let last := (((partOf s p).served.find? fun x => x.1 == top).map (·.2)).getD 63
  let key (q : Nat) : Nat := (q + 127 - last) % 64
  (qs.filter fun q => prio q == top).foldl (fun m q => some (match m with | some k => if key q < key k then q else k | none => q)) none

/-- The count word of a record with LR.TCSRC (R375): none where the read meets a fault. -/
def readCount (s : State) (p : Nat) (b : List Byte) : Option Nat :=
  let va := lrTcaddr b
  let locked : Bool := (partClusters s p).any fun c =>
    (clusterLocks s c).any fun r => r.dst && r.meets p none (signed 64 va) (signed 64 va + 4)
  if locked then none else match virtRead s p va 4 with
    | .inl w => some (ofBytes w)
    | .inr _ => none

/-- Start a grid from a launch record, or refuse it. `full`: no check of the record was made at enqueue. -/
def beginGrid (s : State) (p q slot prio : Nat) (run : Option (Nat × Nat)) (b : List Byte) (outs : List OutRange)
    (code : List Host.Cell) (full : Bool) : State ⊕ Nat :=
  let count := if lrTcsrc b then readCount s p b else some (lrNtx b)
  let b' := setBytes b 0x10 (toBytes 4 (count.getD 0))
  let known := count.isSome
  let checks := if full then lrReasons s p b' known false else lateReasons s p b' known
  match lowestReason (checks ++ [(15, !known)]) with
  | some k => .inr k
  | none =>
    let outs := if full then (readOuts s p b').getD [] else outs
    let g := startGrid s.nextGrid p q slot prio run b' outs code (lrTeams b') s.clk
    .inl { s with grids := s.grids ++ [g], nextGrid := s.nextGrid + 1 }

/-- The launch record that a work record stands for (R373). -/
def workRecord (s : State) (p slot : Nat) (d b : List Byte) : Option (List Byte) :=
  match virtRead s p (dNat d 0x10 8) 128 with
  | .inr _ => none
  | .inl t =>
    let t := if dNat b 4 4 = 0 then t else setBytes t 0x10 (b.drop 4 |>.take 4)
    let t := setBytes t 0x38 ((b.drop 8).take 8)
    some (setBytes t 0x28 (toBytes 8 ((dNat d 0x18 8 + 64 * slot + 16) % 2 ^ 64)))

/-- A record refused at its start completes with REFUSED and frees its slot (R376). -/
def refuseStart (s : State) (p q slot cmpl : Nat) (irq : Bool) (reason node : Nat) : State :=
  refuse (freeSlot s q slot) p p cmpl irq reason node

/-- Start the record at the head of a queue. -/
def startHead (s : State) (q : Nat) : State :=
  let d := qdBytes s q
  let p := qdPart d
  match (queueOf s q).waiting with
  | [] => s
  | r :: rest =>
    let prio := qdPrio d
    let s := updQueue s q fun x => { x with waiting := rest, running := x.running ++ [r.slot] }
    let s := updPart s p fun x => { x with served := (prio, q) :: x.served.filter fun y => y.1 != prio }
    let no (reason node : Nat) : State := refuseStart s p q r.slot (recCmpl r.bytes).1 (recCmpl r.bytes).2 reason node
    match dNat r.bytes 0 1 with
    | 2 => match workRecord s p r.slot d r.bytes with
      | none => no 1 0
      | some b => match beginGrid s p q r.slot prio none b [] r.code true with
        | .inl s => s
        | .inr k => refuseStart s p q r.slot (lrCmpl b) (lrIrq b) k 0
    | 3 =>
      let g := bitsOf (dNat r.bytes 0 4) 13 8
      match graphNodes s p g with
      | none => no 12 0
      | some ns => match graphBad ns with
        | some k => no 12 k
        | none =>
          let run : GraphRun :=
            { id := s.nextGrid, graph := g, queue := q, slot := r.slot, cmpl := (recCmpl r.bytes).1, irq := (recCmpl r.bytes).2
              nodes := ns, sts := ns.map freshNode, startClk := s.clk, teams := 0, code := r.code }
          updPart { s with nextGrid := s.nextGrid + 1 } p fun x => { x with runs := x.runs ++ [run] }
    | _ => match beginGrid s p q r.slot prio none r.bytes r.outs r.code false with
      | .inl s => s
      | .inr k => no k 0

/-- The ranges that the record at the head of a queue takes at its start. -/
def headReads (s : State) (q : Nat) : List (Nat × Nat) :=
  let d := qdBytes s q
  match (queueOf s q).waiting with
  | [] => []
  | r :: _ => match dNat r.bytes 0 1 with
    | 2 => templateReads s q ++ match workRecord s (qdPart d) r.slot d r.bytes with | some b => lrReads b true | none => []
    | 3 => graphReads s (qdPart d) (bitsOf (dNat r.bytes 0 4) 13 8)
    | _ => lrReads r.bytes false
/-- The start of the record at the head of a queue, once what it reads is there (R394, R435). -/
def headStart (s : State) (q : Nat) : Option State := withReads s (qdPart (qdBytes s q)) (headReads s q) (some (startHead s q))

def canRecordStart (s : State) (p q : Nat) : Bool := servedQueue s p == some q && (headStart s q).isSome
/-- RECORD_START (R372, R373, R375). -/
def execRecordStart (part queue : Nat) (s : State) : Out :=
  event s (canRecordStart s part queue) fun s => (headStart s queue).getD s

/-! Completing (R377). -/

/-- Every team is released and every write of the grid is performed. -/
def gridDone (s : State) (g : Grid) : Bool :=
  placedCount g == g.teams && g.released.length == g.teams
    && !(s.clusters.any fun c => c.slog.any fun e => e.team.grid == g.id)

/-- A grid completes: its writes reach their homes and its completion record is written as a release at SYSTEM scope. -/
def completeGrid (s : State) (g : Grid) : State :=
  let s := partReleased s g.part
  match writeCompletion s g.part (lrCmpl g.lr) 1 0 g.teams (g.startClk - (partOf s g.part).clock0) (ticketBlock g) (lrIrq g.lr) with
  | none => mcheck s g.part
  | some s =>
    let s := { s with grids := s.grids.filter fun x => x.id != g.id }
    match g.link.run with
    | none => freeSlot s g.link.queue g.link.slot
    | some (r, _) => updPart s g.part fun x =>
        { x with runs := x.runs.map fun (y : GraphRun) => if y.id == r then { y with teams := y.teams + g.teams } else y }

def canGridCompletion (s : State) (n : Nat) : Bool := (gridAt s n).any fun g => gridDone s g && !(partOf s g.part).killing
/-- GRID_COMPLETION (R377). -/
def execGridCompletion (grid : Nat) (s : State) : Out :=
  event s (canGridCompletion s grid) fun s => match gridAt s grid with | some g => completeGrid s g | none => s

/-! GRIDBAR and LNCH. -/

/-- GRIDBAR (R379). -/
def execGridbar (f : RI) (s : State) : Out :=
  issue (.gridbar f) s fun c =>
    if lrCoop c.gr.lr then barAct c (.grid (f.imm.toNat % 4)) true else .trap (causeOf tcGridbar)

/-- Issue LNCH (R380): one entry for the group, with the lowest lane's address; it waits in a deterministic launch (R317). -/
def lnchAct (c : Ctx) (f : MF) : Act :=
  let l := (lowLane c.act).getD 0
  let a := accessOf c c.act f.dst f.mod.toNat (fun _ => addrOf c f 64 l) fun _ => 0
  let wait : Bool := lrDet c.gr.lr && ticketBuffers c.gr c.t && !c.t.tk.abortMark
  if c.act = 0 then .go { vec := some fun _ => 0 }
  else if queueFull c.g then .stall
  else .go { vec := some fun _ => 0, lazy := true, post := pushAccess c.r { a with stage := if wait then 2 else 0 } }
/-- LNCH (R380). -/
def execLnch (f : MF) (s : State) : Out := issue (.lnch f) s fun c => lnchAct c f
/-- LNCH.LAST (R380, R381). -/
def execLnchLast (f : MF) (s : State) : Out := issue (.lnchLast f) s fun c => lnchAct c f

/-- Older entries that a request at PACKAGE scope follows (R380, R402): every access that is not itself waiting for its turn. -/
def allPerformed (g : Group) (k : Nat) : Bool :=
  (g.queue.take k).all fun b => b.fault.isNone && b.stage == 2

/-- The read of the record (R163, R380): its bytes, or the code and INFO of its fault. -/
def lnchRead (s : State) (t : Team) (gr : Grid) (g : Group) (va : Nat) : List Byte ⊕ (Nat × Nat) :=
  match xlate s t.part t.core va 1 with
    | .err c => .inr (c, 0)
    | .ok pa share _ =>
      if lockedAt s t.core t.part none (signed 64 va) 128 false then .inr (tcLockhit, 0)
      else match detFault gr t.ref.lin g.outRel false true false va 128 share with
        | some f => .inr f
        | none => .inl (placeRead s t (.virt va pa share) 0 0 128).2

/-- The host lines that the read still lacks (R435). -/
def lnchLacks (s : State) (t : Team) (va : Nat) : List (Nat × Nat) :=
  match xlate s t.part t.core va 1 with
  | .ok pa share _ => if region pa == some 2 || share = shSystem then
      [(share, pa), (share, pa + 64)].filter fun x => !(hostReady s x.1 x.2 .load) else []
  | .err _ => []

/-- Count a team's LNCH.LAST (R381): the state, and whether the record is to be read. Stage 5 marks the request that brought the
count to 0. -/
def countLast (s : State) (r : GroupRef) (a : Access) : State × Bool :=
  match teamAt s r.team, gridAt s r.team.grid with
  | some t, some gr =>
    if a.stage = 5 then (s, true)
    else if t.lastFlag then (s, false)
    else
      let s := updTeam s r.team fun t => { t with lastFlag := true }
      let s := updGrid s gr.id fun g => { g with finish := g.finish - 1 }
      if gr.finish = 1 then (setEntry s r a.tok fun x => { x with stage := 5 }, true) else (s, false)
  | _, _ => (s, false)

/-- Perform entry `k` of a group, a LNCH; `turn` at its team's turn (R317). -/
def lnchTry (s : State) (r : GroupRef) (k : Nat) (turn : Bool) : Option State :=
  match teamAt s r.team, groupAt s r, gridAt s r.team.grid with
  | some t, some g, some gr =>
    match g.queue[k]? with
    | none => none
    | some a =>
      let va := (Lanes.at a.addr ((lowLane a.lanes).getD 0) 0).toNat
      if a.opc != 0xeb || a.fault.isSome || (a.stage == 2 && !turn) || !(allPerformed g k) || slogHolds s r t.core
          || followsOwed s t gr g a then none
      else if lrDet gr.lr && t.tk.abortMark then some (withdraw s r a a.lanes)
      else if va % 128 ≠ 0 then some (faultEntry s r a [((lowLane a.lanes).getD 0, tcAlign, 0)])
      else
        let (s, go) := if a.sub = 1 then countLast s r a else (s, true)
        if !go then some (finishLanes s r a a.lanes fun _ => 3)
        else if (slogOf s t.core).any fun e => slogTouches e va 128 then none
        else
          let lacks := lnchLacks s t va
          if !lacks.isEmpty then
            if lacks.all fun x => hostAsked s x.2 then none
            else some (lacks.foldl (fun s x => hostAsk s x.1 x.2 .load) s)
          else match lnchRead s t gr g va with
            | .inr e => some (faultEntry s r a [((lowLane a.lanes).getD 0, e.1, e.2)])
            | .inl b => withReads s (qdPart (qdBytes s (a.mod % 64))) (enqReads s (a.mod % 64) b)
              (let x := enqueueRec (markRelease (releaseAt s t.core shPackage) r a.all shPackage) (a.mod % 64) b (.lnch t.part)
               some (finishLanes x.1 r a a.lanes fun _ => x.2.1 + 256 * x.2.2))
  | _, _, _ => none

end Sys2Proof.Machine
end

