-- ==== Sys2Proof/Machine/GraphRuns.lean ====
section
/-! DEFINITION. Graph runs (R385): the start and the completion of nodes, the end of a run, and faults of copies (R271). -/

namespace Sys2Proof.Machine

def runAt (s : State) (p r : Nat) : Option GraphRun := (partOf s p).runs.find? fun x => x.id == r
def updRun (s : State) (p r : Nat) (f : GraphRun → GraphRun) : State :=
  updPart s p fun x => { x with runs := x.runs.map fun y => if y.id == r then f y else y }

/-- A run ends: its completion record is written (R377) and its slot is free. A run of a partition that is killed, or whose record
cannot be written, ends with the partition (R99). -/
def endRun (s : State) (p r status reason node : Nat) : State :=
  match runAt s p r with
  | none => s
  | some x =>
    if (partOf s p).killing then s
    else match writeCompletion s p x.cmpl status (reason + 256 * node) x.teams (x.startClk - (partOf s p).clock0) [] x.irq with
      | some s => freeSlot (updPart s p fun y => { y with runs := y.runs.filter fun z => z.id != r }) x.queue x.slot
      | none => mcheck s p

/-- The COPY nodes of a run that are started and incomplete (R385). -/
def copiesStarted (x : GraphRun) : Nat :=
  ((x.nodes.zip x.sts).filter fun y => gnKind y.1 == gnCopy && y.2.active && y.2.started).length

/-- A node that is activated and can start: a COPY node within its limit and the copy engines' budget (R385, R415). -/
def nodeStarts (s : State) (p r n : Nat) : Bool :=
  match runAt s p r with
  | some x => match x.sts[n]?, x.nodes[n]? with
    | some st, some b =>
      st.active && !st.started && (partOf s p).life == .running && !((partClusters s p).isEmpty)
        && (gnKind b != gnCopy || (decide (copiesStarted x < 156) && budgetOpen s 3))
    | _, _ => false
  | none => false

/-- The dimension of a COPY variant (R96). -/
def variantDims (v : Nat) : Option CopyDims :=
  match v with
  | 0 => some .d1
  | 1 => some .d2
  | 2 => some .d3
  | _ => none

/-- The copy of a COPY node (R383): its descriptor's addresses are virtual. -/
def nodeCopy (s : State) (p r n : Nat) (b : List Byte) : Option CopyOp :=
  match variantDims (gnVar b), virtRead s p (gnArg0 b) 128, partClusters s p with
  | some k, .inl d, c :: _ =>
    if copyBadShape (some k) d || dSsp d || dDsp d || gnArg0 b % 128 != 0 then none
    else some
      { id := 4096 * stamp s + n, team := ⟨r, 0⟩, grp := 0, core := (clusterCores c).headD 0, gather := false, desc := d, started := true, prog := 0, off := 0, follows := false, held := false
        fault := none, takenBy := none, waiting := false, cancelled := dTagv d && tagStale s p (dTag d), outOfRange := false, run := some (r, n)
        pc := 0, born := stamp s, root := (partOf s p).ptroot }
  | _, _, _ => none

/-- Start an activated node. A launch record refused here has its own completion record written too (R376). -/
def startNode (s : State) (p r n : Nat) : State :=
  match runAt s p r with
  | none => s
  | some x =>
    let b := x.nodes.getD n []
    let s := updRun s p r fun y => { y with sts := modAt y.sts n fun z => { z with started := true } }
    if gnKind b = gnKernel then
      match virtRead s p (gnArg0 b) 128 with
      | .inr _ => endRun s p r 2 1 n
      | .inl lr =>
        if gnArg0 b % 128 ≠ 0 then endRun s p r 2 1 n
        else match beginGrid s p x.queue x.slot (qdPrio (qdBytes s x.queue)) (some (r, n)) lr [] x.code true with
          | .inl s => s
          | .inr k => endRun (refuse s p p (lrCmpl lr) (lrIrq lr) k 0) p r 2 k n
    else if gnKind b = gnCopy then
      match nodeCopy s p r n b, partClusters s p with
      | some o, c :: _ => updCluster (charge s 3 (dTotal false o.desc)) c.ref fun c => { c with copies := c.copies ++ [o] }
      | _, _ => endRun s p r 2 0 n
    else s

/-- The ranges that a node takes when it starts: a launch record and what that takes, or a descriptor. -/
def nodeReads (s : State) (p r n : Nat) : List (Nat × Nat) :=
  match (runAt s p r).map fun x => x.nodes.getD n [] with
  | none => []
  | some b =>
    if gnKind b = gnKernel then
      (gnArg0 b, 128) :: match virtRead s p (gnArg0 b) 128 with | .inl lr => lrReads lr true | .inr _ => []
    else if gnKind b = gnCopy then [(gnArg0 b, 128)]
    else []
/-- The start of a node, once what it reads is there (R394, R435). -/
def nodeStart (s : State) (p r n : Nat) : Option State := withReads s p (nodeReads s p r n) (some (startNode s p r n))

def canGraphNodeActivation (s : State) (p r n : Nat) : Bool := nodeStarts s p r n && (nodeStart s p r n).isSome
/-- GRAPH_NODE_ACTIVATION (R385): an activated node starts. -/
def execGraphNodeActivation (part run node : Nat) (s : State) : Out :=
  event s (canGraphNodeActivation s part run node) fun s => (nodeStart s part run node).getD s

/-- What a started node is found to be: not complete, complete with its word nonzero or not, or faulted. -/
inductive NodeFate where
  | waits
  | done (s : State) (nonzero : Bool)
  | bad

/-- The word that a node reads (R385). -/
def wordReads (b : List Byte) : List (Nat × Nat) :=
  if gnKind b = gnKernel ∨ gnKind b = gnCopy ∨ gnArg0 b % 8 ≠ 0 then [] else [(gnArg0 b, 8)]
/-- The word of a node, read at its home (R385). -/
def nodeWord (s : State) (p : Nat) (b : List Byte) (f : Nat → NodeFate) : NodeFate :=
  if gnArg0 b % 8 ≠ 0 then .bad
  else match virtRead s p (gnArg0 b) 8 with
    | .inl w => f (ofBytes w)
    | .inr _ => .bad

/-- The table of R385. -/
def nodeFate (s : State) (p r n : Nat) (b : List Byte) : NodeFate :=
  let k := gnKind b
  if k = gnKernel then
    if s.grids.any fun g => g.part == p && g.link.run == some (r, n) then .waits else .done s true
  else if k = gnCopy then
    if s.clusters.any fun c => c.copies.any fun o => o.run == some (r, n) then .waits else .done s true
  else if k = gnEvent then nodeWord s p b fun w => if gnArg1 b ≤ w then .done s true else .waits
  else if k = gnSignal then nodeWord s p b fun w =>
    match virtWrite (guestsAcked s) p (gnArg0 b) (toBytes 8 ((w + gnArg1 b) % 2 ^ 64)) with
    | .inl s => .done s true
    | .inr _ => .bad
  else nodeWord s p b fun w => .done s (w != 0)

/-- The completion of a started node, with its signals and the end of a run without active nodes. -/
def finishNode (s : State) (p r n : Nat) : Option State :=
  match runAt s p r with
  | none => none
  | some x => match x.sts[n]?, x.nodes[n]? with
    | some st, some b =>
      if !(st.active && st.started) || (partOf s p).life != .running then none
      else withReads s p (wordReads b) <| match nodeFate s p r n b with
        | .waits => none
        | .bad => some (endRun s p r 2 0 n)
        | .done s nz =>
          let sts := modAt x.sts n fun z => { z with active := false, started := false }
          let sts := deliverSignals x.nodes (16 + 8 * x.nodes.length) (nodeSignals b nz) sts
          let s := updRun s p r fun y => { y with sts := sts }
          some (if sts.any fun z => z.active then s else endRun s p r 1 0 0)
    | _, _ => none

def canGraphNodeCompletion (s : State) (p r n : Nat) : Bool := (finishNode s p r n).isSome
/-- GRAPH_NODE_COMPLETION (R385). -/
def execGraphNodeCompletion (part run node : Nat) (s : State) : Out :=
  event s (canGraphNodeCompletion s part run node) fun s => (finishNode s part run node).getD s

def canCopyFault (s : State) (c : ClusterRef) (k : Nat) : Bool := (copyFaulting s c k).isSome
/-- COPY_FAULT (R271): the operation stops and its cause is pending in its group; a graph's copy ends its run (R385). -/
def execCopyFault (c : ClusterRef) (k : Nat) (s : State) : Out :=
  event s (canCopyFault s c k) fun s =>
    match copyFaulting s c k with
    | some (s, o, e) =>
      match o.run with
      | some (r, n) =>
        endRun (updCluster s c fun x => { x with copies := x.copies.filter fun y => y.id != o.id }) c.part r 2 0 n
      | none => postCause (updCopy s c o.id fun _ => { o with fault := some e, takenBy := none }) o.team o.grp e
    | none => s

end Sys2Proof.Machine
end

