-- ==== Sys2Proof/Machine/Fabric.lean ====
section
/-! DEFINITION. The fabric (R399 to R409): XFPUT, XFGET, XFWORK, XFRED, XFSRED and XFFENCE, opcodes 0xf9 to 0xfe, messages at their
destination and back at their source, collectives, and ports. -/

namespace Sys2Proof.Machine

/-! Descriptors (R402). -/

/-- A descriptor's fields are admitted for its instruction (R402). -/
def xdOk (k : MsgClass) (d : List Byte) : Bool :=
  let w := dNat d 4 4
  let ty := Ty.ofCode (xdType d)
  let n := xdLen d
  let base := decide (dNat d 0 4 < 2 ^ 24) && decide (w < 2 ^ 16) && dNat d 0x2a 2 == 0 && dNat d 0x30 16 == 0 && xdSignal d % 8 == 0
    && decide (dNat d 0x2c 4 < 2 ^ 24)
  base && (match k with
    | .put => w == 0 && decide (1 ≤ n) && decide (n ≤ 2 ^ 24) && xdColl d == 0 && dNat d 0x2c 4 == 0
    | .get => w == 0 && decide (1 ≤ n) && decide (n ≤ 2 ^ 24) && xdSignal d == 0 && xdColl d == 0 && dNat d 0x2c 4 == 0
    | .work => w % 2 ^ 10 == 0 && n == 64 && xdRemote d == 0 && xdSignal d == 0 && xdColl d == 0 && dNat d 0x2c 4 == 0
    | .red => decide (w < 2 ^ 6) && [some Ty.i32, some .n32, some .i64, some .f32, some .f64].contains ty
        && decide (1 ≤ n) && decide (n ≤ 2 ^ 20) && decide (xdRank d ≤ xdNrank d)
    | _ => xdQueue d == 0 && !(xdAccum d)
        && ((ty == some .i64 && xdDsr d == 0) || (ty == some .f32 && (xdDsr d == 0 || decide (9 ≤ xdDsr d))))
        && decide (1 ≤ n) && decide (n ≤ 65536) && xdColl d == 0 && dNat d 0x2c 4 == 0)

/-! Routes (R400). -/

/-- The port of a message to a package; none without a route or with the port down (R405). Port 16 is the loop back. -/
def fabRoute (s : State) (pkg flow : Nat) : Option Nat :=
  if pkg = s.fabric.pkg then some 16
  else
    let m := rdHomeN s (s.fabric.rtbase + 2 * pkg) 2
    let ports := (List.range 16).filter fun k => abit m k == 1
    match ports[flow % max 1 ports.length]? with
    | some k => if s.fabric.up.getLsbD k then some k else none
    | none => none

/-- Put a message on its way. -/
def fabEmit (s : State) (port : Nat) (m : Message) : State :=
  if port = 16 then { s with fabric := { s.fabric with inbox := s.fabric.inbox ++ [(16, m)] } }
  else { s with fabric := { s.fabric with
    outbox := s.fabric.outbox ++ [(port, m)], retries := s.fabric.retries.filter fun x => x.1 != port } }

/-- Answer a message with its CMPL; without a route back it is lost. -/
def sendCmpl (s : State) (m : Message) (status : Nat) (data : List Byte) : State :=
  let c : Message := ⟨.cmpl, m.dstPkg, m.dstPart, m.srcPkg, m.srcPart, m.flow, m.tag, [], data, status, [], []⟩
  match fabRoute s m.srcPkg m.flow with
  | some p => fabEmit s p c
  | none => s

/-! The end of an operation at its source (R403, R406). -/

/-- Status word of an XFWORK whose message got no answer (R406). -/
def workLost : Nat := 2 + 256 * 14

/-- The team of an operation is saved, or its core is not released yet (R409). -/
def fabHeld (s : State) (o : FabricOp) : Bool :=
  (match teamAt s o.grp.team with
    | some t => (partOf s t.part).life == .halted || coreHeld s t
    | none => (s.parked.any fun x => x.team.ref == o.grp.team)
        || s.saves.any fun c => c.live && c.teams.any fun x => x.team.ref == o.grp.team)

/-- The second step at the CMPL: flags, FABERR, the arrival addition, or XFWORK's status word. -/
def fabEnd (s : State) (o : FabricOp) (status : Nat) (fl : Flags) : State :=
  let s := { s with fabric := { s.fabric with ops := s.fabric.ops.filter fun x => x.tag != o.tag } }
  match teamAt s o.grp.team, gridAt s o.grp.team.grid with
  | some t, some gr =>
    let s := if o.cls = .work then updGroup s o.grp fun g =>
        finishDst (deliver g o.acc o.acc.all fun _ => BitVec.ofNat 128 status) o.acc else s
    let s := orMstat s t.ref (o.flags ||| fl)
    let bad : Bool := o.cls != .work && status != 0
    let s := if bad then postCause s t.ref o.grp.grp (causeInfo tcFaberr status) else s
    let s := if xdArrive o.desc = 0xffffffff then s
      else arwAddAt s gr t.ref.lin (xdArrive o.desc) (fabTotal o.cls o.desc) bad
    settleTickets s gr.id
  | _, _ => if o.cls != .work && status != 0 then mcheck s o.part else s

/-- A CMPL's second step now, or held until the team is restored (R409). -/
def fabFinish (s : State) (o : FabricOp) (status : Nat) (fl : Flags) : State :=
  if fabHeld s o then
    { s with fabric := { s.fabric with ops := s.fabric.ops.map fun x => if x.tag == o.tag then { x with done := some (status, fl) } else x } }
  else fabEnd s o status fl

/-- Held arrivals of a team are applied (R409). -/
def fabSettle (s : State) (t : TeamRef) : State :=
  (s.fabric.ops.filter fun o => o.grp.team == t && o.done.isSome).foldl (fun s o =>
    match o.done with
    | some (st, fl) => fabEnd s o st fl
    | none => s) s

/-! Sending (R403). -/

/-- The places of the local bytes, or their fault: also a range lock (R224). -/
def fabPlaces (s : State) (e : CopyEnv) (write : Bool) (a n : Nat) : List (Nat × Place) ⊕ Cause :=
  if lockedAt s e.t.core e.t.part none (signed 64 a) n write then .inr (engCause tcLockhit 0 a)
  else copyPlaces s e false write (signed 64 a) n

/-- The entries of an XFSRED .F32 with DSR 9 to 15, converted (R327, R408). -/
def sredConvert (gr : Grid) (dsr : Nat) (b : List Byte) : List Byte × Flags :=
  (List.range (b.length / 16)).foldl (fun r k =>
    let x := scaledAddend 4 (gr.ds.getD dsr 0).toNat (dNat b (16 * k + 8) 4)
    (r.1 ++ (b.drop (16 * k)).take 8 ++ toBytes 8 (wrap 64 x.1), r.2 ||| x.2)) ([], 0)

/-- Send a message and keep its operation, or end it where no route leads to its destination. Its bytes are charged (R415). -/
def fabLaunch (s : State) (t : Team) (r : GroupRef) (a : Access) (d b : List Byte) (fl : Flags) : State :=
  let k := fabClass a.opc
  let tag := s.fabric.nextTag
  let s := { s with fabric := { s.fabric with nextTag := tag + 1 } }
  let port := fabRoute s (xdPkg d) (xdFlow d)
  let o : FabricOp := ⟨tag, k, r, t.part, d, s.clk, a, port, fl, none⟩
  let m : Message := ⟨k, s.fabric.pkg, t.part, xdPkg d, xdPart d, xdFlow d, tag, d, b, 0, [], []⟩
  let s := { s with fabric := { s.fabric with ops := s.fabric.ops ++ [o] } }
  let s := dropEntry (charge s 1 b.length) r a.tok
  match port with
  | some p => fabEmit s p m
  | none => fabFinish s o (if k = .work then workLost else 1) 0

/-- Send entry `k` of a group; `turn` at its team's turn (R317). -/
def fabTry (s : State) (r : GroupRef) (k : Nat) (turn : Bool) : Option State :=
  match teamAt s r.team, groupAt s r, gridAt s r.team.grid with
  | some t, some g, some gr =>
    match g.queue[k]? with
    | none => none
    | some a =>
      if !(isFabric a.opc) || a.fault.isSome || (a.stage == 2 && !turn) || !(allPerformed g k) || slogHolds s r t.core
          || followsOwed s t gr g a then none
      else if lrDet gr.lr && t.tk.abortMark then some (withdraw s r a a.lanes)
      else if !(budgetFor s t.part 1) then none
      else
        let d := entryDesc a
        let cls := fabClass a.opc
        let s := markRelease (releaseAt s t.core shPackage) r a.all shPackage
        let e : CopyEnv := ⟨t, gr, g.outRel⟩
        if cls = .get then some (fabLaunch s t r a d [] 0)
        else match fabPlaces s e false (xdLocal d) (fabTotal cls d) with
          | .inr c => some (setEntry s r a.tok fun x => { x with fault := some { c with lanes := oneLane a.lanes } })
          | .inl ps => match copyGate s e none ps with
            | some (.ask s) => some s
            | some _ => none
            | none =>
              let x := copyRead s e ps
              if cls = .sred ∧ 9 ≤ xdDsr d then
                let y := sredConvert gr (xdDsr d) x.2
                some (fabLaunch x.1 t r a (setBytes d 4 (toBytes 4 4)) y.1 y.2)
              else some (fabLaunch x.1 t r a d x.2 0)
  | _, _, _ => none

/-- Codes found at the issue (R402). -/
def xdCodes (c : Ctx) (k : MsgClass) (d : List Byte) : List Nat :=
  let lo := signed 64 (xdLocal d)
  (if xdOk k d && c.s.fabric.pkg != 0xffff then [] else [tcIllfmt])
    ++ (if lo < -(2 ^ 56 : Int) ∨ (2 ^ 56 : Int) < lo + fabTotal k d then [tcProt] else [])
    ++ (if xdArrive d = 0xffffffff then []
        else match windowPlace c.s c.gr c.r.team.lin (xdArrive d) 8 with | .inr e => [e] | .inl _ => [])

/-- Issue a fabric instruction (R402): its descriptor is captured. -/
def fabAct (c : Ctx) (f : MF) : Act :=
  let vec : Option (Nat → LaneVal) := if c.i.opc = 0xfb then some fun _ => 0 else none
  if c.act = 0 then .go { vec := vec }
  else withLine c true 6 (addrOf c f 32 ((lowLane c.act).getD 0)) 0 fun d load =>
    match lowestCode (xdCodes c (fabClass c.i.opc) d) with
    | some k => .trap (causeOf k)
    | none =>
      if queueFull c.g then .stall
      else
        let wait : Bool := lrDet c.gr.lr && ticketBuffers c.gr c.t && !c.t.tk.abortMark
        let a := accessOf c c.act f.dst 0 (fun _ => addrOf c f 32 ((lowLane c.act).getD 0)) fun _ => 0
        let a := { a with
          stage := if wait then 2 else 0
          data := Lanes.mk fun l => if l < 4 then BitVec.ofNat 128 (dNat d (16 * l) 16) else 0 }
        .go { vec := vec, lazy := true, post := fun s => pushAccess c.r a (load s) }

/-- XFPUT (R402, R403). -/
def execXfput (f : MF) (s : State) : Out := issue (.xfput f) s fun c => fabAct c f
/-- XFGET (R402, R403). -/
def execXfget (f : MF) (s : State) : Out := issue (.xfget f) s fun c => fabAct c f
/-- XFWORK (R402, R403). -/
def execXfwork (f : MF) (s : State) : Out := issue (.xfwork f) s fun c => fabAct c f
/-- XFRED (R402, R407). -/
def execXfred (f : MF) (s : State) : Out := issue (.xfred f) s fun c => fabAct c f
/-- XFSRED (R402, R408). -/
def execXfsred (f : MF) (s : State) : Out := issue (.xfsred f) s fun c => fabAct c f

/-- XFFENCE (R404): it issues when no message of an active thread is without its CMPL. -/
def execXffence (f : RI) (s : State) : Out :=
  issue (.xffence f) s fun c =>
    let mine : Bool := (c.g.queue.any fun a => isFabric a.opc && a.all &&& c.act != 0)
      || c.s.fabric.ops.any fun o => o.grp == c.r && o.acc.all &&& c.act != 0
    if mine then .stall else effect c fun s => acquireAt s c.t.core shPackage

/-! At the destination (R405). -/

/-- What performing a message answers: it waits, something else happens first, or it ends with a status and data. -/
inductive MsgRes where
  | wait
  | go (s : State)
  | done (s : State) (status : Nat) (data : List Byte)

/-- What a range of a partition gives: its pieces of at most 64 bytes (offset, length, address, SHARE), a missing page, or a fault
at an offset with the pieces before it. -/
inductive DestAt where
  | ok (l : List (Nat × Nat × Nat × Nat))
  | missing (va : Nat)
  | bad (l : List (Nat × Nat × Nat × Nat))

/-- Translate `n` bytes at `va` for a message (R405). -/
def destAt (s : State) (p va n need : Nat) (failed : List Nat) : DestAt :=
  (lineRuns va n).foldl (fun r x =>
    match r with
    | .ok l =>
      let a := (va + x.1) % 2 ^ 64
      match engXlate s p a need with
      | .ok pa share _ => .ok (l ++ [(x.1, x.2, pa, share)])
      | .err c => if c = tcPfload && !(failed.contains (a / 65536)) then .missing a else .bad l
    | r => r) (.ok [])

/-- How a message uses its destination: it reads it, changes it, or writes these bytes there. -/
inductive DestUse where
  | read | change
  | write (b : List Byte)

/-- Write the bytes of pieces at their homes. -/
def destPut (s : State) (l : List (Nat × Nat × Nat × Nat)) (b : List Byte) : State :=
  guestsAcked (hostDone (l.foldl (fun s x => wrHomeN s (some x.2.2.2) x.2.2.1 x.2.1 (ofBytes ((b.drop x.1).take x.2.1))) s)
    (l.filterMap fun x => if region x.2.2.1 == some 2 then some (x.2.2.1 / 64) else none))

/-- A message remembers the host lines that it has written. -/
def msgWrote (s : State) (m : Message) (lines : List Nat) : State :=
  match s.fabric.inbox.findIdx? fun x => x.2 == m with
  | some k => { s with fabric := { s.fabric with inbox := modAt s.fabric.inbox k fun x => (x.1, { x.2 with wrote := lines ++ x.2.wrote }) } }
  | none => s

/-- The pieces that a message has still to write. -/
def destLeft (m : Message) (u : DestUse) (l : List (Nat × Nat × Nat × Nat)) : List (Nat × Nat × Nat × Nat) :=
  match u with
  | .write _ => l.filter fun x => !(region x.2.2.1 == some 2 && m.wrote.contains (x.2.2.1 / 64))
  | _ => l

/-- What pieces wait for: host lines that they lack (R394, R435), of which those with their GO are written then. -/
def destGate (s : State) (m : Message) (u : DestUse) (l : List (Nat × Nat × Nat × Nat)) : Option MsgRes :=
  let use (pa : Nat) : HostUse := match u with
    | .read => .load
    | .change => .part
    | .write b => lineUse (l.map fun x => (x.2.2.1, (b.drop x.1).take x.2.1)) pa
  let lacks : List (Nat × Nat) := l.filterMap fun x =>
    if (region x.2.2.1 == some 2 || x.2.2.2 = shSystem) && !(hostReady s x.2.2.2 x.2.2.1 (use x.2.2.1)) then
      some (x.2.2.2, x.2.2.1) else none
  let now := l.filter fun x => !(grantedOf s use [(0, .virt 0 x.2.2.1 x.2.2.2)]).isEmpty
  match u, lacks.isEmpty, now.isEmpty with
  | _, true, _ => none
  | .write b, _, false => some (.go (destPut (msgWrote s m (now.map fun x => x.2.2.1 / 64)) now b))
  | _, _, _ =>
    if lacks.all fun x => hostAsked s x.2 then some .wait
    else some (.go (lacks.foldl (fun s x => hostAsk s x.1 x.2 (use x.2)) s))

/-- Ask for a page of a destination, once (R396). -/
def destAsk (s : State) (p va : Nat) : MsgRes :=
  let same (q : PageReq) : Bool := q.asid == partAsid s p && q.page == va / 65536
  if (s.host.requests.any same) || s.host.queued.any same then .wait else .go (pageRequest s p va 3)

/-- Go on where a range and the signal word of a message can be accessed: `f` gets the pieces and whether a fault ends them. -/
def destWith (s : State) (m : Message) (va n need : Nat) (u : DestUse) (f : List (Nat × Nat × Nat × Nat) → Bool → MsgRes) : MsgRes :=
  match destAt s m.dstPart va n need m.failed with
  | .missing a => destAsk s m.dstPart a
  | .ok l => (destGate s m u (destLeft m u l)).getD (f (destLeft m u l) false)
  | .bad l => (destGate s m u (destLeft m u l)).getD (f (destLeft m u l) true)

/-- Read the bytes of pieces. -/
def destGet (s : State) (l : List (Nat × Nat × Nat × Nat)) : List Byte :=
  l.flatMap fun x => (List.range x.2.1).map fun k => rdHome s (x.2.2.1 + k)

/-- Add 1 to a signal word (R403); the status 3 where it faults. -/
def destSignal (s : State) (p sig : Nat) : State × Nat :=
  if sig = 0 then (s, 0)
  else match engXlate s p sig 11 with
    | .ok pa share _ => (guestsAcked (wrHomeN s (some share) pa 8 ((rdHomeN s pa 8 + 1) % 2 ^ 64)), 0)
    | .err _ => (s, 3)

/-- The signal word is there, or its page is asked for. -/
def signalWith (s : State) (m : Message) (f : MsgRes) : MsgRes :=
  if xdSignal m.desc = 0 then f else destWith s m (xdSignal m.desc) 8 11 .change fun _ _ => f
/-- The signal words of a collective's contributors (R403). -/
def signalsWith (s : State) (m : Message) : List Message → MsgRes → MsgRes
  | [], f => f
  | y :: l, f => signalWith s { m with desc := y.desc } (signalsWith s m l f)

/-- Addition of R407. -/
def redAdd (ty a b : Nat) : Nat × Flags :=
  match Ty.ofCode ty with
  | some .f32 => fpAdd fmtF32 ⟨.rne, false, false⟩ a b
  | some .f64 => fpAdd fmtF64 ⟨.rne, false, false⟩ a b
  | some .i64 => ((a + b) % 2 ^ 64, 0)
  | _ => ((a + b) % 2 ^ 32, 0)

/-- Elements of a contribution. -/
def redElems (ty : Nat) (b : List Byte) : List Nat :=
  let w := redSize ty
  (List.range (b.length / w)).map fun k => dNat b (w * k) w

/-- Add two vectors element by element. -/
def redFold (ty : Nat) (a b : List Nat) : List Nat × Flags :=
  (a.zip b).foldl (fun r x =>
    let y := redAdd ty x.1 x.2
    (r.1 ++ [y.1], r.2 ||| y.2)) ([], 0)

/-- What the contributions of a collective agree on (R407). -/
def collKey (m : Message) : List Nat :=
  [xdColl m.desc, xdNrank m.desc, xdRemote m.desc, xdLen m.desc, xdType m.desc, b2n (xdAccum m.desc)]

/-- Fold a contribution and the held ones behind it. -/
def collFold : Nat → Collective → Message → Collective
  | 0, c, _ => c
  | n + 1, c, m =>
    let ty := xdType m.desc
    let v := redElems ty m.data
    let x := if c.next = 0 then (v, 0) else redFold ty c.acc v
    let c : Collective := { c with
      next := c.next + 1, acc := x.1, members := c.members ++ [{ m with data := [] }], flags := c.flags ||| x.2
      held := c.held.filter fun y => xdRank y.desc != xdRank m.desc }
    match c.held.find? fun y => xdRank y.desc == c.next with
    | some y => collFold n c y
    | none => c

/-- The collective of a message: open, or opened by it. -/
def collOf (s : State) (m : Message) : Option Collective :=
  s.fabric.colls.find? fun c => c.part == m.dstPart && c.key.head? == some (xdColl m.desc)

def putColl (s : State) (m : Message) (c : Option Collective) : State :=
  let rest := s.fabric.colls.filter fun c => !(c.part == m.dstPart && c.key.head? == some (xdColl m.desc))
  { s with fabric := { s.fabric with colls := match c with | some c => rest ++ [c] | none => rest } }

/-- Answer one contributor of a collective. -/
def collTell (s : State) (m : Message) (status : Nat) (fl : Flags) : State := sendCmpl s m status [BitVec.ofNat 8 fl.toNat]
/-- Every contributor of a collective is answered. -/
def collAnswer (s : State) (l : List Message) (status : Nat) (fl : Flags) : State := l.foldl (fun s m => collTell s m status fl) s

/-- A contribution is refused: its source sends it again (R407). -/
def collRefuse (s : State) (port : Nat) (m : Message) : State :=
  { s with fabric := { s.fabric with deferred := s.fabric.deferred ++ [(port, m)] } }

/-- The result of a complete collective is written up to a fault, its signals are given in rank order, and its contributors are
answered. -/
def collWrite (s : State) (m : Message) (c : Collective) : MsgRes :=
  let ty := xdType m.desc
  let w := redSize ty
  let use : DestUse := if xdAccum m.desc then .change else .write (c.acc.flatMap fun v => toBytes w v)
  destWith s m (xdRemote m.desc) (w * xdLen m.desc) (if xdAccum m.desc then 11 else 10) use fun l bad =>
    signalsWith s m c.members
      (let old := destGet s l
       let n := old.length / w
       let x := if xdAccum m.desc then redFold ty (redElems ty old) (c.acc.take n) else (c.acc, 0)
       let s := destPut s l ((x.1.flatMap fun v => toBytes w v) ++ old.drop (w * n))
       let fl := c.flags ||| x.2
       let s := putColl s m none
       if bad then .done (collAnswer s c.members 3 fl) 0 []
       else
         let z := c.members.foldl (fun (r : State × List Nat) y =>
           let t := destSignal r.1 m.dstPart (xdSignal y.desc)
           (t.1, r.2 ++ [t.2])) (s, [])
         .done ((c.members.zip z.2).foldl (fun s y => collTell s y.1 y.2 fl) z.1) 0 [])

/-- An XFRED contribution (R407); the answers are sent here, so that `done` sends none. -/
def redRun (s : State) (port : Nat) (m : Message) : MsgRes :=
  let r := xdRank m.desc
  match collOf s m with
  | none =>
    if 256 ≤ (s.fabric.colls.filter fun c => c.part == m.dstPart).length then .done (collRefuse s port m) 0 []
    else
      let c : Collective := ⟨m.dstPart, collKey m, 0, [], [], [], 0⟩
      if r = 0 then
        let c := collFold 1 c m
        if xdNrank m.desc = 0 then collWrite s m c else .done (putColl s m (some c)) 0 []
      else if s.fabric.rbuf % 2 ^ 16 * 2 ^ 20 < (s.fabric.colls.foldl (fun n c => c.held.foldl (fun n y => n + y.data.length) n) 0) + m.data.length then
        .done (collRefuse s port m) 0 []
      else .done (putColl s m (some { c with held := [m] })) 0 []
  | some c =>
    if c.key ≠ collKey m ∨ r < c.next ∨ (c.held.any fun y => xdRank y.desc == r) = true then
      .done (collAnswer (putColl s m none) (c.members ++ c.held ++ [m]) 4 0) 0 []
    else if r = c.next then
      let c := collFold (c.held.length + 1) c m
      if xdNrank m.desc < c.next then collWrite s m c else .done (putColl s m (some c)) 0 []
    else if s.fabric.rbuf % 2 ^ 16 * 2 ^ 20 < (s.fabric.colls.foldl (fun n c => c.held.foldl (fun n y => n + y.data.length) n) 0) + m.data.length then
      .done (collRefuse s port m) 0 []
    else .done (putColl s m (some { c with held := c.held ++ [m] })) 0 []

/-- The entries of an XFSRED in ascending index, those of one index in their order (R408). -/
def sredEntries (b : List Byte) : List (Nat × Nat) :=
  ((List.range (b.length / 16)).map fun k => (dNat b (16 * k) 4, dNat b (16 * k + 8) 8)).foldl
    (fun l x => (l.filter fun y => decide (y.1 ≤ x.1)) ++ [x] ++ l.filter fun y => decide (x.1 < y.1)) []

/-- An XFSRED (R408): every word is there, then each entry is added; a fault ends them. -/
def sredRun (s : State) (m : Message) : MsgRes :=
  let raw : Bool := Ty.ofCode (xdType m.desc) == some .f32
  let w := if raw then 4 else 8
  let es := sredEntries m.data
  let at' (x : Nat × Nat) : Nat := (xdRemote m.desc + w * x.1) % 2 ^ 64
  let rec go : List (Nat × Nat) → MsgRes → MsgRes
    | [], r => r
    | x :: rest, r => match destAt s m.dstPart (at' x) w 11 m.failed with
      | .missing a => destAsk s m.dstPart a
      | .ok l => (destGate s m .change l).getD (go rest r)
      | .bad _ => r
  let ok : List (Nat × Nat) := es.takeWhile fun x => match destAt s m.dstPart (at' x) w 11 m.failed with | .ok _ => true | _ => false
  let apply (s : State) (x : Nat × Nat) : State := match destAt s m.dstPart (at' x) w 11 m.failed with
    | .ok l =>
      let old := ofBytes (destGet s l)
      destPut s l (toBytes w (if raw then (redAdd 10 old (x.2 % 2 ^ 32)).1 else (old + x.2) % 2 ^ 64))
    | _ => s
  go es (signalWith s m
    (let s := ok.foldl apply s
     if ok.length < es.length then .done s 3 []
     else
       let y := destSignal s m.dstPart (xdSignal m.desc)
       .done y.1 y.2 []))

/-- Perform a message (R403, R405). -/
def fabRun (s : State) (port : Nat) (m : Message) : MsgRes :=
  let d := m.desc
  let refused : Bool := m.cls != .work && !(s.fabric.accept.getLsbD m.dstPart)
  if refused then .done (if m.cls = .red then sendCmpl s m 2 [] else s) 2 []
  else match m.cls with
    | .put => destWith s m (xdRemote d) m.data.length 10 (.write m.data) fun l bad =>
        signalWith s m
          (let s := destPut s l m.data
           if bad then .done s 3 []
           else
             let y := destSignal s m.dstPart (xdSignal d)
             .done y.1 y.2 [])
    | .get => destWith s m (xdRemote d) (xdLen d) 1 .read fun l bad => if bad then .done s 3 [] else .done s 0 (destGet s l)
    | .work =>
      let q := qdBytes s (xdQueue d)
      let lacks := virtLacks s (qdPart q) (enqReads s (xdQueue d) m.data)
      let form := recReason s (qdPart q) m.data .fabric
      let other := if qdPart q ≠ xdPart d then some 10 else if qdRemote q then none else some 13
      if !lacks.isEmpty then
        if lacks.all fun x => hostAsked s x.2 then .wait else .go (lacks.foldl (fun s x => hostAsk s x.1 x.2 .load) s)
      else match form, other with
      | none, some k => .done (refuse s (qdPart q) (qdPart q) (recCmpl m.data).1 (recIrq s (xdQueue d) m.data) k 0) (2 + 256 * k) []
      | _, _ =>
        let x := enqueueRec s (xdQueue d) m.data .fabric
        .done x.1 (x.2.1 + 256 * x.2.2) []
    | .red => redRun s port m
    | .sred => sredRun s m
    | .cmpl => .wait

/-- Messages of one flow (R400). -/
def sameFlow (a b : Message) : Bool :=
  a.srcPkg == b.srcPkg && a.srcPart == b.srcPart && a.dstPart == b.dstPart && a.flow == b.flow

/-- A message waits for a page of its destination (R405). -/
def pageLacks (s : State) (m : Message) : Bool :=
  let missing (va n need : Nat) : Bool := match destAt s m.dstPart va n need m.failed with | .missing _ => true | _ => false
  let w := if m.cls == .red then redSize (xdType m.desc) else if Ty.ofCode (xdType m.desc) == some .f32 then 4 else 8
  (match m.cls with
    | .put => missing (xdRemote m.desc) m.data.length 10
    | .get => missing (xdRemote m.desc) (xdLen m.desc) 1
    | .red => missing (xdRemote m.desc) (w * xdLen m.desc) (if xdAccum m.desc then 11 else 10)
    | .sred => (sredEntries m.data).any fun x => missing ((xdRemote m.desc + w * x.1) % 2 ^ 64) w 11
    | _ => false)
    || (m.cls != .work && xdSignal m.desc != 0 && missing (xdSignal m.desc) 8 11)

/-- An earlier message of its flow holds a message back: every one holds DATA back, DATA holds WORK back (R401), and one that waits for a
page holds its whole flow back (R405). Records of WORK are appended in their order. -/
def flowHolds (s : State) (earlier m : Message) : Bool :=
  let isData (x : Message) : Bool := x.cls == .put || x.cls == .get
  sameFlow earlier m && earlier.cls != .cmpl
    && (isData m || (m.cls == .work && (isData earlier || earlier.cls == .work)) || pageLacks s earlier)

/-- The messages of a port that nothing of their flow holds back, in order. -/
def openMsgs (s : State) (port : Nat) : List Message :=
  let box := (s.fabric.inbox.filter fun x => x.1 == port).map (·.2)
  ((box.zipIdx).filter fun x => x.1.cls != .cmpl && !((box.take x.2).any fun y => flowHolds s y x.1)).map (·.1)

/-- What the first message of a port that can go on does, and the bytes that one moves which is performed and leaves the port: its own, and
those that its completion carries (R415, log entry 104). -/
def fabStep (s : State) (port : Nat) : Option (State × Nat) :=
  let take (m : Message) (s : State) : State :=
    match s.fabric.inbox.findIdx? fun x => x.1 == port && x.2 == m with
    | some k => { s with fabric := { s.fabric with inbox := s.fabric.inbox.eraseIdx k } }
    | none => s
  (openMsgs s port).findSome? fun m =>
    match fabRun s port m with
    | .wait => none
    | .go s => some (s, 0)
    | .done t st b =>
      let t := take m t
      some (if m.cls = .red then t else sendCmpl t m st b, m.data.length + b.length)

def canFabricMessageReceive (s : State) (port : Nat) : Bool := budgetOpen s 1 && (fabStep s port).isSome
/-- FABRIC_MESSAGE_RECEIVE (R405). -/
def execFabricMessageReceive (port : Nat) (s : State) : Out :=
  event s (canFabricMessageReceive s port) fun s => match fabStep s port with
    | some (t, n) => charge t 1 n
    | none => s

def canXfredResend (s : State) (port k : Nat) : Bool := ((s.fabric.deferred.filter fun x => x.1 == port)[k]?).isSome
/-- XFRED_RESEND (R407). -/
def execXfredResend (port k : Nat) (s : State) : Out :=
  event s (canXfredResend s port k) fun s =>
    match (s.fabric.deferred.filter fun x => x.1 == port)[k]? with
    | some x => { s with fabric := { s.fabric with deferred := s.fabric.deferred.erase x, inbox := s.fabric.inbox ++ [x] } }
    | none => s

/-! Back at the source (R403, R405). -/

/-- The CMPL that an event names. -/
def cmplOf (s : State) (tag status : Nat) : Option (Nat × Message) :=
  s.fabric.inbox.find? fun x => x.2.cls == .cmpl && x.2.tag == tag && x.2.status == status

/-- The bytes written at places, each with its place. -/
def cutPlaces (ps : List (Nat × Place)) (b : List Byte) : List ((Nat × Place) × List Byte) :=
  (ps.foldl (fun (r : List ((Nat × Place) × List Byte) × List Byte) x => (r.1 ++ [(x, r.2.take x.1)], r.2.drop x.1)) ([], b)).1

/-- A CMPL is taken (R403): an XFGET's bytes are written at LOCAL first, within the budget (R415); a page that is missing there is asked
for, and another fault or PRESP.FAIL is INFO 3 (R396, R406; log entry 55). -/
def cmplRun (s : State) (tag status : Nat) : Option State :=
  match cmplOf s tag status with
  | none => none
  | some x =>
    let s' := { s with fabric := { s.fabric with inbox := s.fabric.inbox.erase x } }
    match s.fabric.ops.find? fun o => o.tag == tag && o.done.isNone with
    | none => some s'
    | some o =>
      let fl : Flags := BitVec.ofNat 6 (ofBytes (x.2.data.take 1))
      if o.cls = .get ∧ status = 0 then
        if !(budgetFor s o.part 1) then none
        else
        let e : CopyEnv := match teamAt s o.grp.team, gridAt s o.grp.team.grid with
          | some t, some gr => ⟨t, gr, true⟩
          | _, _ => ⟨ghostTeam o.grp.team o.part 384, ghostGrid o.grp.team.grid o.part, true⟩
        match fabPlaces s e true (xdLocal o.desc) (xdLen o.desc) with
        | .inr c =>
          if c.code = tcPfload ∧ x.2.failed.contains (c.addr.toNat / 65536) = false then (match destAsk s o.part c.addr.toNat with | .go s => some s | _ => none)
          else some (fabFinish s' o 3 0)
        | .inl ps =>
          let parts := (cutPlaces ps x.2.data).filter fun y => match y.1.2 with
            | .virt _ pa _ => !(region pa == some 2 && x.2.wrote.contains (pa / 64))
            | .bank .. => true
          let now := parts.filter fun y => !(grantedOf s (lineUse (writtenAt ps x.2.data)) [y.1]).isEmpty
          let put (s : State) (l : List ((Nat × Place) × List Byte)) : State :=
            guestsAcked (copyWrite s e (l.map (·.1)) (l.flatMap (·.2)))
          match copyGate s e (some (parts.flatMap (·.2))) (parts.map (·.1)), now.isEmpty with
          | none, _ => some (fabFinish (put (charge s' 1 x.2.data.length) parts) o 0 0)
          | some (.ask _), false | some .wait, false =>
            if (copyGate s e (some (now.flatMap (·.2))) (now.map (·.1))).isSome then none
            else some (put (msgWrote s x.2 (hostLinesOf (now.map (·.1)))) now)
          | some (.ask s), true => some s
          | some _, _ => none
      else some (fabFinish s' o status (if o.cls = .red then fl else 0))

def canFabricCmplReceive (s : State) (tag status : Nat) : Bool := (cmplRun s tag status).isSome
/-- FABRIC_CMPL_RECEIVE (R403, R405, R406). -/
def execFabricCmplReceive (tag status : Nat) (s : State) : Out :=
  event s (canFabricCmplReceive s tag status) fun s => (cmplRun s tag status).getD s

/-- 100 ms in clk (R12, R405). -/
def fabLimit : Nat := 240000000
def canFabricCmplTimeout (s : State) (tag : Nat) : Bool :=
  s.fabric.ops.any fun o => o.tag == tag && o.done.isNone && decide (o.sentAt + fabLimit ≤ s.clk)
/-- FABRIC_CMPL_TIMEOUT (R405, R406). -/
def execFabricCmplTimeout (tag : Nat) (s : State) : Out :=
  event s (canFabricCmplTimeout s tag) fun s =>
    match s.fabric.ops.find? fun o => o.tag == tag && o.done.isNone with
    | some o => fabFinish s o (if o.cls = .work then workLost else 5) 0
    | none => s

/-! Ports (R398 to R400). -/

/-- Change a bit of FXCFG.UP; a change sets MGSTAT.LINK (R398). -/
def setUp (s : State) (port : Nat) (v : Bool) : State :=
  if s.fabric.up.getLsbD port == v then s
  else setMgstat { s with fabric := { s.fabric with up := s.fabric.up ^^^ BitVec.ofNat 16 (2 ^ port) } } 2

def portRetries (s : State) (port : Nat) : Nat := ((s.fabric.retries.find? fun x => x.1 == port).map (·.2)).getD 0
def putRetries (s : State) (port n : Nat) : State :=
  { s with fabric := { s.fabric with retries := (port, n) :: s.fabric.retries.filter fun x => x.1 != port } }

/-- A port goes down: messages routed through it fail with INFO 1 (R399, R405, R406). -/
def portDown (s : State) (port : Nat) : State :=
  let s := setUp (putRetries s port 0) port false
  let s := { s with fabric := { s.fabric with
    outbox := s.fabric.outbox.filter fun x => x.1 != port, inbox := s.fabric.inbox.filter fun x => x.1 != port } }
  (s.fabric.ops.filter fun o => o.port == some port && o.done.isNone).foldl (fun s o =>
    fabFinish s o (if o.cls = .work then workLost else 1) 0) s

def canFlitCrcFailure (s : State) (port : Nat) : Bool := decide (port < 16) && s.fabric.up.getLsbD port
/-- FLIT_CRC_FAILURE (R399): a flit is retried eight times. -/
def execFlitCrcFailure (port : Nat) (s : State) : Out :=
  event s (canFlitCrcFailure s port) fun s =>
    let n := portRetries s port
    if n < 8 then putRetries s port (n + 1) else portDown s port
/-- FXCFG_TRAIN (R399, R400): a port in training is not up. -/
def execFxcfgTrain (port : Nat) (s : State) : Out :=
  event s (decide (port < 16)) fun s => setUp (putRetries s port 0) port false
def canFabricPortUp (s : State) (port : Nat) : Bool := decide (port < 16) && !(s.fabric.up.getLsbD port)
/-- FABRIC_PORT_UP (R398, R399). -/
def execFabricPortUp (port : Nat) (s : State) : Out :=
  event s (canFabricPortUp s port) fun s => setUp (putRetries s port 0) port true

end Sys2Proof.Machine
end

