-- ==== Sys2Proof/Machine/HostLink.lean ====
section
/-! DEFINITION. The host links: snoops and grants of host lines (R393, R435), host accesses to device memory (R394), page-request
answers and invalidations (R396). -/

namespace Sys2Proof.Machine

/-! Host lines. -/

def logHost (s : State) (m : HostMsg) : State := { s with host := { s.host with log := s.host.log ++ [m] } }
def hostAt (s : State) (line : Nat) : Option HostLine := s.host.lines.find? fun l => l.line == line

/-- Host memory takes the bytes of a line. -/
def hostMem (s : State) (line : Nat) (b : List Byte) : State :=
  { s with wbuf := ((b.take 64).zipIdx.map fun x => (64 * line + x.2, x.1)) ++ s.wbuf }

/-- Lines that the L2 no longer needs to remember. -/
def dropIdle (s : State) : State :=
  { s with host := { s.host with lines := s.host.lines.filter fun l => l.st != .i || l.req.isSome || l.evicting || l.writing } }

/-- Snoops (R393). -/
inductive Snoop where
  | inv | data | cur
  deriving DecidableEq, Repr

/-- Response names of R393, by the order of its table. -/
def rspName (k : Snoop) (st : Mesi) : Nat :=
  match k, st with
  | _, .i => 0
  | .inv, .m => 1 | .inv, _ => 2
  | .data, .m => 3 | .data, _ => 4
  | .cur, .m => 5 | .cur, _ => 6

/-- Answer a snoop (R393): data goes with the answer of a line in M. -/
def snoop (s : State) (line : Nat) (k : Snoop) : State :=
  let l := (hostAt s line).getD ⟨line, .i, [], false, false, none⟩
  let s := logHost s (.rsp line (rspName k l.st) (if l.st == .m then l.data else []))
  let target : Mesi := match k with
    | .inv => .i
    | .data => if l.st == .i then .i else .s
    | .cur => l.st
  let s := if l.st == .m && k != .cur then hostMem s line l.data else s
  dropIdle (updHostLines s (fun x => x.line == line) fun x => { x with st := target })

/-- SNP_INV (R393). -/
def execSnpInv (line : Nat) (s : State) : Out := event s true fun s => snoop s line .inv
/-- SNP_DATA (R393). -/
def execSnpData (line : Nat) (s : State) : Out := event s true fun s => snoop s line .data
/-- SNP_CUR (R393). -/
def execSnpCur (line : Nat) (s : State) : Out := event s true fun s => snoop s line .cur

/-- A writer of a whole host line is tried at the GO of its ItoMWr: its write is performed then (R435). What it does counts if it uses the
GO. -/
def takesGo (line : Nat) (s : State) (f : State → Option State) : State :=
  let granted (s : State) : Bool := (hostAt s line).any fun l => l.req == some 9
  if !(granted s) then s
  else match f s with
    | some u => if granted u then s else u
    | none => s

/-- Every writer that can have asked for a line with an ItoMWr: stores of the queues, copies, drains of tiles and of the commit buffer, the
side logs' entries, and messages. -/
def retryWriters (s : State) (line : Nat) : State :=
  let go := takesGo line
  let s := s.teams.foldl (fun s t => (t.groups.zipIdx).foldl (fun s x =>
    (x.1.queue.filter fun a => a.opc == 0x81 && a.stage == 0).foldl (fun s a => go s fun s => some (runTok s ⟨t.ref, x.2⟩ a.tok)) s) s) s
  let s := s.clusters.foldl (fun s c => (List.range c.copies.length).foldl (fun s k => go s fun s =>
    if (copyAt s c.ref k).any fun o => o.started && !o.cancelled then copyProgress s c.ref k else none) s) s
  let s := s.teams.foldl (fun s t => go (go s fun s => progressOf s t.ref false) fun s => drainStep s t.ref) s
  let s := s.clusters.foldl (fun s c => go s fun s => if canSideLogRetryPass s c.ref then
    some (slogRetry s c.ref fun e => match slogFate s c.ref.part e with
      | .asks _ ps | .replays ps => !(grantedOf s (hostUse e.acc ps) ps).isEmpty
      | _ => false) else none) s
  let s := (List.range 17).foldl (fun s port => (openMsgs s port).foldl (fun s m => go s fun s =>
    match fabRun s port m with | .go u => some u | _ => none) s) s
  s.fabric.inbox.foldl (fun s x => if x.2.cls == .cmpl then go s fun s => cmplRun s x.2.tag x.2.status else s) s

/-- A GO answers the line's request with a state that R435 admits for it. -/
def goOk (k : Nat) (st : Mesi) (l : HostLine) : Bool :=
  match k with
  | 1 => st == .s || st == .e
  | 2 | 6 => st == .i
  | 3 | 4 => st == .e || st == .m
  | 5 => st == .i && !l.writing
  | _ => false

def canGo (s : State) (line : Nat) (st : Mesi) (b : List Byte) : Bool :=
  b.length == 64 && (hostAt s line).any fun l => match l.req with | some k => goOk k st l | none => false
/-- GO (R393, R435): data comes with it but for a line held in S that asked for no data. -/
def execGo (line : Nat) (st : Mesi) (data : List Byte) (s : State) : Out :=
  event s (canGo s line st data) fun s =>
    match hostAt s line with
    | none => s
    | some l =>
      let put (s : State) (f : HostLine → HostLine) : State := updHostLines s (fun x => x.line == line) f
      match l.req with
      | some 1 | some 3 => flushPosted (hostMem (put s fun x => { x with st := st, data := data, req := none }) line data) line
      | some 2 => hostMem (put s fun x => { x with data := data, req := some 8 }) line data
      | some 4 => flushPosted
          (if l.st == .i then hostMem (put s fun x => { x with st := st, data := data, req := none }) line data
          else put s fun x => { x with st := st, req := none }) line
      | some 5 => dropIdle (retryWriters (flushPosted (put s fun x => { x with req := some 9 }) line) line)
      | _ => flushPosted (dropIdle (put s fun x => { x with st := .i, req := none })) line

def canGoWritepull (s : State) (line : Nat) : Bool := (hostAt s line).any fun l => l.evicting
/-- GO_WRITEPULL (R393): the dirty line's data, with Bogus where a snoop has taken it meanwhile; the line ends in I. -/
def execGoWritepull (line : Nat) (s : State) : Out :=
  event s (canGoWritepull s line) fun s =>
    match hostAt s line with
    | some l =>
      let bogus := l.st != .m
      let s := logHost s (.writeData line bogus l.data)
      let s := if bogus then s else hostMem s line l.data
      flushPosted (dropIdle (updHostLines s (fun x => x.line == line) fun x => { x with st := .i, evicting := false, req := none })) line
    | none => s

def canWritepull (s : State) (line : Nat) : Bool := (hostAt s line).any fun l => l.req == some 5 && l.writing
/-- WRITEPULL (R392, R435): the data of an ItoMWr goes to the host. -/
def execWritepull (line : Nat) (s : State) : Out :=
  event s (canWritepull s line) fun s =>
    match hostAt s line with
    | some l => updHostLines (logHost s (.writeData line false l.data)) (fun x => x.line == line) fun x => { x with writing := false }
    | none => s

/-- The L2 evicts a host line without an outstanding request (R435). -/
def evictLine (s : State) (line : Nat) : State :=
  match hostAt s line with
  | some l =>
    if l.req.isSome || l.st == .i then s
    else
      let k := if l.st == .m then 7 else 6
      let s := logHost s (.request line k (hostLink line))
      updHostLines s (fun x => x.line == line) fun x =>
        if l.st == .m then { x with evicting := true, req := some 7 } else { x with st := .i, req := some 6 }
  | none => s

/-- The host writes its own memory; lines that the device holds it snoops first (R393). -/
def hostWrites (s : State) (a : Nat) (b : List Byte) : State :=
  let ok : Bool := (List.range b.length).all fun k =>
    region (a + k) == some 2 && !(s.host.lines.any fun l => l.line == (a + k) / 64 && l.st != .i)
  if ok then { s with wbuf := ((b.zipIdx).map fun x => (a + x.2, x.1)) ++ s.wbuf } else s

/-! Device memory (R394). -/

/-- Bytes of the host reach the home of a line. Its write is performed at SYSTEM scope, so that the guest copies of the line are gone (R288,
R304). -/
def hostPut (s : State) (line : Nat) (l : List (Nat × Byte)) : State :=
  let s := l.foldl (fun s x => putHome s none (64 * line + x.1) x.2) s
  { s with guests := s.guests.filter fun g => g.pline != line / 2 }

/-- Answer a CXL.mem request (R394): 64 bytes at their home; outside near and far memory a poisoned response. It moves 64 bytes of the
host DMA budget (R415; log entry 104). -/
def cxlMem (s : State) (req : CxlReq) : State :=
  let inside (a : Nat) : Bool := region a == some 0 || region a == some 1
  match req with
  | .read addr =>
    let a := addr / 64 * 64
    if inside a then
      let s := logHost (charge s 0 64) (.memData addr false ((List.range 64).map fun k => rdHome s (a + k)))
      { s with host := { s.host with
        held := if s.host.held.contains (a / 64) then s.host.held else a / 64 :: s.host.held
        shared := s.host.shared.filter fun x => x != a / 64 } }
    else logHost s (.memData addr true [])
  | .write addr data =>
    let a := addr / 64 * 64
    if inside a then hostPut (charge s 0 64) (a / 64) ((data.take 64).zipIdx.map fun x => (x.2, x.1))
    else logHost s (.memData addr true [])

/-- CXL_MEM_REQUEST (R394): answered now, or at a period in which the host DMA budget has room (R415). -/
def execCxlMemRequest (req : CxlReq) (s : State) : Out :=
  event s true fun s =>
    if budgetOpen s 0 && s.host.waiting.isEmpty then cxlMem s req
    else { s with host := { s.host with waiting := s.host.waiting ++ [req] } }

/-- Requests that waited for the budget are answered while there is room (R415). -/
def cxlWaiting : Nat → State → State
  | 0, s => s
  | n + 1, s => match s.host.waiting with
    | [] => s
    | q :: rest => if budgetOpen s 0 then cxlWaiting n (cxlMem { s with host := { s.host with waiting := rest } } q) else s

def canBisnpResponse (s : State) (line : Nat) : Bool := s.host.snooping.any fun x => x.1 == line
/-- BISNP_RESPONSE (R394): dirty data reaches the home, but for bytes the device wrote there meanwhile. -/
def execBisnpResponse (line : Nat) (dirty : Bool) (data : List Byte) (s : State) : Out :=
  event s (canBisnpResponse s line) fun s =>
    let inv : Bool := s.host.snooping.any fun x => x == (line, true)
    let older (k : Nat) : Bool := s.host.written.contains (64 * line + k)
    let s := if dirty then hostPut s line (((data.take 64).zipIdx.filter fun x => !(older x.2)).map fun x => (x.2, x.1)) else s
    let s : State := { s with host := { s.host with
      snooping := s.host.snooping.filter fun x => x.1 != line
      written := s.host.written.filter fun a => a / 64 != line
      held := if inv then s.host.held.filter fun x => x != line else s.host.held
      shared := if inv then s.host.shared.filter fun x => x != line else line :: s.host.shared } }
    if inv then settlePosted s line else s

/-! Page requests and invalidations (R396). -/

/-- An answer to a page request: what waited for the page goes on, or fails, that of saved teams too (R324); the side logs' entries of
the page are retried (R396). -/
def pageAnswer (s : State) (asid page : Nat) (fail : Bool) : State :=
  let mine (p : Nat) : Bool :=
    partAsid s p == asid || s.host.requests.any fun q => q.asid == asid && q.page == page && q.part == p
  let entry (e : Entry) : Entry :=
    if e.asked && e.line * 128 / 65536 == page then (if fail then { e with failed := true } else { e with asked := false }) else e
  let log (e : SlogEntry) : SlogEntry :=
    if fail && (lanesOf e.acc.lanes).any fun l => (Lanes.at e.acc.addr l 0).toNat / 65536 == page then
      { e with failed := page :: e.failed } else e
  let msg (x : Nat × Message) : Nat × Message := if fail && mine x.2.dstPart then (x.1, { x.2 with failed := page :: x.2.failed }) else x
  let team (t : Team) : Team := if mine t.part then { t with tk := { t.tk with share := t.tk.share.map entry } } else t
  let away (x : Parked) : Parked :=
    { x with team := team x.team, slog := if mine x.team.part then x.slog.map log else x.slog }
  let s : State := { s with
    host := { s.host with requests := s.host.requests.filter fun q => !(q.asid == asid && q.page == page) }
    teams := s.teams.map team
    parked := s.parked.map away
    saves := s.saves.map fun (c : SavedCtx) =>
      { c with teams := c.teams.map away, slog := if mine c.part then c.slog.map log else c.slog }
    clusters := s.clusters.map fun (c : Cluster) => if mine c.ref.part then { c with slog := c.slog.map log } else c
    fabric := { s.fabric with inbox := s.fabric.inbox.map msg } }
  let here (e : SlogEntry) : Bool := (lanesOf e.acc.lanes).any fun l => (Lanes.at e.acc.addr l 0).toNat / 65536 == page
  (s.clusters.filter fun c => mine c.ref.part && canSideLogRetryPass s c.ref).foldl (fun s c => slogRetry s c.ref here) s

/-- A write of PRESP's word 1 (R396). -/
def prespWrite (s : State) (v : DWord) : State :=
  let w := v.toNat
  pageAnswer { s with host := { s.host with presp1 := BitVec.ofNat 64 (w % 2 ^ 20 + abit w 22 * 2 ^ 22) } }
    (w % 65536) (s.host.presp0.toNat / 65536) (abit w 22 == 1)
/-- PRESP_WRITE (R396): word 1, which ends the answer; word 0 was written before. -/
def execPrespWrite (v : DWord) (s : State) : Out := event s true fun s => prespWrite s v

/-- A write of HINV's word 1 (R396, R259): its effect is complete within the write, so that DONE reads 1. -/
def hinvWrite (s : State) (v : DWord) : State :=
  let w := v.toNat
  let va := s.host.hinv0.toNat
  let asid := w % 65536
  let part := bitsOf w 19 16
  let s := { s with host := { s.host with hinv1 := BitVec.ofNat 64 (w % 2 ^ 22 + 2 ^ 63) } }
  match bitsOf w 21 20 with
  | 0 => tlbInvalidate s part (fun e => e.asid == asid && e.vpage == va / 2 ^ e.size)
      fun x => x.asid == asid && 128 * x.vline / 2 ^ x.size == va / 2 ^ x.size
  | 1 => tlbInvalidate s part (fun e => e.asid == asid) fun x => x.asid == asid
  | 2 => tlbInvalidate s part (fun _ => true) fun _ => true
  | _ => s
/-- HINV_WRITE (R396). -/
def execHinvWrite (v : DWord) (s : State) : Out := event s true fun s => hinvWrite s v

/-- Requests that waited for room are written while there is some (R396). -/
def ringFill : Nat → State → State
  | 0, s => s
  | n + 1, s => match s.host.queued with
    | [] => s
    | q :: rest => if ringFull s then s else ringFill n (ringPut { s with host := { s.host with queued := rest } } q)
def prqtailWrite (s : State) (v : DWord) : State :=
  ringFill s.host.queued.length { s with host := { s.host with prqtail := v.setWidth 32 } }
/-- PRQTAIL_WRITE (R396). -/
def execPrqtailWrite (v : DWord) (s : State) : Out := event s true fun s => prqtailWrite s v

end Sys2Proof.Machine
end

