-- ==== Sys2Proof/Machine/SaveArea.lean ====
section
/-! DEFINITION. The save area (R391): its bytes, and what a restore takes back from them. Codes and places that R391 does not give
are the model's (log entry 50). -/

namespace Sys2Proof.Machine

/-- Bytes at an offset of the area. -/
abbrev Chunk := Nat × List Byte

/-- Chunks moved to an offset. -/
def atOff (o : Nat) (l : List Chunk) : List Chunk := l.map fun x => (o + x.1, x.2)

/-! Group blocks. -/

/-- The code of a register state in the area. -/
def regCode : RegState → Nat
  | .full => 0 | .empty => 1 | .dead => 2
@[inherit_doc regCode] def regOf : Nat → RegState
  | 0 => .full | 1 => .empty | _ => .dead
/-- The code of a group state in the area. -/
def statusCode : GroupStatus → Nat
  | .ready => 0 | .waiting => 1 | .handler => 2 | .done => 3
@[inherit_doc statusCode] def statusOf : Nat → GroupStatus
  | 0 => .ready | 1 => .waiting | 2 => .handler | _ => .done
/-- An optional number of 4 bits with its valid bit. -/
def optCode (o : Option Nat) : Nat := match o with | some n => n + 16 | none => 0
@[inherit_doc optCode] def optOf (n : Nat) : Option Nat := if 16 ≤ n then some (n % 16) else none

/-- The numbers of the live vector registers. -/
def liveRegs (g : Group) : List Nat := (List.range g.regs.length).filter fun n => (regAt g n).st != .dead

/-- Trap frames of a group, by level: their bytes in the partition's memory (R220). -/
def frameOf (s : State) (t : Team) (g : Group) (level : Nat) : List Byte :=
  match virtRead s t.part (frameAddr s t.part t.core g.gslot level) 32768 with
  | .inl b => b
  | .inr _ => zeroBytes 32768

/-- The code of a thread's barrier in the area. -/
def parkCode : Option Park → Nat
  | none => 0
  | some (.team b a) => 1 + 2 * b + b2n a
  | some (.cluster b a) => 65 + 2 * b + b2n a
  | some (.die b a) => 129 + 2 * b + b2n a
  | some (.grid b a) => 193 + 2 * b + b2n a
@[inherit_doc parkCode] def parkBack (w : Nat) : Option Park :=
  let b := (w - 1) % 64 / 2
  let a := (w - 1) % 2 == 1
  if w = 0 then none
  else match (w - 1) / 64 with
    | 0 => some (.team b a)
    | 1 => some (.cluster b a)
    | 2 => some (.die b a)
    | _ => some (.grid b a)

/-- The threads of a group with a property, as a mask of lanes. -/
def threadMask (g : Group) (f : Thread → Bool) : Nat := (laneMask fun l => f (threadAt g l)).toNat

/-- What of a group's state R391 gives no place: it stands behind the return stacks, in bytes that R391 leaves unused (log entry 50): threads
released, with a landing to check, past TKCOMMIT and with narrow releases; the group's program counter and counts; where each thread is
parked; BART waits; the GJOINs at which threads are joined. -/
def groupRest (g : Group) : List Chunk :=
  [(0x8a00, toBytes 4 (threadMask g (·.rel)) ++ toBytes 4 (threadMask g (·.land)) ++ toBytes 4 (threadMask g (·.post))
      ++ toBytes 4 (threadMask g (·.narrow))),
   (0x8a10, toBytes 8 g.gpc.toNat ++ toBytes 4 g.issues ++ toBytes 4 (b2n g.yielded)),
   (0x8a20, (List.range 32).flatMap fun l => toBytes 1 (parkCode (threadAt g l).park)),
   (0x8a40, (List.range 32).flatMap fun l => match g.barts.find? fun x => x.lane == l with
      | some x => toBytes 1 1 ++ toBytes 1 x.dst ++ toBytes 1 x.bar ++ toBytes 1 0 ++ toBytes 4 x.left
      | none => zeroBytes 8),
   (0x8b40, (List.range 32).flatMap fun k => match g.joins[k]? with
      | some j => toBytes 8 j.pc.toNat ++ toBytes 4 j.since ++ toBytes 4 (1 + 2 * b2n j.hung)
      | none => zeroBytes 16)]

def groupSize (g : Group) : Nat := 0x19000 + 128 * (liveRegs g).length

/-- The group block. -/
def groupChunks (frames : Nat → List Byte) (g : Group) : List Chunk :=
  let lq (k : Nat) : List Byte := match g.loopqs.toList.getD k none with
    | some q => toBytes 4 (q.base + 2 ^ 8 * q.len + 2 ^ 13 * q.head + 2 ^ 18 * q.occ + 2 ^ 23 * b2n q.byProg + 2 ^ 31)
    | none => toBytes 4 0
  let watch : List Byte := match g.watch with
    | some w => toBytes 8 w.word ++ toBytes 4 (1 + 2 * b2n w.hit + 4 * b2n w.interrupted + 8 * w.share)
    | none => zeroBytes 12
  [(0, frameBytes g g.cause g.queue),
   (0x8000, toBytes 4 (statusCode g.status + 4 * b2n g.outRel + 8 * b2n g.copyCancelled + 16 * b2n g.copyRange) ++ toBytes 4 g.lfsr.toNat ++ toBytes 4 g.fpstat.toNat
      ++ toBytes 4 (optCode g.role.inq + 2 ^ 8 * optCode g.role.outq)),
   (0x8010, toBytes 64 (sumOf 256 fun n => regCode (regAt g n).st * 4 ^ n)),
   (0x8050, toBytes 32 ((liveRegs g).foldl (fun r n => r + 2 ^ n) 0)),
   (0x8070, (List.range 32).flatMap fun l => toBytes 1 (threadAt g l).preds.toNat),
   (0x8090, (List.range 32).flatMap fun l => toBytes 2 (tidOf g l)),
   (0x80d0, (List.range 8).flatMap lq ++ toBytes 4 (presentMask g).toNat ++ watch),
   (0x8100, (List.range 32).flatMap fun l => toBytes 8 (threadAt g l).depth
      ++ (List.range 8).flatMap fun k => toBytes 8 (((threadAt g l).stack.getD k none).getD 0).toNat),
   (0x9000, if 1 ≤ g.saved.length then frames 1 else zeroBytes 32768),
   (0x11000, if 2 ≤ g.saved.length then frames 2 else zeroBytes 32768),
   (0x19000, (liveRegs g).flatMap fun n => (List.range 32).flatMap fun l => toBytes 4 (Lanes.at (regAt g n).vals l 0).toNat)]
  ++ groupRest g

/-- The cause registers of an image (R219, R220); TFRAME follows from the place of the group. -/
def causeBack (rd : ImageReader) (c : CauseRegs) : CauseRegs :=
  { c with
    tcause := BitVec.ofNat 64 (rd 0 8), tpoint := BitVec.ofNat 64 (rd 8 8), tresume := BitVec.ofNat 64 (rd 0x10 8)
    tlanes := BitVec.ofNat 32 (rd 0x18 8), taddr := BitVec.ofNat 64 (rd 0x20 8) }

/-- The accesses of an image's records, with what the device keeps of each beside its record. -/
def recordsBack (rd : ImageReader) (l : List Access) : List Access :=
  (l.zipIdx).map fun x =>
    let w := rd (0x1000 + 0x400 * x.2) 8
    let a := { x.1 with
      opc := bitsOf w 7 0, sub := bitsOf w 11 8, mod := bitsOf w 22 12, dst := BitVec.ofNat 13 (rd (0x1000 + 0x400 * x.2 + 12) 4) }
    (recordAccess rd x.2 a).getD { a with lanes := 0 }

/-- A loop queue of the group block. -/
def loopBack (w : Nat) : Option LoopQ :=
  if abit w 31 = 0 then none else some ⟨bitsOf w 7 0, bitsOf w 12 8, bitsOf w 17 13, bitsOf w 22 18, abit w 23 == 1⟩

/-- The registers of the group block: their states, and the values of those in the live mask. -/
def regsBack (rd : ImageReader) (l : List VReg) : List VReg :=
  let mask := rd 0x8050 32
  (l.zipIdx).map fun x =>
    let st := regOf (rd (0x8010 + x.2 / 4) 1 / 4 ^ (x.2 % 4) % 4)
    if abit mask x.2 = 0 then { x.1 with st := st }
    else
      let k := popCount 256 (mask % 2 ^ x.2)
      ⟨st, Lanes.mk fun l => BitVec.ofNat 32 (rd (0x19000 + 128 * k + 4 * l) 4)⟩

/-- A thread of the group block. -/
def threadBack (rd : ImageReader) (l : Nat) (t : Thread) : Thread :=
  let m := markOf (rd 0x140 8 / 4 ^ l % 4)
  { t with
    present := abit (rd 0x80f0 4) l == 1, tid := rd (0x8090 + 2 * l) 2, mark := m, park := parkBack (rd (0x8a20 + l) 1)
    rel := abit (rd 0x8a00 4) l == 1, land := abit (rd 0x8a04 4) l == 1, post := abit (rd 0x8a08 4) l == 1
    narrow := abit (rd 0x8a0c 4) l == 1
    pc := BitVec.ofNat 64 (rd (0x40 + 8 * l) 8), preds := BitVec.ofNat 7 (rd (0x8070 + l) 1), depth := rd (0x8100 + 72 * l) 8
    stack := (t.stack.zipIdx).map fun x => x.1.map fun _ => BitVec.ofNat 64 (rd (0x8108 + 72 * l + 8 * x.2) 8) }

/-- The BART waits of the group block, in the device's order where they are the same. -/
def bartsBack (rd : ImageReader) (old : List Bart) : List Bart :=
  let new : List Bart := (List.range 32).filterMap fun l =>
    let o := 0x8a40 + 8 * l
    if rd o 1 = 1 then some ⟨l, rd (o + 1) 1, rd (o + 2) 1, rd (o + 4) 4, 0⟩ else none
  let plain (l : List Bart) : List Bart := l.map fun x => { x with since := 0 }
  if (plain old).all (new.contains ·) && new.all (plain old).contains then old else new
/-- The joins of the group block. -/
def joinsBack (rd : ImageReader) : List Join :=
  (List.range 32).filterMap fun k =>
    let o := 0x8b40 + 16 * k
    if abit (rd (o + 12) 4) 0 = 1 then some ⟨BitVec.ofNat 64 (rd o 8), rd (o + 8) 4, abit (rd (o + 12) 4) 1 == 1⟩ else none

/-- A group with what the area's bytes say of it. The identities of its accesses and of the producers it awaits, and what the device
keeps for its outer levels, have no place in the area (log entry 50). -/
def groupBack (rd : ImageReader) (g : Group) : Group :=
  let w := rd 0x8000 4
  let role := rd 0x800c 4
  let level (k : Nat) : ImageReader := fun o n => rd (0x9000 + 0x8000 * k + o) n
  let n := g.saved.length
  { g with
    status := statusOf (w % 4), outRel := abit w 2 == 1, copyCancelled := abit w 3 == 1, copyRange := abit w 4 == 1
    lfsr := BitVec.ofNat 16 (rd 0x8004 4), fpstat := BitVec.ofNat 6 (rd 0x8008 4), role := ⟨optOf (role % 256), optOf (role / 256 % 256)⟩
    regs := regsBack rd g.regs
    threads := Lanes.mk fun l => threadBack rd l (threadAt g l)
    cuffs := cuffsBack rd fun k => (cuffAt g k).await
    lx := latchBack rd 0 g.lx.await, ly := latchBack rd 1 g.ly.await, ser := serialBack rd
    gpc := BitVec.ofNat 64 (rd 0x8a10 8), issues := rd 0x8a18 4, yielded := rd 0x8a1c 4 == 1, barts := bartsBack rd g.barts, joins := joinsBack rd
    loopqs := Vector.ofFn fun i => loopBack (rd (0x80d0 + 4 * i.val) 4)
    cause := causeBack rd g.cause
    queue := recordsBack rd g.queue
    saved := (g.saved.zipIdx).map fun x =>
      { x.1 with
        held := recordsBack (level (n - 1 - x.2)) x.1.held
        outer := if x.2 + 1 < n then causeBack (level (n - 2 - x.2)) x.1.outer else x.1.outer }
    watch := g.watch.map fun x =>
      let f := rd 0x80fc 4
      { x with word := rd 0x80f4 8, hit := abit f 1 == 1, interrupted := abit f 2 == 1, share := f / 8 } }

/-! Team records. -/

def barBytes (b : Bar) : List Byte := toBytes 4 (b2n b.phase) ++ toBytes 4 (b.since.getD 0)
/-- The arrival mask of a team's threads. -/
def maskBytes (lin : Nat) (b : Bar) : List Byte :=
  toBytes 128 ((b.arrived.filter fun n => n / 1024 == lin).foldl (fun r n => r + 2 ^ (n % 1024)) 0)

def ticketCode : Ticket → Nat
  | .none => 0 | .opened => 0 | .headOpen => 1 | .closed => 2 | .draining => 3 | .committed => 4 | .aborted => 5
/-- The code of a bank mode in the area. -/
def bankCode : BankMode → Nat
  | .spad => 0 | .cache => 1 | .fifo => 2
@[inherit_doc bankCode] def bankOf : Nat → BankMode
  | 0 => .spad | 1 => .cache | _ => .fifo
/-- The code of a stream state in the area. -/
def streamCode : StreamState → Nat
  | .idle => 0 | .configured => 1 | .running => 2 | .stopped => 3 | .done => 4
@[inherit_doc streamCode] def streamOf : Nat → StreamState
  | 0 => .idle | 1 => .configured | 2 => .running | 3 => .stopped | _ => .done
def engCode : EngKind → Nat
  | .mma => 0 | .zero => 1 | .load => 2 | .drain => 3 | .drainAdd => 4 | .attn => 5 | .attnf => 6 | .heapclr => 7
/-- The code of a commit-buffer entry in the area. -/
def entryCode : EntryKind → Nat
  | .store => 0
  | .reduce sub w sgn => 1 + 2 ^ 8 * sub + 2 ^ 16 * w + 2 ^ 24 * b2n sgn
  | .scale n e => 2 + 2 ^ 8 * n + 2 ^ 16 * e
  | .tileAdd ty => 3 + 2 ^ 8 * ty

@[inherit_doc entryCode] def entryOf (w : Nat) : EntryKind :=
  match w % 256 with
  | 0 => .store
  | 1 => .reduce (bitsOf w 15 8) (bitsOf w 23 16) (abit w 24 == 1)
  | 2 => .scale (bitsOf w 15 8) (bitsOf w 31 16)
  | _ => .tileAdd (bitsOf w 15 8)

def entryBytes (e : Entry) : List Byte :=
  toBytes 8 (128 * e.line) ++ toBytes 8 (entryCode e.kind) ++ toBytes 16 (sumOf 128 fun k => b2n (e.mask.getD k false) * 2 ^ k)
    ++ e.data
/-- A share entry of the area. -/
def entryBack (rd : ImageReader) (e : Entry) : Entry :=
  { e with
    line := rd 0 8 / 128, kind := entryOf (rd 8 8), mask := (List.range 128).map fun k => abit (rd (16 + k / 8) 1) (k % 8) == 1
    data := (List.range 128).map fun k => BitVec.ofNat 8 (rd (32 + k) 1) }

/-- A cause in 24 bytes with its valid bit. -/
def causeWord (c : Option Cause) : List Byte :=
  match c with
  | some c => toBytes 4 (1 + 2 ^ 8 * c.code + 2 ^ 16 * c.kind) ++ toBytes 4 c.info ++ toBytes 8 c.lanes.toNat ++ toBytes 8 c.addr.toNat
  | none => zeroBytes 24
def causeWordBack (rd : ImageReader) : Option Cause :=
  if rd 0 1 = 1 then some ⟨rd 1 1, rd 4 4, rd 2 1, BitVec.ofNat 32 (rd 8 8), BitVec.ofNat 64 (rd 0x10 8)⟩ else none

/-- The control words of an operation and the sizes of its captured words that its record holds (R391 gives 256 B): of ATTN not the rows of
its table, of a sparse quarter operation not its metadata (log entry 50). -/
def ctlCount : EngKind → Nat
  | .mma => 7 | .load | .drain | .drainAdd => 2 | .attn => 1 | .attnf | .heapclr => 3 | .zero => 0
@[inherit_doc ctlCount] def wordSizes : EngKind → List Nat
  | .mma => [32, 32] | .load | .drain | .drainAdd => [8, 8] | .attn => List.replicate 32 4 ++ [32] | _ => []
/-- Where a captured word of a kind stands in the record. -/
def wordOff (k : EngKind) (n : Nat) : Nat := 0x50 + 8 * ctlCount k + ((wordSizes k).take n).sum
/-- The last 176 bytes of a record: control words, captured words, and the first row of a HEAPCLR. -/
def engWords (o : EngOp) : List Byte :=
  let b := ((List.range (ctlCount o.kind)).flatMap fun k => toBytes 8 (o.ctl.getD k 0))
    ++ (((wordSizes o.kind).zipIdx).flatMap fun x => toBytes x.1 (o.words.getD x.2 0))
    ++ (if o.kind = .heapclr then toBytes 8 (match o.rows with | r :: _ => 32 * r.1 + r.2 | [] => 0) else [])
  b ++ zeroBytes (176 - b.length)

/-- The record of an engine operation, 256 B. -/
def engBytes (o : EngOp) : List Byte :=
  toBytes 4 (engCode o.kind + 2 ^ 8 * b2n o.started + 2 ^ 9 * b2n o.cancelled + 2 ^ 16 * o.flags.toNat) ++ toBytes 4 o.grp
    ++ toBytes 8 o.prog ++ toBytes 8 o.addr ++ toBytes 8 o.pc.toNat ++ toBytes 8 o.root.toNat
    ++ toBytes 8 (sumOf 64 fun k => b2n (o.tiles.contains k) * 2 ^ k) ++ causeWord o.fault
    ++ toBytes 8 (match o.takenBy with | some k => k + 32 | none => 0)
    ++ engWords o
def engBack (rd : ImageReader) (o : EngOp) : EngOp :=
  let w := rd 0 4
  let k := rd 0x48 8
  { o with
    started := abit w 8 == 1, cancelled := o.cancelled || abit w 9 == 1, flags := BitVec.ofNat 6 (w / 2 ^ 16), grp := rd 4 4, prog := rd 8 8
    addr := rd 0x10 8, pc := BitVec.ofNat 64 (rd 0x18 8), root := BitVec.ofNat 64 (rd 0x20 8), fault := causeWordBack fun x n => rd (0x30 + x) n
    takenBy := if 32 ≤ k then some (k % 32) else none
    tiles := if (List.range 64).all fun k => (abit (rd (0x28 + k / 8) 1) (k % 8) == 1) == o.tiles.contains k then o.tiles
      else (List.range 64).filter fun k => abit (rd (0x28 + k / 8) 1) (k % 8) == 1
    ctl := (List.range o.ctl.length).map fun n => if n < ctlCount o.kind then rd (0x50 + 8 * n) 8 else o.ctl.getD n 0
    words := (List.range o.words.length).map fun n => match (wordSizes o.kind)[n]? with
      | some z => rd (wordOff o.kind n) z
      | none => o.words.getD n 0 }

/-- The record of a copy or gather operation, 256 B. -/
def copyBytes (o : CopyOp) : List Byte :=
  toBytes 4 (8 + 2 ^ 8 * b2n o.started + 2 ^ 9 * b2n o.cancelled + 2 ^ 10 * b2n o.gather + 2 ^ 11 * b2n o.waiting + 2 ^ 12 * b2n o.held
      + 2 ^ 13 * b2n o.outOfRange) ++ toBytes 4 o.grp
    ++ toBytes 8 o.prog ++ toBytes 8 o.pc.toNat ++ toBytes 8 o.root.toNat ++ causeWord o.fault
    ++ toBytes 8 (match o.takenBy with | some k => k + 32 | none => 0)
    ++ (o.desc ++ zeroBytes 128).take 128 ++ zeroBytes 64
def copyBack (rd : ImageReader) (o : CopyOp) : CopyOp :=
  let w := rd 0 4
  let k := rd 0x38 8
  { o with
    started := abit w 8 == 1, cancelled := o.cancelled || abit w 9 == 1, gather := abit w 10 == 1, waiting := abit w 11 == 1
    held := abit w 12 == 1, outOfRange := abit w 13 == 1, grp := rd 4 4, prog := rd 8 8
    pc := BitVec.ofNat 64 (rd 0x10 8), root := BitVec.ofNat 64 (rd 0x18 8), fault := causeWordBack fun x n => rd (0x20 + x) n
    takenBy := if 32 ≤ k then some (k % 32) else none
    desc := (List.range o.desc.length).map fun k => BitVec.ofNat 8 (rd (0x40 + k) 1) }

/-- Where the parts of a team record begin: groups, banks, accumulator banks, share, engine records, end; `n` copies follow the engine
operations. -/
def teamParts (t : Team) (n : Nat) : List Nat :=
  let g := 0x2000
  let b := t.groups.foldl (fun r x => r + groupSize x) g
  let a := b + 65536 * t.banks.length
  let e := a + 16384 * t.accN
  let o := e + 160 * t.tk.share.length
  [g, b, a, e, o, o + 256 * (t.eops.length + n)]
/-- Team records begin at multiples of 256. -/
def teamSize (x : Parked) : Nat := ((teamParts x.team x.copies.length).getD 5 0 + 255) / 256 * 256

/-- Offsets of a team's group blocks. -/
def groupOffs (t : Team) : List Nat :=
  (List.range t.groups.length).map fun k => (t.groups.take k).foldl (fun r x => r + groupSize x) 0x2000

/-- A team's hardware queues: 32 B each; their entries stand in their bank. -/
def hqBytes (qs : List HwQueue) (n : Nat) : List Byte :=
  match qs.find? fun q => q.num == n with
  | some q => toBytes 4 (1 + 2 ^ 8 * q.bank) ++ toBytes 4 q.cap ++ toBytes 4 q.entries.length ++ toBytes 4 q.allow ++ zeroBytes 16
  | none => zeroBytes 32

/-- Where a queue's entries begin in its bank: behind those of the queues of lower number (log entry 50). -/
def hqBase (qs : List HwQueue) (q : HwQueue) : Nat :=
  4 * ((qs.filter fun x => x.bank == q.bank && decide (x.num < q.num)).map (·.cap)).sum
/-- The bytes of a bank: in FIFO mode its queues' entries. -/
def bankBytes (qs : List HwQueue) (k : Nat) (b : Bank) : List Byte :=
  let mine := qs.filter fun q => q.bank == k
  (List.range 65536).map fun i =>
    if b.mode == .fifo then
      match mine.find? fun q => decide (hqBase qs q ≤ i) && decide (i < hqBase qs q + 4 * q.entries.length) with
      | some q => BitVec.ofNat 8 (byteOf (q.entries.getD ((i - hqBase qs q) / 4) 0).toNat ((i - hqBase qs q) % 4))
      | none => 0
    else BitVec.ofNat 8 (sparseGet b.bytes i)
/-- A hardware queue of the area; `bank` reads the bytes of the banks. -/
def hqBack (rd : ImageReader) (bank : ImageReader) (q : HwQueue) : HwQueue :=
  let o := 0x1500 + 32 * q.num
  let off := 65536 * q.bank
  { q with
    allow := rd (o + 12) 4
    entries := (List.range (rd (o + 8) 4)).map fun i => BitVec.ofNat 32 (bank (off + 4 * i) 4) }

/-- The team record (R391); `grid` is the index of its grid record. -/
def teamChunks (gr : Grid) (grid : Nat) (x : Parked) : List Chunk :=
  let t := x.team
  let r := t.regs
  let ps := teamParts t x.copies.length
  let part (k : Nat) : Nat := ps.getD k 0
  let frames (k lv : Nat) : List Byte :=
    ((x.frames.find? fun f => f.1 == k && f.2.1 == lv).map (·.2.2)).getD (zeroBytes 32768)
  let die (b : Nat) : Bar := keyBarOf gr.dieBars (logicalDie gr t.ref.lin) b
  let inst (b : Nat) : Bar := keyBarOf gr.instBars (instOf gr t.ref.lin) b
  let own (k : Nat) : Nat := r.owner.getD k 0 + (match r.xfer.getD k none with
    | some (g, b) => 2 ^ 5 + 2 ^ 6 * g + 2 ^ 11 * b
    | none => 0)
  let st := t.stream
  [(0, toBytes 4 t.ref.lin ++ toBytes 4 grid ++ toBytes 4 t.groups.length
      ++ toBytes 4 (ticketCode (ticketState gr t) + 8 * b2n t.tk.abortMark + 16 * b2n t.lastFlag)),
   (0x100, r.sregs.flatMap fun v => toBytes 8 v.toNat),
   (0x300, (List.range 64).flatMap fun k => toBytes 2 (own k)),
   (0x380, r.maps.flatMap fun v => toBytes 32 v.toNat),
   (0x580, r.bars.flatMap barBytes),
   (0x600, r.bars.flatMap fun b => maskBytes t.ref.lin b),
   (0xe00, ((List.range 4).flatMap fun b => maskBytes t.ref.lin (die b)) ++ ((List.range 4).flatMap fun b => maskBytes t.ref.lin (inst b))
      ++ (List.range 4).flatMap fun b => maskBytes t.ref.lin (keyBarOf gr.gridBars 0 b)),
   (0x1400, if t.ref.lin % lrInst gr.lr = 0 then (List.range 4).flatMap fun b => barBytes (inst b) else zeroBytes 32),
   (0x1420, toBytes 4 r.bartmo.toNat ++ toBytes 4 r.mstat.toNat),
   (0x1440, toBytes 8 st.ctl ++ toBytes 8 st.base ++ ((List.range 8).flatMap fun k => toBytes 8 (wrap 64 (st.stride.getD k 0)))
      ++ ((List.range 8).flatMap fun k => toBytes 4 (st.count.getD k 0)) ++ zeroBytes 16
      ++ toBytes 8 st.elem ++ toBytes 8 (streamCode st.st) ++ toBytes 4 (match st.fault with | some f => f.1 | none => 0)
      ++ toBytes 4 (match st.fault with | some f => f.2.1 | none => 0) ++ toBytes 8 (match st.fault with | some f => f.2.2 | none => 0)
      ++ zeroBytes 32),
   (0x1500, (List.range 16).flatMap fun n => hqBytes x.hqs n),
   (0x1700, [t.groups.length, t.banks.length, t.accN, t.tk.share.length, t.eops.length + x.copies.length].flatMap (fun n => toBytes 4 n)
      ++ ((ps.take 5).flatMap fun o => toBytes 4 o)
      ++ toBytes 8 (sumOf t.banks.length fun k => ((t.banks[k]?).map fun b => bankCode b.mode).getD 0 * 4 ^ k) ++ zeroBytes 16),
   (0x1740, toBytes 4 (b2n t.pruned + 2 * b2n t.cancelled) ++ ((List.range 32).flatMap fun k => toBytes 4 (t.stream.part.getD k 0))
      ++ toBytes 4 t.stream.part.length)]
  ++ (((t.groups.zip (groupOffs t)).zipIdx).flatMap fun y => atOff y.1.2 (groupChunks (frames y.2) y.1.1))
  ++ ((t.banks.zipIdx).map fun y => (part 1 + 65536 * y.2, bankBytes x.hqs y.2 y.1))
  ++ ((List.range t.accN).map fun k =>
      (part 2 + 16384 * k, (List.range 4096).flatMap fun i => toBytes 4 (sparseGet t.acc (4096 * k + i))))
  ++ ((t.tk.share.zipIdx).map fun y => (part 3 + 160 * y.2, entryBytes y.1))
  ++ (((t.eops.map engBytes ++ x.copies.map copyBytes).zipIdx).map fun y => (part 4 + 256 * y.2, y.1))

/-- A sparse array of `n` values read from the area. -/
def sparseBack (n : Nat) (f : Nat → Nat) : Sparse :=
  (List.range n).filterMap fun k => if f k = 0 then none else some (k, f k)

/-- A barrier with its phase, elapsed time and the arrivals of its members. -/
def barBack (rd : ImageReader) (o : Nat) (arrived : List Nat) (b : Bar) : Bar :=
  { b with phase := rd o 4 % 2 == 1, since := if arrived.isEmpty then none else some (rd (o + 4) 4), arrived := arrived }
/-- The thread numbers of an arrival mask. -/
def maskBack (rd : ImageReader) (o lin : Nat) : List Nat :=
  ((List.range 1024).filter fun n => abit (rd (o + n / 8) 1) (n % 8) == 1).map fun n => 1024 * lin + n
/-- Arrivals in the order in which the device counted them, where they are the same. -/
def sameArrivals (old new : List Nat) : List Nat := if (old.all new.contains) && new.all old.contains then old else new

/-- The stream of a team (R214 to R216). -/
def streamBack (rd : ImageReader) (x : Stream) : Stream :=
  { x with
    ctl := rd 0x1440 8, base := rd 0x1448 8
    stride := (List.range x.stride.length).map fun k => if k < 8 then signed 64 (rd (0x1450 + 8 * k) 8) else x.stride.getD k 0
    count := (List.range x.count.length).map fun k => if k < 8 then rd (0x1490 + 4 * k) 4 else x.count.getD k 0
    elem := rd 0x14c0 8, st := streamOf (rd 0x14c8 8), part := (List.range (min 32 (rd 0x17c4 4))).map fun k => rd (0x1744 + 4 * k) 4
    fault := if rd 0x14d0 4 = 0 then none else some (rd 0x14d0 4, rd 0x14d4 4, rd 0x14d8 8) }

/-- A team with what the area's bytes say of it. -/
def teamBack (rd : ImageReader) (x : Parked) : Parked :=
  let t := x.team
  let ps := teamParts t x.copies.length
  let part (k : Nat) : ImageReader := fun o n => rd (ps.getD k 0 + o) n
  let w := rd 0xc 4
  let modes := rd 0x1728 8
  let own (k : Nat) : Nat := rd (0x300 + 2 * k) 2
  let n := t.eops.length
  let t' : Team := { t with
    regs := { t.regs with
      sregs := (List.range 64).map fun k => BitVec.ofNat 64 (rd (0x100 + 8 * k) 8)
      owner := (List.range 64).map fun k => own k % 32
      xfer := (List.range 64).map fun k => if abit (own k) 5 = 1 then some (bitsOf (own k) 10 6, bitsOf (own k) 15 11) else none
      maps := (List.range 16).map fun k => BitVec.ofNat 256 (rd (0x380 + 32 * k) 32)
      bars := (t.regs.bars.zipIdx).map fun y =>
        barBack rd (0x580 + 8 * y.2) (sameArrivals y.1.arrived (maskBack rd (0x600 + 128 * y.2) t.ref.lin)) y.1
      bartmo := BitVec.ofNat 32 (rd 0x1420 4), mstat := BitVec.ofNat 6 (rd 0x1424 4) }
    groups := (t.groups.zip (groupOffs t)).map fun y => groupBack (fun o n => rd (y.2 + o) n) y.1
    banks := (t.banks.zipIdx).map fun y =>
      let m := bankOf (modes / 4 ^ y.2 % 4)
      ⟨m, if m == .spad then sparseBack 65536 fun k => part 1 (65536 * y.2 + k) 1 else []⟩
    acc := sparseBack (4096 * t.accN) fun k => part 2 (4 * k) 4
    stream := streamBack rd t.stream
    eops := (t.eops.zipIdx).map fun y => engBack (fun o k => part 4 (256 * y.2 + o) k) y.1
    tk := { t.tk with
      retired := match w % 8 with | 4 => .committed | 5 => .aborted | _ => .none
      closed := decide (2 ≤ w % 8)
      abortMark := abit w 3 == 1
      share := (t.tk.share.zipIdx).map fun y => entryBack (fun o k => part 3 (160 * y.2 + o) k) y.1 }
    lastFlag := abit w 4 == 1
    pruned := t.pruned || abit (rd 0x1740 4) 0 == 1, cancelled := t.cancelled || abit (rd 0x1740 4) 1 == 1 }
  { x with
    team := t'
    copies := (x.copies.zipIdx).map fun y => copyBack (fun o k => part 4 (256 * (n + y.2) + o) k) y.1
    hqs := x.hqs.map fun q => hqBack rd (fun o k => part 1 (hqBase x.hqs q + o) k) q
    frames := x.frames.map fun f =>
      (f.1, f.2.1, (List.range 32768).map fun k =>
        BitVec.ofNat 8 (rd ((groupOffs t).getD f.1 0 + 0x9000 + 0x8000 * (f.2.1 - 1) + k) 1)) }

/-! Grid and graph-run records. -/

/-- The head of sequence `k` of a grid (R311): its lowest ticket that has not retired. -/
def seqHead (g : Grid) (k : Nat) : Nat :=
  ((List.range g.teams).find? fun l => (!(lrTdie g.lr) && k == 0 || lrTdie g.lr && logicalDie g l == k) && !(g.retired.contains l)).getD 0

def gridChunks (runs : List GraphRun) (g : Grid) : List Chunk :=
  let link : Nat := match g.link.run with
    | some (r, n) => ((runs.findIdx? fun x => x.id == r).getD 0xffff) + 2 ^ 16 * n
    | none => 0xffff
  [(0, g.lr),
   (0x80, toBytes 4 g.nextL ++ toBytes 4 g.finish ++ toBytes 4 link ++ toBytes 4 g.dflags),
   (0x90, (List.range 8).flatMap fun k => toBytes 4 (seqHead g k)),
   (0xb0, g.ds.flatMap fun v => toBytes 4 v.toNat),
   (0xf0, ((List.range 8).flatMap fun d => (List.range 4).flatMap fun b => barBytes (keyBarOf g.dieBars d b))
      ++ (List.range 4).flatMap fun b => barBytes (keyBarOf g.gridBars 0 b)),
   (0x210, zeroBytes 496)]
/-- A grid with what the area's bytes say of it. Tickets below the head of their sequence have retired (R311). -/
def gridBack (rd : ImageReader) (g : Grid) : Grid :=
  let heads := (List.range 8).map fun k => rd (0x90 + 4 * k) 4
  let seq (l : Nat) : Nat := if lrTdie g.lr then logicalDie g l else 0
  { g with
    lr := (List.range 128).map fun k => BitVec.ofNat 8 (rd k 1)
    nextL := rd 0x80 4, finish := rd 0x84 4, dflags := rd 0x8c 4
    ds := (List.range 16).map fun k => BitVec.ofNat 12 (rd (0xb0 + 4 * k) 4)
    retired := if (List.range 8).all fun k => heads.getD k 0 == seqHead g k then g.retired
      else (List.range g.teams).filter fun l => decide (l < heads.getD (seq l) 0) }

/-- The barriers of a grid (R273, R283, R379) with the arrivals that the team records hold; `teams` gives each team with its reader. -/
def gridBarsBack (rd : ImageReader) (teams : List (Nat × ImageReader)) (g : Grid) : Grid :=
  let arrived (o : Nat) (p : Nat → Bool) : List Nat := (teams.filter fun x => p x.1).flatMap fun x => maskBack x.2 o x.1
  let back (l : List KeyBar) (f : KeyBar → List Nat) (at' : KeyBar → ImageReader × Nat) : List KeyBar :=
    l.map fun (k : KeyBar) => { k with bar := barBack (at' k).1 (at' k).2 (sameArrivals k.bar.arrived (f k)) k.bar }
  let pos0 (k : Nat) : ImageReader := ((teams.find? fun x => x.1 == lrInst g.lr * k).map (·.2)).getD fun _ _ => 0
  { g with
    dieBars := back g.dieBars (fun k => arrived (0xe00 + 128 * k.num) fun l => logicalDie g l == k.key) fun k => (rd, 0xf0 + 32 * k.key + 8 * k.num)
    instBars := back g.instBars (fun k => arrived (0x1000 + 128 * k.num) fun l => instOf g l == k.key) fun k => (pos0 k.key, 0x1400 + 8 * k.num)
    gridBars := back g.gridBars (fun k => arrived (0x1200 + 128 * k.num) fun _ => true) fun k => (rd, 0x1f0 + 8 * k.num) }

def nodeBits (x : GraphRun) (f : RunNode → Bool) : List Byte :=
  toBytes 512 ((x.sts.zipIdx).foldl (fun r y => r + b2n (f y.1) * 2 ^ y.2) 0)

/-- The nodes whose grid or copy has started (R391). -/
def hasGridOrCopy (b : List Byte) : Bool := gnKind b == gnKernel || gnKind b == gnCopy
def startedBits (x : GraphRun) : List Byte :=
  toBytes 512 (((x.sts.zip x.nodes).zipIdx).foldl (fun r y => r + b2n (y.1.1.started && hasGridOrCopy y.1.2) * 2 ^ y.2) 0)

def runChunks (copies : List CopyOp) (x : GraphRun) : List Chunk :=
  let cs : List (Nat × CopyOp) := (List.range x.nodes.length).filterMap fun n =>
    (copies.find? fun o => o.run == some (x.id, n)).map fun o => (n, o)
  let rows (o : CopyOp) : Nat := max 1 (dNat o.desc 0x1c 4)
  [(0, toBytes 4 x.graph ++ toBytes 4 x.queue ++ toBytes 8 x.cmpl ++ toBytes 4 (b2n x.irq) ++ toBytes 4 x.nodes.length
      ++ toBytes 4 cs.length ++ zeroBytes 36),
   (0x40, nodeBits x fun n => n.taken), (0x240, nodeBits x fun n => n.active), (0x440, startedBits x),
   (0x640, cs.flatMap fun y => toBytes 4 y.1 ++ toBytes 4 (y.2.prog / rows y.2) ++ toBytes 4 (y.2.prog % rows y.2) ++ zeroBytes 4),
   (0x1000, x.sts.flatMap fun n => toBytes 2 n.counter)]

/-- The progress of a run's copies, by the node. -/
def runCopyBack (rd : ImageReader) (o : CopyOp) : CopyOp :=
  let rows := max 1 (dNat o.desc 0x1c 4)
  match o.run with
  | some (_, n) => match (List.range (rd 0x18 4)).find? fun k => rd (0x640 + 16 * k) 2 == n with
    | some k => { o with prog := rd (0x644 + 16 * k) 4 * rows + rd (0x648 + 16 * k) 4 }
    | none => o
  | none => o

/-- A graph run with what the area's bytes say of it. -/
def runBack (rd : ImageReader) (x : GraphRun) : GraphRun :=
  let bit (o n : Nat) : Bool := abit (rd (o + n / 8) 1) (n % 8) == 1
  { x with
    graph := rd 0 4, queue := rd 4 4, cmpl := rd 8 8, irq := rd 0x10 4 % 2 == 1
    sts := (x.sts.zipIdx).map fun y =>
      { taken := bit 0x40 y.2, active := bit 0x240 y.2
        started := if hasGridOrCopy (x.nodes.getD y.2 []) then bit 0x440 y.2 else y.1.started
        counter := rd (0x1000 + 2 * y.2) 2 % 2 ^ 13 } }

/-! The area. -/

/-- The places of an area: grid records, graph-run records, team offset table, side-log entries, then the team records. -/
structure AreaPlan where
  grids : Nat
  runs : Nat
  table : Nat
  slog : Nat
  teams : List Nat
  size : Nat
  deriving DecidableEq, Repr

/-- The side-log entries of a context, with the index of their team. -/
def ctxSlog (c : SavedCtx) : List (Nat × SlogEntry) :=
  ((c.teams.zipIdx).flatMap fun x => x.1.slog.map fun e => (x.2, e)) ++ c.slog.map fun e => (2 ^ 64 - 1, e)

def areaPlan (c : SavedCtx) : AreaPlan :=
  let runs := 0x1000 + 1024 * c.grids.length
  let table := runs + 12288 * c.runs.length
  let slog := table + 8 * c.teams.length
  let first := (slog + 1032 * (ctxSlog c).length + 255) / 256 * 256
  let offs := (List.range c.teams.length).map fun k => (c.teams.take k).foldl (fun r x => r + teamSize x) first
  ⟨0x1000, runs, table, slog, offs, c.teams.foldl (fun r x => r + teamSize x) first⟩

/-- The bytes of an area. -/
def areaChunks (c : SavedCtx) : List Chunk :=
  let p := areaPlan c
  let log := ctxSlog c
  let copies := c.copies
  [(0, toBytes 4 0x58435459 ++ toBytes 4 1 ++ toBytes 4 c.grids.length ++ toBytes 4 c.teams.length ++ toBytes 4 log.length
      ++ zeroBytes 4 ++ toBytes 8 p.size ++ toBytes 8 p.grids ++ toBytes 8 p.table ++ toBytes 8 p.slog
      ++ toBytes 4 c.runs.length ++ zeroBytes 4 ++ toBytes 8 p.runs)]
  ++ ((c.grids.zipIdx).flatMap fun x => atOff (p.grids + 1024 * x.2) (gridChunks c.runs x.1))
  ++ ((c.runs.zipIdx).flatMap fun x => atOff (p.runs + 12288 * x.2) (runChunks copies x.1))
  ++ [(p.table, p.teams.flatMap fun o => toBytes 8 o),
      (p.slog, log.flatMap fun x => toBytes 8 x.1 ++ recordBytes x.2.acc)]
  ++ ((c.teams.zip p.teams).flatMap fun x =>
      let k := (c.grids.findIdx? fun g => g.id == x.1.team.ref.grid).getD 0
      atOff x.2 (teamChunks (c.grids.getD k (ghostGrid 0 0)) k x.1))

/-- The places of an area agree with a context (R390): its header, its tables, the shape of its grids, and the counts of its team
records. -/
def areaValid (rd : ImageReader) (c : SavedCtx) : Bool :=
  let p := areaPlan c
  rd 0 4 == 0x58435459 && rd 4 4 == 1 && rd 8 4 == c.grids.length && rd 0xc 4 == c.teams.length
    && rd 0x10 4 == (ctxSlog c).length && rd 0x18 8 == p.size && rd 0x20 8 == p.grids && rd 0x28 8 == p.table && rd 0x30 8 == p.slog
    && rd 0x38 4 == c.runs.length && rd 0x40 8 == p.runs
    && ((p.teams.zipIdx).all fun x => rd (p.table + 8 * x.2) 8 == x.1)
    && ((c.grids.zipIdx).all fun x => rd (p.grids + 1024 * x.2 + 0x10) 12 == dNat x.1.lr 0x10 12)
    && (c.teams.zip p.teams).all fun x =>
      let r := x.1.team
      rd x.2 4 == r.ref.lin && rd (x.2 + 4) 4 == (c.grids.findIdx? fun g => g.id == r.ref.grid).getD 0 && rd (x.2 + 8) 4 == r.groups.length
        && ([r.groups.length, r.banks.length, r.accN, r.tk.share.length, r.eops.length + x.1.copies.length].zipIdx).all fun y =>
          rd (x.2 + 0x1700 + 4 * y.2) 4 == y.1

/-- A side-log entry of the area (R391). -/
def slogBack (rd : ImageReader) (e : SlogEntry) : SlogEntry :=
  { e with acc := (recordAccess (fun o n => rd (o - 0x1000) n) 0 e.acc).getD { e.acc with lanes := 0 } }

/-- A context with what the area's bytes say of it. -/
def areaBack (rd : ImageReader) (c : SavedCtx) : SavedCtx :=
  let p := areaPlan c
  let from' (o : Nat) : ImageReader := fun x n => rd (o + x) n
  let entry (k : Nat) : ImageReader := from' (p.slog + 1032 * k + 8)
  let before (k : Nat) : Nat := ((c.teams.take k).map fun x => x.slog.length).sum
  { c with
    grids := (c.grids.zipIdx).map fun x =>
      let ts := (c.teams.zip p.teams).filter fun y => y.1.team.ref.grid == x.1.id
      gridBarsBack (from' (p.grids + 1024 * x.2)) (ts.map fun y => (y.1.team.ref.lin, from' y.2)) (gridBack (from' (p.grids + 1024 * x.2)) x.1)
    runs := (c.runs.zipIdx).map fun x => runBack (from' (p.runs + 12288 * x.2)) x.1
    copies := c.copies.map fun (o : CopyOp) => match o.run.bind fun r => c.runs.findIdx? fun x => x.id == r.1 with
      | some k => runCopyBack (from' (p.runs + 12288 * k)) o
      | none => o
    slog := (c.slog.zipIdx).map fun x => slogBack (entry (before c.teams.length + x.2)) x.1
    teams := ((c.teams.zip p.teams).zipIdx).map fun x =>
      let t := teamBack (from' x.1.2) x.1.1
      { t with slog := (t.slog.zipIdx).map fun y => slogBack (entry (before x.2 + y.2)) y.1 } }

end Sys2Proof.Machine
end

