-- ==== Sys2Proof/Machine/AreaRead.lean ====
section
/-! DEFINITION. A context taken from a save area alone (R390, R391): of an area that the package has not written itself, the parts that the bytes do not give are as at a start (log entry 50). -/

namespace Sys2Proof.Machine

/-- The access of record `k` of an image; `tok` numbers the first record's, `tid` gives the threads of the lanes, `born` orders the records.
A LNCH.LAST of a team that has counted itself, while the finish count is 0, is the one that brought it there (R381). Whether it was issued in
a serial region is not known: it keeps its order as one that was (R186). -/
def plainAccess (rd : ImageReader) (tid : Nat → Nat) (counted : Bool) (tok born k : Nat) : Access :=
  let o := 0x1000 + 0x400 * k
  let w := rd o 8
  let opc := bitsOf w 7 0
  let lanes := BitVec.ofNat 32 (rd (o + 8) 4)
  let low := (lowLane lanes).getD 0
  let datum (l : Nat) : LaneVal := BitVec.ofNat 128 (rd (o + 0x110 + 16 * l) 16)
  let timed : Bool := (opc == 0xbb || opc == 0x8c) && bitsOf w 11 8 == Timed.sub .timed
  { opc := opc, sub := bitsOf w 11 8, mod := bitsOf w 22 12, lanes := lanes, dst := BitVec.ofNat 13 (rd (o + 12) 4)
    addr := Lanes.mk fun l => BitVec.ofNat 64 (rd (o + 0x10 + 8 * l) 8)
    data := if isWaitOp opc then Lanes.all (datum ((low + 1) % 32)) else Lanes.mk datum
    all := lanes, pc := 0, slot2 := false, tok := tok + k, fault := none, stage := if opc = 0x8c then 1 else if opc = 0xeb && bitsOf w 11 8 == 1 && counted then 5 else 0
    wait := ⟨if timed then some (datum low).toNat else none, 0⟩, born := born + k, wasDead := false, owed := 0, thr := Lanes.mk tid
    ser := true, narrow := false }

/-- The accesses of an image's records, up to the first that is not valid. -/
def plainQueue (rd : ImageReader) (tid : Nat → Nat) (counted : Bool) (tok born : Nat) : List Access :=
  ((List.range 16).takeWhile fun k => abit (rd (0x1000 + 0x400 * k) 8) 23 == 1).map (plainAccess rd tid counted tok born)

/-- The access among some that a Cuff slot awaits, by its destination. -/
def cuffSource (l : List Access) (k : Nat) : Option Nat :=
  (l.reverse.find? fun a => (accDst a).cw && (accDst a).cslot.toNat == k).map (·.tok)
/-- The access that ly awaits: the last with a result. -/
def latchSource (l : List Access) : Option Nat := (l.reverse.find? fun a => returnsData a).map (·.tok)

/-- The barrier at which a parked thread of an image waits: the lowest one of the team's record whose arrivals count it (R391). -/
def parkGuess (team : ImageReader) (tid : Nat) : Option Park :=
  let hit (o n : Nat) : Option Nat := (List.range n).find? fun b => abit (team (o + 128 * b + tid % 1024 / 8) 1) (tid % 8) == 1
  match hit 0x600 16, hit 0xe00 4, hit 0x1000 4, hit 0x1200 4 with
  | some b, _, _, _ => some (.team b false)
  | none, _, some b, _ => some (.cluster b false)
  | none, some b, none, _ => some (.die b false)
  | none, none, none, some b => some (.grid b false)
  | none, none, none, none => none

/-- A trap level of a group from its frame, with the accesses of all levels, its own last. -/
def plainTrap (team rd : ImageReader) (tid : Nat → Nat) (held all : List Access) : SavedTrap :=
  { outer := ⟨0, 0, 0, 0, 0, 0⟩, wasWaiting := held.any fun a => isWaitOp a.opc
    parks := Lanes.mk fun l => (if markOf (rd 0x140 8 / 4 ^ l % 4) = .parked then parkGuess team (tid l) else none, false)
    cuffAwait := (List.range 8).map (cuffSource all), brimAwait := [none, latchSource all], kept := [], held := held
    pcs := Lanes.mk fun l => BitVec.ofNat 64 (rd (0x40 + 8 * l) 8), lands := 0 }

/-- A group of a group block, to be filled by `groupBack`: its counts of registers, levels and records. -/
def plainGroup (team rd : ImageReader) (counted : Bool) (k regs : Nat) : Group :=
  let tid (l : Nat) : Nat := rd (0x8090 + 2 * l) 2
  let level (j : Nat) : ImageReader := fun o n => rd (0x9000 + 0x8000 * j + o) n
  let n := if statusOf (rd 0x8000 4 % 4) == .handler then min 2 (bitsOf (rd 0 8) 7 6) else 0
  let held (j : Nat) : List Access := plainQueue (level j) tid counted (32 * (j + 1)) (16 * j)
  let q := plainQueue rd tid counted 0 (16 * n)
  let upto (j : Nat) : List Access := (List.range j).flatMap held
  let all := upto n ++ q
  let reloads (l : Nat) : Bool := all.any fun a => a.opc == 0x65 && a.lanes.getLsbD l
  let f := rd 0x80fc 4
  let g := startGroup k 0 regs 0 0
  { g with
    regs := (List.range regs).map fun r => ⟨regOf (rd (0x8010 + r / 4) 1 / 4 ^ (r % 4) % 4), zeroWords⟩
    threads := Lanes.mk fun l =>
      let d := min 8 (rd (0x8100 + 72 * l) 8)
      { noThread with stack := if reloads l && d != 0 then List.replicate (d - 1) (some 0) ++ [none] else List.replicate d (some 0) }
    cuffs := g.cuffs.mapFinIdx fun i (c : CuffSlot) _ => { c with await := cuffSource all i }
    ly := { g.ly with await := latchSource all }
    queue := q, tok := 128
    saved := (List.range n).map fun j => plainTrap team (level (n - 1 - j)) tid (held (n - 1 - j)) (upto (n - j))
    watch := if abit f 0 = 1 then some ⟨0, 0, homeSlice (f / 8) (rd 0x80f4 8), false, false⟩ else none }

/-- The kind of an engine record. -/
def kindOf : Nat → EngKind
  | 0 => .mma | 1 => .zero | 2 => .load | 3 => .drain | 4 => .drainAdd | 5 => .attn | 6 => .attnf | _ => .heapclr

/-- An engine operation of a record, by its place among its team's; it was issued after the accesses of its group (R304). -/
def plainEng (rd : ImageReader) (k : Nat) : EngOp :=
  let kind := kindOf (rd 0 1)
  let o : EngOp :=
    { id := 8 * (64 + k), grp := 0, kind := kind, tiles := [], rows := [], ctl := List.replicate (ctlCount kind) 0
      words := List.replicate (wordSizes kind).length 0, addr := 0, started := false, prog := 0, fault := none, takenBy := none, flags := 0
      cancelled := false, pc := 0, born := 64 + k, root := 0 }
  let x := (engBack rd o).xc
  let at' := rd (0x50 + 8 * ctlCount kind) 8
  { o with rows := match kind with
      | .heapclr => (List.range (rd 0x58 8 % 128)).map fun n => ((at' + n) / 32, (at' + n) % 32)
      | .load | .drain | .drainAdd => if x.heap then (List.range 32).map x.heapRow else []
      | _ => [] }

/-- A copy operation of a record. -/
def plainCopy (rd : ImageReader) (born : Nat) (t : TeamRef) : CopyOp :=
  { id := 4096 * born, team := t, grp := 0, core := 0, gather := abit (rd 0 4) 10 == 1, desc := zeroBytes 128, started := false, prog := 0, off := 0
    fault := none, takenBy := none, waiting := false, follows := false, held := false, cancelled := false, outOfRange := false, run := none, pc := 0
    born := born, root := 0 }

/-- Group blocks one after another: the groups. -/
def plainGroups (rd : ImageReader) (counted : Bool) (n regs : Nat) : List Group :=
  ((List.range n).foldl (fun (r : Nat × List Group) k =>
    let g := plainGroup rd (fun o n => rd (r.1 + o) n) counted k regs
    (r.1 + groupSize g, r.2 ++ [g])) (0x2000, [])).2

/-- The hardware queues of a team record; the pops that wait are those of its groups, in their order. -/
def plainQueues (rd : ImageReader) (t : Team) : List HwQueue :=
  (List.range 16).filterMap fun n =>
    let w := rd (0x1500 + 32 * n) 4
    if abit w 0 = 0 then none
    else some ⟨n, t.ref, bitsOf w 15 8, rd (0x1504 + 32 * n) 4, [], 0, (t.groups.zipIdx).flatMap fun g =>
      ((g.1.queue ++ g.1.saved.flatMap fun x => x.held).filter fun a => a.opc == 0xbe && a.mod % 16 == n).map fun a => (t.ref, g.2, a.tok)⟩

/-- A team of a team record, to be filled by `teamBack`. -/
def plainTeam (rd : ImageReader) (g : Grid) (index : Nat) : Parked :=
  let count (k : Nat) : Nat := rd (0x1700 + 4 * k) 4
  let t0 := startTeam g (rd 0 4) 0 0 [] 0
  let t : Team := { t0 with
    groups := plainGroups rd (abit (rd 0xc 4) 4 == 1 && g.finish == 0) (count 0) (lrRegs g.lr)
    banks := List.replicate (count 1) ⟨.spad, []⟩, accN := count 2
    stream := { t0.stream with stride := List.replicate 8 0, count := List.replicate 8 0 }
    tk := { t0.tk with share := List.replicate (count 3) ⟨0, .store, [], [], 0, false, false, none, []⟩ } }
  let base := (teamParts t 0).getD 4 0
  let isCopy (k : Nat) : Bool := rd (base + 256 * k) 1 == 8
  let n := ((List.range (count 4)).takeWhile fun k => !(isCopy k)).length
  { team := { t with eops := (List.range n).map fun k => plainEng (fun o n => rd (base + 256 * k + o) n) k }
    slog := [], copies := (List.range (count 4 - n)).map fun k => plainCopy (fun o m => rd (base + 256 * (n + k) + o) m) (2 ^ 20 + 4096 * index + k) t.ref
    hqs := plainQueues rd t
    frames := (t.groups.zipIdx).flatMap fun x => (List.range x.1.saved.length).map fun k => (x.2, k + 1, []) }

/-- The row table of an attention operation, which its record does not hold, from the team's banks (R246); a quarter operation's issue, which
the identity of its pass names (R231). -/
def withRows (t : Team) (o : EngOp) : EngOp :=
  if o.kind = .attn ∧ o.words.length ≤ 33 ∧ o.ctl.headD 0 = maskCode .tree then
    { o with words := o.words ++ (rowTable t o.atd .tree).flatMap fun r => [r.1, r.2] }
  else if o.kind = .mma then { o with id := 8 * (o.ctl.getD 6 0 / 8) + o.ctl.headD 0 % 8, born := o.ctl.getD 6 0 / 8 }
  else o

/-- A grid of a grid record; `lins` are the linear indices of its team records and `runs` the first run's number. -/
def plainGrid (s : State) (p runs : Nat) (rd : ImageReader) (k : Nat) (lins : List Nat) : Grid :=
  let lr : List Byte := (List.range 128).map fun i => BitVec.ofNat 8 (rd i 1)
  let link := rd 0x88 4
  let run := if link % 65536 = 0xffff then none else some (runs + link % 65536, link / 65536)
  let g := startGrid k p 0 (2 ^ 32) 0 run lr ((readOuts s p lr).getD []) s.mem (lrTeams lr) s.clk
  let next := rd 0x80 4
  let ends (d : Nat) : Nat := (lins.filter fun l => logicalDie g l == d).foldl (fun m l => max m (l + 1)) (max (dieFirst lr g.teams d) (rd (0x90 + 4 * d) 4))
  let dieNext := if lrTdie lr then (List.range (lrNdie lr)).map ends else []
  let placed (l : Nat) : Bool := if lrTdie lr then decide (l < dieNext.getD (logicalDie g l) 0) else decide (l < next)
  let upto := if lrTdie lr then dieNext.foldl max 0 else min next g.teams
  { g with
    finish := rd 0x84 4, dieNext := dieNext, released := (List.range upto).filter fun l => placed l && !(lins.contains l)
    dieBars := (List.range 8).flatMap fun d => (List.range 4).map fun b => ⟨d, b, Bar.atStart⟩
    gridBars := (List.range 4).map fun b => ⟨0, b, Bar.atStart⟩
    instBars := ((lins.filter fun l => l % lrInst lr == 0).map (instOf g)).flatMap fun i => (List.range 4).map fun b => ⟨i, b, Bar.atStart⟩ }

/-- A graph run of a run record (R382, R391): its nodes are those of its graph. -/
def plainRun (s : State) (p : Nat) (rd : ImageReader) (id : Nat) : Option GraphRun :=
  match graphNodes s p (rd 0 4 % 64) with
  | none => none
  | some ns => some
      { id := id, graph := 0, queue := 0, slot := 2 ^ 32, cmpl := 0, irq := false, nodes := ns
        sts := ns.map fun _ => ⟨0, false, false, false⟩, startClk := s.clk, teams := 0, code := s.mem }

/-- The copies of a run's started COPY nodes. -/
def plainRunCopies (s : State) (p : Nat) (rd : ImageReader) (x : GraphRun) : List CopyOp :=
  (List.range (min 156 (rd 0x18 4))).filterMap fun k =>
    let n := rd (0x640 + 16 * k) 2
    (nodeCopy s p x.id n (x.nodes.getD n [])).map fun o => { o with id := 4096 * x.id + n, born := x.id }

/-- A launch record that a grid can have been started from (R375, R376). -/
def lrSound (b : List Byte) : Bool := !(lrBadForm b) && !(lrBadSize b) && lrTeams b != 0 && decide (lrTeams b < 2 ^ 32)

/-- A context from an area alone; none where its header, its counts or a record do not allow one. A side-log entry's record names its
team alone: its group is the team's first (DESIGN CHOICE, log entry 139). -/
def plainCtx (s : State) (p : Nat) (rd : ImageReader) : Option SavedCtx :=
  let ng := rd 8 4
  let nt := rd 0xc 4
  let nl := rd 0x10 4
  let nr := rd 0x38 4
  let size := rd 0x18 8
  let from' (o : Nat) : ImageReader := fun x n => rd (o + x) n
  let gridAt' (k : Nat) : ImageReader := from' (rd 0x20 8 + 1024 * k)
  let runAt' (k : Nat) : ImageReader := from' (rd 0x40 8 + 12288 * k)
  let teamAt' (k : Nat) : ImageReader := from' (rd (rd 0x28 8 + 8 * k) 8)
  if rd 0 4 ≠ 0x58435459 ∨ rd 4 4 ≠ 1 ∨ 2 ^ 40 < size ∨ size < 1024 * ng + 0x2000 * nt + 1032 * nl + 12288 * nr then none
  else
    let teams := (List.range nt).map fun k => (k, teamAt' k)
    let lins (g : Nat) : List Nat := (teams.filter fun x => x.2 4 4 == g).map fun x => x.2 0 4
    let grids := (List.range ng).map fun k => plainGrid s p ng (gridAt' k) k (lins k)
    let runs := (List.range nr).filterMap fun k => plainRun s p (runAt' k) (ng + k)
    let sound : Bool := runs.length == nr && (grids.all fun g => lrSound g.lr)
      && teams.all fun x => match grids[x.2 4 4]? with
        | some g => decide (x.2 0 4 < g.teams) && x.2 0x1700 4 == lrGroups g.lr && x.2 0x1704 4 == lrSpad g.lr && decide (x.2 0x1708 4 ≤ 16)
            && decide (x.2 0x170c 4 ≤ shareSize g.lr) && decide (x.2 0x1710 4 ≤ 4096)
        | none => false
    if !sound then none
    else
      let owners := (List.range nl).map fun k => rd (rd 0x30 8 + 1032 * k) 8
      let entry (k n : Nat) (t : TeamRef) : SlogEntry :=
        ⟨t, 0, if n = 1 then 0 else t.lin % n, 0, plainAccess (fun o n => rd (rd 0x30 8 + 1032 * k + 8 + (o - 0x1000)) n) id false 0 0 0, [], k⟩
      let parked := teams.map fun x =>
        let g := grids.getD (x.2 4 4) (ghostGrid 0 p)
        let y := plainTeam x.2 g x.1
        { y with slog := ((owners.zipIdx).filter fun z => z.1 == x.1).map fun z => entry z.2 (lrInst g.lr) y.team.ref }
      some
        { live := false, pa := 0, size := size, part := p, grids := grids, teams := parked, runs := runs
          slog := ((owners.zipIdx).filter fun z => decide (nt ≤ z.1)).map fun z => entry z.2 1 ⟨2 ^ 64, 0⟩
          slogFull := [], copies := (runs.zipIdx).flatMap fun x => plainRunCopies s p (runAt' x.2) x.1 }

/-- The context as the area gives it, with what only its banks hold. -/
def plainArea (s : State) (p : Nat) (rd : ImageReader) : Option SavedCtx :=
  (plainCtx s p rd).map fun c =>
    let c := areaBack rd c
    { c with teams := c.teams.map fun (x : Parked) => { x with team := { x.team with eops := x.team.eops.map (withRows x.team) } } }

/-- The area is one of a context: every byte of it is that of the context read from it (R390). -/
def areaWhole (rd : ImageReader) (c : SavedCtx) : Bool := (areaChunks c).all fun x => (x.2.zipIdx).all fun y => rd (x.1 + y.2) 1 == y.1.toNat

/-- A sparse quarter operation, whose metadata a record does not hold. -/
def hasSparse (c : SavedCtx) : Bool := c.teams.any fun x => x.team.eops.any fun o => o.kind == .mma && o.ctl.getD 2 0 == 1

end Sys2Proof.Machine
end

