-- ==== Sys2Proof/Machine/Context.lean ====
section
/-! DEFINITION. Partitions and cluster maps (R367, R368), placement of teams (R253, R277, R279, R372), and pre-emption: SAVE, RESTORE
and KILL (R388 to R390). -/

namespace Sys2Proof.Machine

/-! Cluster maps. -/

/-- The cores of a map entry. -/
def entryCores (e : Nat) : List Nat := clusterCores (mapCluster 0 0 e)
/-- The checks of R367 on a map: reason 3, or 4, or none. -/
def mapReason (s : State) (m : List Nat) : Option Nat :=
  let valid := (m.zipIdx).filter fun x => abit x.1 0 == 1
  let badEntry (x : Nat × Nat) : Bool :=
    let h := bitsOf x.1 12 10 + 1
    let w := bitsOf x.1 15 13 + 1
    decide (384 ≤ x.2) || !(shapeAdmitted h w) || decide (6 < bitsOf x.1 6 4 + h) || decide (8 < bitsOf x.1 9 7 + w)
  let share : Bool := valid.any fun x => valid.any fun y =>
    decide (x.2 < y.2) && (entryCores x.1).any fun c => (entryCores y.1).contains c
  if (m.any fun e => decide (2 ^ 20 ≤ e)) || valid.any badEntry || share then some 3
  else if valid.any fun x => (entryCores x.1).any fun c => !(coreEnabled s c) then some 4
  else none

/-- The valid entries of a partition. -/
def mapOfPart (m : List Nat) (p : Nat) : List Nat := m.filter fun e => abit e 0 == 1 && bitsOf e 19 16 == p
/-- The partitions whose set of clusters differs between two maps (R368). -/
def changing (old new : List Nat) : List Nat :=
  (List.range 16).filter fun p =>
    let a := mapOfPart old p
    let b := mapOfPart new p
    !((a.all fun e => b.contains e) && b.all fun e => a.contains e)

/-- A partition runs a grid, holds a team, or is being saved or restored (R368, R390). -/
def partBusy (s : State) (p : Nat) : Bool :=
  (s.grids.any fun g => g.part == p) || (s.teams.any fun t => t.part == p) || (s.parked.any fun t => t.team.part == p)
    || (partOf s p).life == .restoring || (partOf s p).killing || (s.pkg.ctxBusy && s.pkg.ctxPart == p)

/-- Bring a map into force, or refuse it (R367, R368). A COPY node in progress in a changing partition starts again in its new clusters
(log entry 120). -/
def applyMap (s : State) (m : List Nat) (reason : Option Nat) : State :=
  let ch := changing s.pkg.map m
  let why := match reason with
    | some k => some k
    | none => if ch.any fun p => partBusy s p then some 2 else none
  match why with
  | some k => { s with pkg := { s.pkg with partErr := true, partReason := k } }
  | none =>
    let old := s.clusters.filter fun c => ch.contains c.ref.part
    let cores := old.flatMap clusterCores
    let s := l1Drop s fun l => cores.contains l.core
    let fresh := (mapClusters m).filter fun c => ch.contains c.ref.part
    let redone (p : Nat) (x : GraphRun) : GraphRun := { x with
      sts := (x.sts.zipIdx).map fun y =>
        if old.any fun c => c.ref.part == p && c.copies.any fun o => o.run == some (x.id, y.2) then { y.1 with started := false } else y.1 }
    let s := { s with
      clusters := (s.clusters.filter fun c => !(ch.contains c.ref.part)) ++ fresh
      pkg := { s.pkg with map := m, partErr := false, partReason := 0 } }
    ch.foldl (fun s p => updPart s p fun x => { x with clock0 := s.clk, life := .running, runs := x.runs.map (redone p) }) s

/-- The map at CLMAP.ADDR. -/
def readMap (s : State) : List Nat := (List.range 512).map fun k => rdHomeN s (s.pkg.clmap + 8 * k) 8

/-- A write of PARTCTL (R367): an operation ends within the write, so that it is never found busy (log entry 53). -/
def partctlWrite (s : State) (v : Nat) : State :=
  let p := v % 16
  let s := { s with pkg := { s.pkg with partPart := p } }
  match bitsOf v 5 4 with
  | 0 => s
  | 1 => let m := readMap s
    applyMap s m (mapReason s m)
  | 2 => applyMap s (s.pkg.map.map fun e => if abit e 0 == 1 && bitsOf e 19 16 == p then 0 else e) none
  | _ => applyMap s s.pkg.map (some 3)

/-- PARTCTL_APPLY (R367). -/
def execPartctlApply (part : Nat) (addr : DWord) (s : State) : Out :=
  event s (decide (part < 16)) fun s =>
    partctlWrite { s with pkg := { s.pkg with clmap := bitsOf addr.toNat 51 12 * 4096 } } (part + 16)
/-- PARTCTL_CLEAR (R367). -/
def execPartctlClear (part : Nat) (s : State) : Out :=
  event s (decide (part < 16)) fun s => partctlWrite s (part + 32)

/-! Placement. -/

/-- Where a share of `cap` entries begins on a core: the lowest run of whole shares that is free (R316; log entry 100). -/
def freeShare (s : State) (core cap : Nat) : Option Nat :=
  let used (k : Nat) : Bool := s.teams.any fun t => t.core == core && decide (t.tk.first ≤ k) && decide (k < t.tk.first + t.tk.cap / 32)
  (List.range (17 - cap / 32)).find? fun f => (List.range (cap / 32)).all fun k => !(used (f + k))

/-- Room of R190 on a core for a team of a record that holds `acc` accumulator banks and a share of `cap` entries; the registers of a
DONE group are free (R222). -/
def coreFits (s : State) (core : Nat) (b : List Byte) (acc cap : Nat) : Bool :=
  let ts := s.teams.filter fun t => t.core == core
  let sum (f : Team → Nat) : Nat := ts.foldl (fun n t => n + f t) 0
  let regs (t : Team) : Nat := t.groups.foldl (fun n g => if g.status == .done then n else n + g.regs.length) 0
  let uni (t : Team) : Nat := match gridAt s t.ref.grid with | some g => lrUni g.lr | none => 0
  decide (ts.length < 16) && decide (sum (fun t => t.groups.length) + lrGroups b ≤ 64)
    && decide (sum regs + lrRegs b * lrGroups b ≤ 4096) && decide (sum uni + lrUni b ≤ 1024)
    && decide (sum (fun t => t.banks.length) + lrSpad b ≤ 16) && decide (sum (fun t => t.accN) + acc ≤ 16)
    && (freeShare s core cap).isSome

/-- The lowest free team slot and `n` lowest free group slots of a core. -/
def freeSlots (s : State) (core n : Nat) : Nat × List Nat :=
  let ts := s.teams.filter fun t => t.core == core
  ((((List.range 16).find? fun k => !(ts.any fun t => t.slot == k)).getD 0),
    ((List.range 64).filter fun k => !(ts.any fun t => t.groups.any fun g => g.gslot == k)).take n)

/-- The sequences in which the teams of a grid are placed, each with its next linear index and the one behind its last (R279, R286,
R312). -/
def placeSeqs (g : Grid) : List (Nat × Nat) :=
  if lrTdie g.lr then (g.dieNext.zipIdx).map fun x => (x.1, dieFirst g.lr g.teams (x.2 + 1)) else [(g.nextL, g.teams)]

/-- The linear indices placed next in each sequence of a grid: restored teams before new ones, an instance together (R253, R390). -/
def unitsOf (s : State) (g : Grid) : List (List Nat) :=
  let n := lrInst g.lr
  let ps := (s.parked.filter fun x => x.team.ref.grid == g.id).map fun x => x.team.ref.lin
  ((placeSeqs g).zipIdx).filterMap fun x =>
    match ps.filter fun l => !(lrTdie g.lr) || logicalDie g l == x.2 with
    | l :: rest =>
      let m := rest.foldl min l
      some (if n = 1 then [m] else ps.filter fun k => k / n == m / n)
    | [] => if x.1.1 < x.1.2 ∧ (partOf s g.part).life = .running then some ((List.range n).map fun k => x.1.1 + k) else none

/-- The cores of a unit whose placement names a core: that core, or the positions of its cluster (R253). -/
def unitCores (s : State) (g : Grid) (ls : List Nat) (core : Nat) : Option (List (Nat × Nat)) :=
  match clusterOfCore s core with
  | none => none
  | some c =>
    let n := lrInst g.lr
    if c.ref.part ≠ g.part then none
    else if n = 1 then some (ls.map fun l => (l, core))
    else if c.h = lrH g.lr ∧ c.w = lrW g.lr then some (ls.map fun l => (l, (clusterCores c).getD (l % n) 0)) else none

/-- The physical die may take the unit's logical die (R277). -/
def dieFits (s : State) (g : Grid) (lin core : Nat) : Bool :=
  lrNdie g.lr == 0 || (match g.dmap.find? fun x => x.1 == logicalDie g lin with
    | some x => x.2 == core / 48
    | none => decide ((partDies s g.part).length < lrNdie g.lr) || !(g.dmap.any fun x => x.2 == core / 48))

def parkedOf (s : State) (grid lin : Nat) : Option Parked :=
  s.parked.find? fun x => x.team.ref.grid == grid && x.team.ref.lin == lin

/-- A unit of a grid fits at a core (R279). -/
def unitFits (s : State) (g : Grid) (core : Nat) (ls : List Nat) : Bool :=
  match unitCores s g ls core with
  | none => false
  | some l => !l.isEmpty && dieFits s g (ls.headD 0) core && l.all fun x =>
      coreEnabled s x.2 && classAdmits s g.lr x.2
        && (match parkedOf s g.id x.1 with
          | some p => coreFits s x.2 g.lr p.team.accN p.team.tk.cap
          | none => coreFits s x.2 g.lr (lrAcc g.lr) (shareSize g.lr))

/-- The unit of a grid that a core takes next. -/
def unitAt (s : State) (g : Grid) (core : Nat) : Option (List Nat) := (unitsOf s g).find? (unitFits s g core)

/-- A grid that is placed before another (R372): higher priority, then earlier start. -/
def placedBefore (a b : Grid) : Bool := a.part == b.part && (decide (b.prio < a.prio) || (a.prio == b.prio && decide (a.order < b.order)))

def canTeamPlacement (s : State) (grid core : Nat) : Bool :=
  match gridAt s grid with
  | some g => (partOf s g.part).life != .halted && !(s.grids.any fun x => placedBefore x g && !((unitsOf s x).isEmpty))
      && (unitAt s g core).isSome
  | none => false

/-- The saved clk counts of a group start again (R206, R209, R390), and a selection point follows (R168); an armed MWAIT ends SPURIOUS
and a watch is interrupted. -/
def thawGroup (clk gslot : Nat) (g : Group) : Group :=
  let wake (a : Access) : Access := if a.opc == 0x8c && a.stage == 1 then { a with stage := 4 } else a
  { g with
    gslot := gslot, issues := 0, yielded := false, sel := true, chosen := false, lines := []
    queue := g.queue.map fun a => wake (thawWait clk a)
    saved := g.saved.map fun x => { x with held := x.held.map wake }
    joins := g.joins.map fun j => { j with since := clk - j.since }
    barts := g.barts.map fun x => { x with since := clk }
    watch := g.watch.map fun w => { w with interrupted := true } }

/-- A barrier's elapsed count while it is saved, and back. -/
def freezeBar (clk : Nat) (b : Bar) : Bar := { b with since := b.since.map fun n => clk - n }

/-- Insert an element behind those whose key is not greater. -/
def insertKey {α : Type} (key : α → Nat) (x : α) : List α → List α
  | [] => [x]
  | y :: l => if key x < key y then x :: y :: l else y :: insertKey key x l
/-- Merge elements into a list in the order of a key. -/
def mergeBy {α : Type} (key : α → Nat) (l m : List α) : List α := m.foldl (fun r x => insertKey key x r) l

/-- TFRAME of a group whose frames stand at a core (R220): of the present level in `cause`, of the outer ones in the saved registers. -/
def reframe (s : State) (part core : Nat) (g : Group) : Group :=
  let at' (lv : Nat) : DWord := BitVec.ofNat 64 (frameAddr s part core g.gslot lv)
  match g.saved with
  | [] => g
  | [_] => { g with cause := { g.cause with tframe := at' 1 } }
  | x :: rest => { g with cause := { g.cause with tframe := at' 2 }, saved := { x with outer := { x.outer with tframe := at' 1 } } :: rest }

/-- A restored team takes its place (R390): its frames are written at the core's addresses, and what went with it enters the core's
cluster in the order of its issue (R260, R268). -/
def restoreTeam (s : State) (y : Parked) (core slot : Nat) (gslots : List Nat) : State :=
  let x := recheckOps s y.team.part y
  let t := x.team
  let groups := (t.groups.zipIdx).map fun y => reframe s t.part core (thawGroup s.clk (gslots.getD y.2 0) y.1)
  let t' : Team := { t with core := core, slot := slot, groups := groups
                            tk := { t.tk with first := (freeShare s core t.tk.cap).getD 0 }
                            regs := { t.regs with bars := t.regs.bars.map (freezeBar s.clk) } }
  let t' := if !t.cancelled && ((gridAt s t.ref.grid).any fun g => branchStale s g) then cancelTeam t' else t'
  let s := { s with
    parked := s.parked.filter fun y => y.team.ref != t.ref
    teams := s.teams ++ [t'] }
  let s := noteOcc s core
  let s := x.frames.foldl (fun s f =>
    match frameWrite s t.part core (frameAddr s t.part core (gslots.getD f.1 0) f.2.1) f.2.2 with
    | some s => s
    | none => mcheck s t.part) s
  let s := match clusterOfCore s core with
    | some c => updCluster s c.ref fun c =>
        { c with
          slog := mergeBy (fun e => e.ins) c.slog (x.slog.map fun e => { e with core := core })
          copies := mergeBy (fun o => o.born) c.copies (x.copies.map fun (o : CopyOp) => { o with core := core })
          hqs := c.hqs ++ x.hqs }
    | none => s
  let s := fabSettle s t.ref
  (t'.groups.zipIdx).foldl (fun s y => (y.1.queue.filter fun a => isWaitOp a.opc).foldl (fun s a =>
    if a.opc == 0x8c && a.stage == 4 then updGroup s ⟨t.ref, y.2⟩ fun g => endWait g a.tok (spuriousStatus (a.wait.left == some 0)) else resumeWait s ⟨t.ref, y.2⟩ a) s) s

/-- The grid once team `lin` is placed: with ticket scope DIE `nextL` is the lowest linear index that is not placed. -/
def nextPlaced (lin : Nat) (g : Grid) : Grid :=
  if lrTdie g.lr then
    let ns := g.dieNext.set (logicalDie g lin) (lin + 1)
    let left := (ns.zipIdx).find? fun x => decide (x.1 < dieFirst g.lr g.teams (x.2 + 1))
    { g with dieNext := ns, nextL := (left.map (·.1)).getD g.teams }
  else { g with nextL := lin + 1 }

/-- Place one team of a grid on a core: a restored one, or a new one (R191, R360). -/
def placeTeam (s : State) (grid lin core : Nat) : State :=
  match gridAt s grid with
  | none => s
  | some g =>
    let x := freeSlots s core (lrGroups g.lr)
    match parkedOf s grid lin with
    | some p => restoreTeam s p core x.1 x.2
    | none =>
      let t := startTeam g lin core x.1 x.2 ((freeShare s core (shareSize g.lr)).getD 0)
      let t := if branchStale s g then cancelTeam t else t
      updGrid { s with teams := s.teams ++ [t] } grid (nextPlaced lin)

/-- TEAM_PLACEMENT (R253, R279). -/
def execTeamPlacement (grid core : Nat) (s : State) : Out :=
  event s (canTeamPlacement s grid core) fun s =>
    match gridAt s grid with
    | none => s
    | some g =>
      let ls := (unitAt s g core).getD []
      let ld := logicalDie g (ls.headD 0)
      let s := if lrNdie g.lr = 0 ∨ (g.dmap.any fun x => x.1 == ld) = true then s
        else updGrid s grid fun g => { g with dmap := (ld, core / 48) :: g.dmap }
      ((unitCores s g ls core).getD []).foldl (fun s x => placeTeam s grid x.1 x.2) s

/-- A cooperative grid is placed whole before any of its threads issues (R378). -/
def placedWhole (s : State) (g : Grid) : Bool :=
  !(lrCoop g.lr) || (decide (placedCount g = g.teams) && !(s.parked.any fun x => x.team.ref.grid == g.id))

/-! Saving. -/

/-- The clk counts of a group stand still; those of a timeout did already in a handler (R209). -/
def freezeGroup (clk : Nat) (g : Group) : Group :=
  let freeze (a : Access) : Access :=
    let x := freezeWait clk (causeOf 0) a
    if g.status == .handler then { x with wait := { x.wait with left := a.wait.left } } else x
  { g with
    csrw := false
    queue := g.queue.map freeze
    joins := g.joins.map fun j => { j with since := clk - j.since }
    barts := if g.status == .handler then g.barts
      else g.barts.map fun (x : Bart) => { x with left := x.left - (clk - x.since), since := clk } }

/-- A copy as it is saved: at a row boundary (R271). -/
def atRow (o : CopyOp) : CopyOp := { o with off := 0 }

/-- A resident team as it is saved, with what goes with it. -/
def parkTeam (s : State) (t : Team) : Parked :=
  let groups := t.groups.map (freezeGroup s.clk)
  { team := { t with groups := groups, regs := { t.regs with bars := t.regs.bars.map (freezeBar s.clk) } }
    slog := s.clusters.flatMap fun c => c.slog.filter fun e => e.team == t.ref
    copies := s.clusters.flatMap fun c => (c.copies.filter fun o => o.run.isNone && o.team == t.ref).map atRow
    hqs := s.clusters.flatMap fun c => c.hqs.filter fun q => q.home == t.ref
    frames := (t.groups.zipIdx).flatMap fun y =>
      (List.range y.1.saved.length).map fun k => (y.2, k + 1, frameOf s t y.1 (k + 1)) }

/-- Insert a team in ticket order. -/
def parkInsert (x : Parked) : List Parked → List Parked
  | [] => [x]
  | y :: l =>
    if x.team.ref.grid < y.team.ref.grid ∨ (x.team.ref.grid = y.team.ref.grid ∧ x.team.ref.lin < y.team.ref.lin) then x :: y :: l
    else y :: parkInsert x l

/-- The context of a partition: its grids, teams in ticket order, graph runs, and what belongs to no resident team. -/
def contextOf (s : State) (p pa : Nat) : SavedCtx :=
  let freeze (l : List KeyBar) : List KeyBar := l.map fun (k : KeyBar) => { k with bar := freezeBar s.clk k.bar }
  let mine := s.clusters.filter fun c => c.ref.part == p
  let gone (r : TeamRef) : Bool := (teamAt s r).isNone
  let live := (s.teams.filter fun t => t.part == p).map (parkTeam s)
  let teams := (live ++ s.parked.filter fun x => x.team.part == p).foldl (fun l x => parkInsert x l) []
  let c : SavedCtx :=
    { live := true, pa := pa, size := 0, part := p
      grids := (s.grids.filter fun g => g.part == p).map fun (g : Grid) =>
        { g with dieBars := freeze g.dieBars, gridBars := freeze g.gridBars, instBars := freeze g.instBars }
      teams := teams
      runs := (partOf s p).runs
      slog := mine.flatMap fun c => c.slog.filter fun e => gone e.team
      slogFull := mine.map (·.slogFull)
      copies := mine.flatMap fun c => (c.copies.filter fun o => o.run.isSome).map atRow }
  { c with size := (areaPlan c).size }

/-- Requests whose point has been reached are completed in the saved state (R389). -/
def completeOwed (s : State) (p : Nat) : State :=
  let mine (r : GroupRef) : Bool := match teamAt s r.team with | some t => t.part == p | none => false
  let ws := ((partOf s p).pools.flatMap (·.2.dying)).filterMap fun d => d.waiter
  let s := (ws.filter fun w => mine w.1).foldl (fun s w => owedResult s w.1 w.2.1 (w.2.2 % 32) (w.2.2 / 32)) s
  let free (d : Dying) : Dying := match d.waiter with
    | some w => if mine w.1 then { d with waiter := none } else d
    | none => d
  updPart s p fun y => { y with
    pools := y.pools.map fun x => (x.1, { x.2 with dying := x.2.dying.map free }), gone := y.gone.map fun x => (x.1, free x.2) }

/-- CTXCTL refuses an operation (R388). -/
def ctxRefuse (s : State) (reason : Nat) : State := { s with pkg := { s.pkg with ctxErr := true, ctxReason := reason } }
/-- CTXCTL accepts one; `busy` until it ends. -/
def ctxAccept (s : State) (busy : Bool) : State := { s with pkg := { s.pkg with ctxErr := false, ctxReason := 0, ctxBusy := busy } }

/-- The save area's address (R388). -/
def ctxVa (s : State) : Nat := canon57 s.pkg.ctxaddr

/-- The physical address of an area's first byte, where all of it can be accessed. -/
def areaPa (s : State) (p va size need : Nat) : Option Nat :=
  match engFault s p va size need, engXlate s p va need with
  | none, .ok pa _ _ => some pa
  | _, _ => none

/-- SAVE: the halt (R389). The partition stops at once; an area that cannot be written is malformed (log entry 54). -/
def ctxSave (s : State) (p : Nat) : State :=
  match areaPa s p (ctxVa s) (contextOf s p 0).size 2 with
  | none => ctxRefuse s 3
  | some _ => updPart (ctxAccept s true) p fun x => { x with life := .halted, saveAddr := ctxVa s }

/-- KILL: the halt, as SAVE makes it (R388). -/
def ctxKill (s : State) (p : Nat) : State := updPart (ctxAccept s true) p fun x => { x with life := .halted, killing := true }

/-- An access that an operation follows can still be performed. -/
def accessMoves (s : State) (t : Team) (o : EngOp) : Bool :=
  let r : GroupRef := ⟨t.ref, o.grp⟩
  (t.groups[o.grp]?).any fun g => (List.range g.queue.length).any fun k => haltRuns s r k && match tryAccess s r k false with
    | .done _ => true
    | _ => false

/-- The operations of a core's teams that cannot end while the partition halts: those held on a fault, those that wait for what is held
itself (an access of their group that cannot be performed, the side log, room in a share), and those behind them on their tiles, in their
slice, in the Gauntlet or among the core's transfers. -/
def stuckOps (s : State) (core : Nat) : List (TeamRef × EngOp) :=
  let host : Bool := (s.host.lines.any fun l => l.req.isSome) || !s.host.snooping.isEmpty
  let all := mergeBy (fun x => x.2.id) [] ((s.teams.filter fun t => t.core == core).flatMap fun t => t.eops.map fun o => (t, o))
  all.foldl (fun l x =>
    let t := x.1
    let o := x.2
    let behind : Bool := l.any fun y =>
      (y.1 == t.ref && opsMeet y.2 o) || (y.2.kind.isGauntlet && o.kind.isGauntlet)
        || (y.2.kind.isTransfer && o.kind.isTransfer && !o.started)
        || (y.2.kind == .mma && o.kind == .mma && y.2.started && !o.started && y.2.ctl.head? == o.ctl.head?)
    let held : Bool := o.fault.isSome && !o.cancelled
    let waits : Bool := opRuns s t o && !host && (match gridAt s t.ref.grid with
      | some gr => (match engRun s t gr o with | .wait => true | .full => true | _ => false)
      | none => true)
    if held || (!(opSettled t o) && !host && !(accessMoves s t o)) || waits || behind then l ++ [(t.ref, o)] else l) []

/-- Every engine operation of a partition has ended that can: they run to completion (R251, R389; log entry 66). -/
def opsHalted (s : State) (p : Nat) : Bool :=
  (s.teams.filter fun t => t.part == p).all fun t => t.eops.all fun o => (stuckOps s t.core).any fun y => y.1 == t.ref && y.2.id == o.id

/-- The halt of SAVE, KILL or MCHECK is complete: the engine operations have ended, and a fault that one of them meets is posted. -/
def haltedYet (s : State) (p : Nat) : Bool :=
  (partOf s p).life == .halted && ((partOf s p).killing || (s.pkg.ctxBusy && s.pkg.ctxPart == p)) && opsHalted s p

/-- Write chunks at a virtual address. -/
def writeChunks (s : State) (p va : Nat) (l : List Chunk) : State ⊕ Nat :=
  l.foldl (fun r x => match r with
    | .inl s => virtWrite s p ((va + x.1) % 2 ^ 64) x.2
    | .inr c => .inr c) (.inl s)

/-- SAVE: the writing at PACKAGE scope, after which every slot of the partition is free (R389). The partition stays halted until a
RESTORE (R409; log entry 65). An area that meets a fault meanwhile is malformed: the partition runs on, and the arrivals held for its
teams are applied. -/
def ctxWrite (s : State) (p : Nat) : State :=
  let cores := (partClusters s p).flatMap clusterCores
  let s := completeOwed s p
  let s := guestsAcked (l1Drop s fun l => cores.contains l.core)
  let va := (partOf s p).saveAddr
  let c := contextOf s p 0
  match areaPa s p va c.size 2, writeChunks s p va (areaChunks c) with
  | some pa, .inl s =>
    let s := guestsAcked s
    let mine (r : TeamRef) : Bool := match teamAt s r with | some t => t.part == p | none => false
    let t := ctxAccept s false
    { (updPart t p fun x => { x with runs := [] }) with
      saves := { c with pa := pa } :: s.saves.filter fun x => x.live || x.pa != pa
      grids := s.grids.filter fun g => g.part != p
      teams := s.teams.filter fun t => t.part != p
      parked := s.parked.filter fun t => t.team.part != p
      monitors := s.monitors.filter fun m => !(mine m.grp.team)
      clusters := s.clusters.map fun c =>
        if c.ref.part == p then { c with slog := [], slogFull := false, copies := [], hqs := [] } else c
      cur := none }
  | _, _ =>
    let s := updPart (ctxRefuse (ctxAccept s false) 3) p fun x => { x with life := .running }
    (s.teams.filter fun t => t.part == p).foldl (fun s t => fabSettle s t.ref) s

/-- The end of the halt: SAVE writes the area; KILL and MCHECK discard the context and complete every grid with KILLED (R99, R388, R389). -/
def ctxHalted (s : State) (p : Nat) : State := if (partOf s p).killing then killPartition s p else ctxWrite s p

/-! Restoring. -/

/-- The stamps of a context's operations. -/
def ctxStamps (c : SavedCtx) : List Nat :=
  let log (e : SlogEntry) : List Nat := [e.acc.born, e.ins]
  (c.teams.flatMap fun x =>
    (x.team.groups.flatMap fun g => (g.queue ++ g.side ++ g.saved.flatMap fun v => v.held).map (·.born))
      ++ x.team.eops.map (·.born) ++ x.team.tk.share.map (·.born) ++ x.copies.map (·.born) ++ x.slog.flatMap log)
    ++ c.slog.flatMap log ++ c.copies.map (·.born)

/-- A context whose operations get new stamps, in their order, that the `n`-th of the package's grids has not used (R268): what is issued
after the restore is later than each. -/
def restamp (n : Nat) (c : SavedCtx) : SavedCtx :=
  let l := ctxStamps c
  let at' (b : Nat) : Nat := n * 2 ^ 32 + 1 + l.countP fun x => decide (x < b)
  let name (k i : Nat) : Nat := k * at' (i / k) + i % k
  let acc (a : Access) : Access := { a with born := at' a.born }
  let log (e : SlogEntry) : SlogEntry := { e with acc := acc e.acc, ins := at' e.ins }
  let copy (o : CopyOp) : CopyOp := { o with id := name 4096 o.id, born := at' o.born }
  let eng (o : EngOp) : EngOp :=
    { o with id := name 8 o.id, born := at' o.born, ctl := if o.kind = .mma then o.ctl.take 6 ++ (o.ctl.drop 6).map (name 8) else o.ctl }
  let group (g : Group) : Group :=
    { g with queue := g.queue.map acc, side := g.side.map acc
             saved := g.saved.map fun (v : SavedTrap) => { v with held := v.held.map acc } }
  { c with
    teams := c.teams.map fun (x : Parked) =>
      { x with
        slog := x.slog.map log, copies := x.copies.map copy
        team := { x.team with
          groups := x.team.groups.map group, eops := x.team.eops.map eng
          tk := { x.team.tk with share := x.team.tk.share.map fun (e : Entry) => { e with born := at' e.born } } } }
    slog := c.slog.map log, copies := c.copies.map copy }

/-- A context whose grids and runs get new numbers, and no queue slots: an area that is restored again, or after a reset (log entry 50). -/
def freshCtx (n : Nat) (c : SavedCtx) : SavedCtx :=
  let c := restamp n c
  let olds := c.grids.map (·.id) ++ c.runs.map (·.id)
  let num (k : Nat) : Nat := match olds.findIdx? fun x => x == k with | some i => n + i | none => k
  let team (r : TeamRef) : TeamRef := { r with grid := num r.grid }
  let run (x : Option (Nat × Nat)) : Option (Nat × Nat) := x.map fun y => (num y.1, y.2)
  let copy (o : CopyOp) : CopyOp := { o with team := if o.run.isSome then { o.team with grid := num o.team.grid } else team o.team, run := run o.run }
  let log (e : SlogEntry) : SlogEntry := { e with team := team e.team }
  { c with
    grids := c.grids.map fun (g : Grid) => { g with id := num g.id, order := num g.id, link := { g.link with slot := 2 ^ 32, run := run g.link.run } }
    teams := c.teams.map fun (x : Parked) =>
      { x with
        team := { x.team with ref := team x.team.ref }, slog := x.slog.map log, copies := x.copies.map copy
        hqs := x.hqs.map fun (q : HwQueue) => { q with home := team q.home, waiters := q.waiters.map fun w => (team w.1, w.2) } }
    runs := c.runs.map fun (r : GraphRun) => { r with id := num r.id, slot := 2 ^ 32 }
    slog := c.slog.map log, copies := c.copies.map copy }

/-- The context that an area holds (R390): one that the package has saved whose places agree with the area's header, tables and counts,
before others one whose every byte agrees, then one that was written there; else the context that the area alone gives. Every byte of
the area must be that of its context (log entry 50). -/
def areaCtx (s : State) (p va : Nat) : Option SavedCtx :=
  let rd : ImageReader := fun o n => match virtRead s p ((va + o) % 2 ^ 64) n with | .inl b => ofBytes b | .inr _ => 0
  let same (c : SavedCtx) : Bool := (areaChunks c).all fun x => match virtRead s p ((va + x.1) % 2 ^ 64) x.2.length with
    | .inl b => b == x.2
    | .inr _ => false
  let fit := s.saves.filter fun c => (areaPa s p va c.size 1).isSome && areaValid rd c && (same c || areaWhole rd (areaBack rd c))
  let first : Option SavedCtx := match fit with
    | [c] => some c
    | _ => match fit.find? same with
      | some c => some c
      | none => match fit.find? fun c => areaPa s p va c.size 1 == some c.pa with
        | some c => some c
        | none => fit.head?
  match first with
  | some c => some (areaBack rd c)
  | none =>
    if (areaPa s p va 4096 1).isNone || (areaPa s p va (rd 0x18 8) 1).isNone then none
    else (plainArea s p rd).filter fun c => !(hasSparse c) && areaWhole rd c

/-- RESTORE (R390): checks, then grids, runs and the teams that wait for their cores. -/
def ctxRestore (s : State) (p : Nat) : State :=
  if partBusy s p then ctxRefuse s 2
  else match areaCtx s p (ctxVa s) with
    | none => ctxRefuse s 3
    | some c =>
      if c.grids.any fun g => lrCoop g.lr && decide (residency s p g.lr < g.teams) then ctxRefuse s 4
      else
        let b := if c.live then c else freshCtx s.nextGrid c
        let cores := (partClusters s p).flatMap clusterCores
        let thaw (l : List KeyBar) : List KeyBar := l.map fun (k : KeyBar) => { k with bar := freezeBar s.clk k.bar }
        let first := ((partClusters s p).head?).map (·.ref)
        let s := { s with
          saves := s.saves.map fun (x : SavedCtx) => if x.pa == c.pa && x.grids.map (·.id) == c.grids.map (·.id) && x.runs.map (·.id) == c.runs.map (·.id) then { x with live := false } else x
          nextGrid := s.nextGrid + b.grids.length + b.runs.length
          grids := s.grids ++ b.grids.map fun (g : Grid) =>
            { g with part := p, dmap := [], dieBars := thaw g.dieBars, gridBars := thaw g.gridBars, instBars := thaw g.instBars }
          parked := s.parked ++ b.teams.map fun (x : Parked) => { x with team := { x.team with part := p } }
          clusters := s.clusters.map fun k =>
            if k.ref.part != p then k
            else
              let k := { k with tlb := [], slogFull := b.slogFull.getD k.ref.idx false }
              if some k.ref == first then
                { k with
                  slog := b.slog.map fun (e : SlogEntry) => { e with core := (clusterCores k).headD 0 }
                  copies := b.copies }
              else k
          fabric := { s.fabric with ops := s.fabric.ops.map fun (o : FabricOp) =>
            if o.part == c.part && b.teams.any fun x => x.team.ref == o.grp.team then { o with part := p } else o } }
        updPart (ctxAccept s (!cores.isEmpty)) p fun x =>
          { x with runs := x.runs ++ b.runs, life := if cores.isEmpty then .running else .restoring, unreleased := cores, origin := c.part }

/-- A write of CTXCTL (R388). -/
def ctxctlWrite (s : State) (v : Nat) : State :=
  let p := v % 16
  let op := bitsOf v 5 4
  if op = 0 then { s with pkg := { s.pkg with ctxPart := if s.pkg.ctxBusy then s.pkg.ctxPart else p } }
  else if s.pkg.ctxBusy then ctxRefuse s 1
  else
    let s := { s with pkg := { s.pkg with ctxPart := p } }
    if op = 1 then ctxSave s p
    else if op = 2 then ctxRestore s p
    else ctxKill s p

/-- CTXADDR holds bits [56:16]. -/
def putCtxaddr (s : State) (v : Nat) : State := { s with pkg := { s.pkg with ctxaddr := bitsOf v 56 16 * 65536 } }

/-- CTXCTL_SAVE (R388, R389): CTXADDR, then CTXCTL with OP 1. -/
def execCtxctlSave (part : Nat) (addr : DWord) (s : State) : Out :=
  event s (decide (part < 16)) fun s => ctxctlWrite (putCtxaddr s addr.toNat) (part + 16)
/-- CTXCTL_RESTORE (R388, R390). -/
def execCtxctlRestore (part : Nat) (addr : DWord) (s : State) : Out :=
  event s (decide (part < 16)) fun s => ctxctlWrite (putCtxaddr s addr.toNat) (part + 32)
/-- CTXCTL_KILL (R388). -/
def execCtxctlKill (part : Nat) (s : State) : Out :=
  event s (decide (part < 16)) fun s => ctxctlWrite s (part + 48)

/-- CONTEXT_WRITE (R388, R389): also the end of a KILL (log entry 101). -/
def execContextWrite (part : Nat) (s : State) : Out := event s (haltedYet s part) fun s => ctxHalted s part

/-- A core can be released (R390): no restored team can be placed any more, and the requests completed by the save have ended. -/
def canRestoreCoreRelease (s : State) (p core : Nat) : Bool :=
  let x := partOf s p
  x.life == .restoring && x.unreleased.contains core
    && !((partClusters s p).any fun c => (clusterCores c).any fun k => s.grids.any fun g => g.part == p && canTeamPlacement s g.id k)
    && (partOf s x.origin).gone.isEmpty && (partOf s x.origin).pools.all fun y => y.2.dying.isEmpty
/-- RESTORE_CORE_RELEASE (R390): arrivals held since the core's teams were placed are applied (R409), and with the last core the operation
ends. -/
def execRestoreCoreRelease (part core : Nat) (s : State) : Out :=
  event s (canRestoreCoreRelease s part core) fun s =>
    let rest := (partOf s part).unreleased.filter fun k => k != core
    let s := updPart s part fun x => { x with unreleased := rest, life := if rest.isEmpty then .running else .restoring }
    let s := (s.teams.filter fun t => t.part == part && t.core == core).foldl (fun s t => fabSettle s t.ref) s
    if rest.isEmpty then ctxAccept s false else s

end Sys2Proof.Machine
end

