-- ==== Sys2Proof/Machine/Sha.lean ====
section
/-! DEFINITION. SHA-384 (R413 names it; its definition is that of FIPS 180-4): the digest of a list of bytes, over numbers modulo 2^64. -/

namespace Sys2Proof.Machine

/-- `n` is prime: nothing from 2 to 20 divides it but itself. Meant for `n` below 441. -/
def smallPrime (n : Nat) : Bool := decide (2 ≤ n) && (List.range 21).all fun d => decide (d < 2) || d == n || n % d != 0
/-- The first 64 bits of the fractional part of the `k`-th root of `n` below 512, bit by bit, for `k` 2 or 3. -/
def rootBits (k n : Nat) : Nat :=
  (List.range 69).foldl (fun x i => if (x + 2 ^ (68 - i)) ^ k ≤ n * 2 ^ (64 * k) then x + 2 ^ (68 - i) else x) 0 % 2 ^ 64
/-- The first eighty primes. -/
def shaPrimes : List Nat := (List.range 410).filter smallPrime
/-- The round constants: cube roots of the first eighty primes. -/
def shaK : List Nat := shaPrimes.map (rootBits 3)
/-- The initial hash value: square roots of the ninth to sixteenth primes. -/
def shaInit : List Nat := ((shaPrimes.drop 8).take 8).map (rootBits 2)

/-- A word rotated right by `n` places. -/
def rotr (x n : Nat) : Nat := x / 2 ^ n + x % 2 ^ n * 2 ^ (64 - n)
/-- Exclusive or of three words. -/
def xor3 (a b c : Nat) : Nat := (a ^^^ b) ^^^ c

/-- The next word of the message schedule; `l` holds the words so far, newest first. -/
def shaWord (l : List Nat) : Nat :=
  let x := l.getD 1 0
  let y := l.getD 14 0
  (xor3 (rotr x 19) (rotr x 61) (x / 2 ^ 6) + l.getD 6 0 + xor3 (rotr y 1) (rotr y 8) (y / 2 ^ 7) + l.getD 15 0) % 2 ^ 64

/-- The message schedule of a block of sixteen words. -/
def shaSchedule (w : List Nat) : List Nat := ((List.range 64).foldl (fun l _ => shaWord l :: l) w.reverse).reverse

/-- One round with a constant and a word of the schedule. -/
def shaRound (v : List Nat) (k : Nat × Nat) : List Nat :=
  match v with
  | [a, b, c, d, e, f, g, h] =>
    let t1 := h + xor3 (rotr e 14) (rotr e 18) (rotr e 41) + ((e &&& f) ^^^ ((2 ^ 64 - 1 - e) &&& g)) + k.1 + k.2
    let t2 := xor3 (rotr a 28) (rotr a 34) (rotr a 39) + xor3 (a &&& b) (a &&& c) (b &&& c)
    [(t1 + t2) % 2 ^ 64, a, b, c, (d + t1) % 2 ^ 64, e, f, g]
  | _ => v

/-- The hash value after a block. -/
def shaBlock (h w : List Nat) : List Nat :=
  (h.zip ((shaK.zip (shaSchedule w)).foldl shaRound h)).map fun x => (x.1 + x.2) % 2 ^ 64

/-- A word of eight bytes, highest first. -/
def wordOf (b : List Byte) : Nat := b.foldl (fun n x => n * 256 + x.toNat) 0

/-- The blocks of a padded message. -/
def shaBlocks : Nat → List Byte → List Nat → List Nat
  | 0, _, h => h
  | n + 1, b, h => shaBlocks n (b.drop 128) (shaBlock h ((List.range 16).map fun k => wordOf ((b.drop (8 * k)).take 8)))

/-- The padding of a message: a one bit, zeros, and its length in bits in 128 bits. -/
def shaPad (b : List Byte) : List Byte :=
  let zeros := (239 - b.length % 128) % 128
  b ++ [0x80] ++ List.replicate zeros 0 ++ (toBytes 16 (8 * b.length)).reverse

/-- The 48 bytes of the SHA-384 digest. -/
def sha384 (b : List Byte) : List Byte :=
  let p := shaPad b
  ((shaBlocks (p.length / 128) p shaInit).take 6).flatMap fun w => (toBytes 8 w).reverse

end Sys2Proof.Machine
end

