-- ==== Sys2Proof/Machine/Boot.lean ====
section
/-! DEFINITION. Boot, the firmware mailbox, attestation, errors, budgets, power, the L1's write-backs and the host's enqueue windows
(R289, R395, R398, R410 to R418). -/

namespace Sys2Proof.Machine

/-! Boot (R410). -/

/-- The checks of R410 on an image: none, or the error code of R411. -/
def imageError (s : State) (b : List Byte) : Option Nat :=
  if !(Config.signatureOk s.boot.keyDigest b) then some 3
  else if 64 < Config.imageSvn b ∨ Config.imageSvn b < s.boot.svn then some 4
  else none

/-- The state after a power-on or a reset of the module: everything as at reset but the fuses, the flash, the host's memory with what the
save areas in it hold (R391, log entry 50), what was told to the host, and the choices that are still to come. Where no image
passed its checks IDREV.FW is 0 (R412; DESIGN CHOICE, log entry 109). -/
def rebooted (s : State) : State :=
  let z := State.reset
  let bad : Bool := s.boot.flashCut || (imageError s s.boot.flash).isSome
  let svn := if !bad && Config.imageAdvance s.boot.flash then max s.boot.svn (Config.imageSvn s.boot.flash) else s.boot.svn
  let rev := s.pkg.idrev.toNat % 2 ^ 32 + 2 ^ 32 * (if bad then 0 else Config.imageRelease s.boot.flash % 2 ^ 32)
  { z with
    mem := s.mem.filter fun c => decide (hostPa 0 ≤ c.1)
    saves := s.saves.map fun (c : SavedCtx) => { c with live := false }
    agenda := s.agenda
    drawn := s.drawn
    pkg := { z.pkg with hmap := s.pkg.hmap, idrev := BitVec.ofNat 64 rev, idser := s.pkg.idser, iderr := s.pkg.iderr }
    host := { z.host with log := s.host.log }
    boot := { z.boot with recovery := bad, keyDigest := s.boot.keyDigest, svn := svn, flash := s.boot.flash, flashCut := s.boot.flashCut } }

/-- POWER_ON (R410). -/
def execPowerOn (s : State) : Out := if s.boot.powered then .next s else .next (rebooted s)

/-! The mailbox (R411). -/

/-- The end of a command (R398, R411). -/
def mboxEnd (s : State) (st : MboxState) (err : Nat) : State :=
  setMgstat { s with boot := { s.boot with mbst := st, mberr := err } } 3

/-- MBSTAT.PROGRESS (R411): the 64-KiB units that the last UPDATE has read and written so far. -/
def mbProgress (s : State) : Nat := (s.boot.mbread + 65535) / 65536 + (s.boot.mbwritten + 65535) / 65536

/-- The bytes of the image still to be read by a running update. -/
def mbLeft (s : State) : Nat := if s.boot.mbst == .busy && s.boot.mbfail == 0 then s.boot.mblen.toNat - s.boot.mbimage.length else 0

/-- Read the image from host memory as far as the host DMA budget goes (R411, R415). -/
def mboxRead (s : State) : State :=
  let n := match budgetRoom s 0 with | some r => min r (mbLeft s) | none => mbLeft s
  let a := s.boot.mbaddr.toNat + s.boot.mbimage.length
  let b := (List.range n).map fun k => rdHome s (hostPa (a + k))
  let s := charge s 0 n
  { s with boot := { s.boot with mbimage := s.boot.mbimage ++ b, mbread := s.boot.mbread + n } }

/-- UPDATE: BUSY, and the image is read from host memory. -/
def mboxUpdate (s : State) : State :=
  if s.boot.mbst == .busy then s
  else
    let a := s.boot.mbaddr.toNat
    let n := s.boot.mblen.toNat
    let fail := if n % 4096 ≠ 0 ∨ n = 0 ∨ 2 ^ 26 < n ∨ a % 4096 ≠ 0 then 1 else if 2 ^ 51 < a + n then 2 else 0
    mboxRead { s with boot := { s.boot with mbst := .busy, mberr := 0, mbfail := fail, mbimage := [], mbread := 0, mbwritten := 0 } }

def mboxAbort (s : State) : State :=
  if s.boot.mbst == .busy then mboxEnd { s with boot := { s.boot with mbimage := [] } } .idle 0 else s

/-- A write of MBCMD; RESET ends as POWER_ON does, with the clk counted from it. -/
def mbcmdWrite (s : State) (v : Nat) : Out :=
  match v % 256 with
  | 1 => next s (mboxUpdate s)
  | 2 => if s.boot.mbst == .busy then .next s else .next (setMgstat (rebooted s) 3)
  | 3 => next s (mboxAbort s)
  | _ => .next s

/-- MAILBOX_UPDATE (R411): the address and the length, then the command. -/
def execMailboxUpdate (addr len : Nat) (s : State) : Out :=
  mbcmdWrite { s with boot := { s.boot with mbaddr := BitVec.ofNat 64 addr, mblen := BitVec.ofNat 32 len } } 1

/-- The end of an update (R411): the checks of R410, then the flash write. -/
def updateEnd (s : State) : State :=
  let b := s.boot.mbimage
  let t := { s with boot := { s.boot with mbimage := [] } }
  if s.boot.mbfail ≠ 0 then mboxEnd t .error s.boot.mbfail
  else match imageError s b with
    | some e => mboxEnd t .error e
    | none =>
      if Config.flashOk b then mboxEnd { t with boot := { t.boot with flash := b, flashCut := false, mbwritten := b.length } } .done 0
      else mboxEnd { t with boot := { t.boot with mbwritten := min b.length (Config.flashedBytes b) } } .error 5
/-- MAILBOX_UPDATE_END (R411): once the image is read. -/
def execMailboxUpdateEnd (s : State) : Out := bootEvent s (s.boot.mbst == .busy && mbLeft s == 0) updateEnd
/-- MAILBOX_RESET (R411). -/
def execMailboxReset (s : State) : Out := mbcmdWrite s 2
/-- MAILBOX_ABORT (R411). -/
def execMailboxAbort (s : State) : Out := mbcmdWrite s 3

/-- POWER_LOSS (R411): a running update may have begun its flash write (log entry 40). -/
def execPowerLoss (s : State) : Out :=
  bootEvent s true fun s =>
    let cut : Bool := s.boot.mbst == .busy && s.boot.mbfail == 0 && mbLeft s == 0 && (imageError s s.boot.mbimage).isNone && Config.flashCut s.drawn
    { s with drawn := s.drawn + 1, boot := { s.boot with powered := false, flashCut := s.boot.flashCut || cut } }

/-- Register `0x180 + k` of the harvest map (R276). -/
def hmapReg (s : State) (k : Nat) : Nat :=
  sumOf 16 fun i =>
    let code := hmapCode s (48 * (k / 3) + 16 * (k % 3) + i)
    (if code % 2 = 1 then code % 8 else 0) * 16 ^ i

/-- The fused configuration (R410, R412): the digest of the firmware's public key, the fuses of SVN, stepping, serial number and errata;
the order of its bytes is the model's (log entry 40). -/
def fusedConfig (s : State) : List Byte :=
  s.boot.keyDigest ++ toBytes 8 (2 ^ s.boot.svn - 1) ++ toBytes 1 (bitsOf s.pkg.idrev.toNat 23 16) ++ toBytes 8 s.pkg.idser.toNat
    ++ toBytes 8 s.pkg.iderr.toNat
/-- The harvest map as its registers hold it (R276). -/
def hmapBytes (s : State) : List Byte := (List.range 24).flatMap fun k => toBytes 8 (hmapReg s k)
/-- What a measurement report says, without its signature (R413). -/
def reportBody (s : State) (nonce : List Byte) : List Byte :=
  nonce ++ toBytes 8 s.pkg.idrev.toNat ++ toBytes 8 s.pkg.idser.toNat ++ toBytes 8 s.pkg.iderr.toNat
    ++ sha384 s.boot.flash ++ sha384 (fusedConfig s) ++ sha384 (hmapBytes s)
/-- A measurement report (R413). -/
def report (s : State) (nonce : List Byte) : List Byte :=
  reportBody s nonce ++ (List.range 96).map (Config.signature (reportBody s nonce))

/-- ATTESTATION_REQUEST (R413). -/
def execAttestationRequest (nonce : List Byte) (s : State) : Out :=
  event s (decide (nonce.length = 32)) fun s => logHost s (.report (report s nonce))

/-! Errors (R414). -/

/-- Stop the partitions to which a failure is confined. -/
def stopScope (s : State) (scope : ErrScope) : State :=
  match scope with
  | .part p => mcheck s p
  | .package => (List.range 16).foldl mcheck s
/-- UNCORRECTABLE_ERROR (R414). -/
def execUncorrectableError (scope : ErrScope) (s : State) : Out :=
  event s (match scope with | .part p => decide (p < 16) | .package => true) fun s => stopScope s scope

/-- SCRUB (R398, R414): a location with a single-bit error, which is corrected and counted. -/
def execScrub (addr : Nat) (s : State) : Out :=
  event s (region addr != none && region addr != some 2 && budgetOpen s 4) fun s =>
    let s := charge s 4 64
    if s.host.corrected + 1 < 65536 then { s with host := { s.host with corrected := s.host.corrected + 1 } }
    else setMgstat { s with host := { s.host with corrected := 65536 } } 4

/-! Budgets, power and temperature (R415, R418). -/

/-- An activity waits for its next period: its units are used up and it has work. -/
def activityWaits (s : State) (k : Nat) : Bool :=
  !(budgetOpen s k) && (match k with
    | 0 => !s.host.waiting.isEmpty || decide (0 < mbLeft s)
    | 1 => !s.fabric.inbox.isEmpty || s.teams.any fun t => t.groups.any fun g => g.queue.any fun a => isFabric a.opc && a.stage != 2
    | 2 => s.teams.any fun t => t.groups.any fun g => g.queue.any fun a => a.opc == 0xf1
    | 3 => (s.clusters.any fun c => c.copies.any fun o => !o.started) || s.parts.any fun p => p.runs.any fun x =>
        (x.nodes.zip x.sts).any fun y => gnKind y.1 == gnCopy && y.2.active && !y.2.started
    | _ => true)

def canActivityBudgetPeriod (s : State) : Bool := decide ((budgetAt s 0).periodAt + 24000 ≤ s.clk)
/-- ACTIVITY_BUDGET_PERIOD (R415): every 10 microseconds from reset. -/
def execActivityBudgetPeriod (s : State) : Out :=
  event s (canActivityBudgetPeriod s) fun s =>
    let s := { s with budgets := (s.budgets.zipIdx).map fun x =>
        { x.1 with used := 0, periodAt := s.clk / 24000 * 24000
                   waits := if activityWaits s x.2 then min (x.1.waits + 1) 0xffffffff else x.1.waits } }
    let s := if mbLeft s = 0 then s else mboxRead s
    cxlWaiting s.host.waiting.length s

/-- Work of a partition that does not wait for a budget. -/
def partWorks (s : State) (p : Nat) : Bool :=
  (s.teams.any fun t => t.part == p && (t.eops.any (fun o => o.started) || t.groups.any fun g => g.queue.any fun a =>
      if a.opc = 0xf1 then budgetOpen s 2 else if isFabric a.opc then budgetOpen s 1 else true))
    || (budgetOpen s 1 && !s.fabric.inbox.isEmpty) || s.clusters.any fun c => c.ref.part == p && c.copies.any fun o => o.started || budgetOpen s 3
/-- An activity of a partition waits for its budget. -/
def partWaits (s : State) (p : Nat) : Bool :=
  ((List.range 4).any fun k => activityWaits s k) || ((partClusters s p).flatMap clusterCores).any fun k => budgetWaits s k
/-- WATCHDOG_EXPIRY (R414): not while only budgets are waited for (R416). -/
def execWatchdogExpiry (part : Nat) (s : State) : Out :=
  event s (decide (part < 16) && (partWorks s part || !(partWaits s part))) fun s => stopScope s (.part part)

/-- THERMAL_THRESHOLD (R398): a die rises to 100 degrees, or falls below 95 after that. -/
def execThermalThreshold (die : Nat) (s : State) : Out :=
  event s (decide (die < 8)) fun s =>
    setMgstat { s with boot := { s.boot with
      hot := if s.boot.hot.contains die then s.boot.hot.filter fun d => d != die else die :: s.boot.hot } } 0
/-- DIE_OVERTEMP_CUTOFF (R418): MCHECK for every partition, and the power is cut. -/
def execDieOvertempCutoff (die : Nat) (s : State) : Out :=
  bootEvent s (decide (die < 8)) fun s =>
    let s := stopScope s .package
    { s with boot := { s.boot with powered := false } }
/-- BUDGET_LOWERING (R418): the package begins or ends lowering its budgets, at a draw limit in milliwatts; `effUnits` is what is left of
them meanwhile. -/
def execBudgetLowering (milliwatts : Nat) (s : State) : Out :=
  event s true fun s => setMgstat { s with boot := { s.boot with pwrlim := !s.boot.pwrlim, milliwatts := milliwatts } } 1

/-! The L1 (R289). -/

/-- The dirty lines of wider pages in a core's L1. -/
def dirtyLines (s : State) (core : Nat) : List L1Line :=
  s.l1.filter fun l => l.core == core && l.dirty.any fun d => d
def canDirtyL1LineWriteback (s : State) (core k : Nat) : Bool := decide (k < (dirtyLines s core).length)
/-- DIRTY_L1_LINE_WRITEBACK (R289): the line leaves the L1. -/
def execDirtyL1LineWriteback (core k : Nat) (s : State) : Out :=
  event s (canDirtyL1LineWriteback s core k) fun s =>
    match (dirtyLines s core)[k]? with
    | some x => l1Drop s fun l => l.core == core && l.asid == x.asid && l.vline == x.vline
    | none => s

/-! Enqueue windows (R395). -/

def windowOf (s : State) (q : Nat) : Window := (s.host.windows.find? fun w => w.queue == q).getD ⟨q, List.replicate 128 0, 0, 0⟩
def updWindow (s : State) (q : Nat) (f : Window → Window) : State :=
  { s with host := { s.host with windows := f (windowOf s q) :: s.host.windows.filter fun w => w.queue != q } }
/-- A write of the doorbell. One whose record makes the engine read lines that the host may hold waits for them: it stands in the agenda
again (R394; log entry 131). -/
def doorbell (s : State) (q : Nat) : State :=
  let b := (windowOf s q).bytes
  let p := qdPart (qdBytes s q)
  let lacks := virtLacks s p (enqReads s q b)
  if !lacks.isEmpty then
    let s := lacks.foldl (fun s x => hostAsk s x.1 x.2 .load) s
    { s with agenda := s.agenda ++ [.event (.enqueueDoorbell p q ((List.range 16).map fun k => BitVec.ofNat 64 (dNat b (8 * k) 8)))] }
  else match enqueueRec s q b .host with
    | (s, st, reason) => updWindow s q fun w => { w with status := st, reason := reason }
/-- ENQUEUE_DOORBELL (R395): the window's words, then the doorbell. -/
def execEnqueueDoorbell (part queue : Nat) (words : List DWord) (s : State) : Out :=
  event s (decide (queue < 64) && qdPart (qdBytes s queue) == part) fun s =>
    let b := (words.take 16).flatMap fun w => toBytes 8 w.toNat
    doorbell (updWindow s queue fun w => { w with bytes := b ++ w.bytes.drop b.length }) queue

end Sys2Proof.Machine
end

