-- ==== Sys2Proof/Machine/Traps.lean ====
section
/-! DEFINITION. Traps taken after issue (R100, R164, R218) and the time limits of barriers and waits (R204, R206, R208, R209, R212, R217,
R273, R284, R379). -/

namespace Sys2Proof.Machine

/-! Taking a trap. -/

/-- The lowest program counter of a mask's threads. -/
def lowestPc (g : Group) (m : BitVec 32) : Option DWord :=
  (lanesOf m).foldl (fun r l =>
    let p := (threadAt g l).pc
    match r with
    | some q => if p.toNat < q.toNat then some p else some q
    | none => some p) none

/-- The instruction boundary at which a group stands: its current program counter, or the lowest of its threads. -/
def boundaryPc (g : Group) : DWord :=
  if (lanesOf (readyMask g)).any fun l => (threadAt g l).pc == g.gpc then g.gpc
  else match lowestPc g (readyMask g) with
    | some p => p
    | none => (lowestPc g (presentMask g)).getD g.gpc

/-- An entry as a trap holds it: its fault is not kept (R100). -/
def heldEntry (a : Access) : Access := { a with fault := none }

/-- The entries that an asynchronous trap holds, waits and all from the first faulted one, and those that go on. With `rel` the
releases wait too: they follow a side-log entry whose fault is taken (R262). -/
def splitQueue (q : List Access) (rel : Bool) : List Access × List Access :=
  let x := q.foldl (fun (r : List Access × List Access × Bool) a =>
    let hit := r.2.2 || a.fault.isSome || (rel && releases a)
    if hit || isWaitOp a.opc then (r.1 ++ [heldEntry a], r.2.1, hit) else (r.1, r.2.1 ++ [a], hit)) ([], [], false)
  (x.1, x.2.1)

/-- The pending cause of the lowest code, the oldest of them (R100). -/
def lowestCause (l : List Cause) : Option Cause :=
  l.foldl (fun r c => match r with
    | some d => if c.code < d.code then some c else some d
    | none => some c) none

/-- The BARHANG of a GJOIN while it is pending: its lanes hold the group's number and its address the GJOIN's program counter, so
that a completion withdraws its own (R100); both are zero when it is taken. -/
def joinHang (grp : Nat) (pc : DWord) : Cause := ⟨tcBarhang, 16, 0, BitVec.ofNat 32 grp, pc⟩

/-- A pending BARHANG whose GJOIN has completed (R100). -/
def staleHang (t : Team) (c : Cause) : Bool :=
  c.code == tcBarhang && c.info == 16
    && !((t.groups[c.lanes.toNat]?).any fun g => g.joins.any fun j => j.hung && j.pc == c.addr)

/-- A pending cause as it is taken. -/
def takenCause (c : Cause) : Cause := if c.code == tcBarhang && c.info == 16 then { c with lanes := 0, addr := 0 } else c

/-- The operation that posted an engine cause is handled by this group from now on (R224, R271). -/
def markTaken (s : State) (r : GroupRef) (c : Cause) : State :=
  if c.kind != 7 then s
  else
    let hit (f : Option Cause) (k : Option Nat) : Bool := f == some c && k.isNone
    match teamAt s r.team with
    | none => s
    | some t => match t.eops.find? fun o => hit o.fault o.takenBy with
      | some o => updTeam s r.team fun t =>
          { t with eops := t.eops.map fun (x : EngOp) => if x.id == o.id then { x with takenBy := some r.grp } else x }
      | none => { s with clusters := s.clusters.map fun (x : Cluster) =>
          { x with copies := x.copies.map fun (o : CopyOp) =>
              if o.team == r.team && hit o.fault o.takenBy then { o with takenBy := some r.grp } else o } }

/-- The trap of the oldest access of a group (R164, R165): it and all younger ones are held. -/
def faultTrap (s : State) (r : GroupRef) (g : Group) (a : Access) (c : Cause) : State :=
  let tr := match lowLane (a.all &&& presentMask g) with
    | some l => (threadAt g l).pc
    | none => boundaryPc g
  takeTrap s r c a.slot2 (if a.slot2 then a.pc - 1 else a.pc) tr (g.queue.map heldEntry) []

/-- An asynchronous trap at the group's boundary (R100, R218). -/
def asyncTrap (s : State) (r : GroupRef) (g : Group) (c : Cause) : State :=
  let s := markTaken (updGroup s r fun g => { g with pending := g.pending.erase c }) r c
  let q := splitQueue g.queue false
  takeTrap s r (takenCause c) false (boundaryPc g) (boundaryPc g) q.1 q.2

/-- The pending fault of a side-log entry is taken (R261): the entry stands first among the held accesses. -/
def sideTrap (s : State) (r : GroupRef) (g : Group) (a : Access) (c : Cause) : State :=
  let q := splitQueue g.queue true
  takeTrap (updGroup s r fun g => { g with side := g.side.filter fun x => x.tok != a.tok }) r c false (boundaryPc g) (boundaryPc g)
    (heldEntry a :: q.1) q.2

/-- Causes of a group that is DONE: the engines', the drains', the side log's and the fabric's pass to another group, the others are
dropped (R100). -/
def passOn (s : State) (r : GroupRef) (part : Nat) (l : List Cause) (side : List Access) : State :=
  let s := (l.filter fun c => c.code != tcBarhang && c.code != tcCancel).foldl (fun s c =>
      if c.kind = 3 then (match teamAt s r.team with | some t => drainFault s t c.code c.addr.toNat | none => s)
      else postCause s r.team r.grp c)
    (updGroup s r fun g => { g with pending := [], side := [] })
  side.foldl (fun s a => match a.fault with | some c => slogReturn s r.team r.grp a part c | none => s) s

/-- The side-log entry of a group whose pending fault has the lowest code, the oldest of them. -/
def lowestSide (l : List Access) : Option (Access × Cause) :=
  l.foldl (fun r a => match r, a.fault with
    | some x, some c => if c.code < x.2.code then some (a, c) else some x
    | none, some c => some (a, c)
    | x, none => x) none

/-- An asynchronous cause or a side-log fault is taken, the lower code first (R100). -/
def asyncOrSide (s : State) (r : GroupRef) (g : Group) (async : Option Cause) (side : Option (Access × Cause)) : Option State :=
  match async, side with
  | some d, some x => some (if x.2.code < d.code then sideTrap s r g x.1 x.2 else asyncTrap s r g d)
  | some d, none => some (asyncTrap s r g d)
  | none, some x => some (sideTrap s r g x.1 x.2)
  | none, none => none

/-- What TRAP_ENTRY does for a group now. -/
def trapEntry (s : State) (r : GroupRef) : Option State :=
  match teamAt s r.team, groupAt s r with
  | some t, some g =>
    let first := (g.queue.head?).bind fun a => a.fault
    if !(partRuns s r.team) then none
    else if g.status == .done then
      (if g.pending.isEmpty && g.side.isEmpty then none else some (passOn s r t.part g.pending g.side))
    else if presentMask g = 0 then (if first.isSome then some (mcheck s t.part) else none)
    else if g.pending.any (staleHang t) then
      some (updGroup s r fun g => refreshGroup { g with pending := g.pending.filter fun c => !(staleHang t c) })
    else
      let free : Bool := !(g.status == .handler || (first.isNone && g.queue.any fun a => a.fault.isSome))
      let async : Option Cause := if free then lowestCause g.pending else none
      let side : Option (Access × Cause) := if free then lowestSide g.side else none
      let below (c d : Option Cause) : Bool := match c, d with
        | some x, some y => decide (x.code < y.code)
        | some _, none => true
        | none, _ => false
      let lag : Option Cause := if below (side.map (·.2)) async then side.map (·.2) else async
      match first, g.queue with
      | some c, a :: _ => if below lag (some c) then asyncOrSide s r g async side else some (faultTrap s r g a c)
      | _, _ => asyncOrSide s r g async side
  | _, _ => none

def canTrapEntry (s : State) (r : GroupRef) : Bool := (trapEntry s r).isSome
/-- TRAP_ENTRY (R100, R164, R218). -/
def execTrapEntry (g : GroupRef) (s : State) : Out := event s (canTrapEntry s g) fun s => (trapEntry s g).getD s

/-! Barriers (R206, R273, R284, R379). -/

/-- BARTMO of a team; its reset value for a team that has gone. -/
def bartmoOf (s : State) (t : TeamRef) : Nat := match teamAt s t with | some x => x.regs.bartmo.toNat | none => 0x01000000

/-- A phase that a team waits for too long. -/
def barLate (s : State) (t : TeamRef) (k : BarKey) (limit : Nat) : Bool :=
  let b := barGet s t k
  (match b.since with | some n => decide (limit ≤ s.clk - n) | none => false) && !(b.hung.contains t.lin) && !(barComplete s t k)

/-- BARHANG becomes pending in every group of a team that is not DONE. -/
def postHang (s : State) (t : TeamRef) (c : Cause) : State :=
  updTeam s t fun x => { x with groups := x.groups.map fun (g : Group) =>
    if g.status == .done then g else { g with pending := g.pending ++ [c] } }

/-- Teams take BARHANG for a barrier. -/
def hangTeams (s : State) (t : TeamRef) (k : BarKey) (ls : List Nat) : State :=
  let b := barGet s t k
  ls.foldl (fun s l => postHang s ⟨t.grid, l⟩ (causeInfo tcBarhang k.info)) (barPut s t k { b with hung := b.hung ++ ls })

def hasThreads (s : State) (t : TeamRef) : Bool := match teamAt s t with | some x => !(presentNos x).isEmpty | none => false

/-- The lowest timed-out barrier of a kind. -/
def firstLate (s : State) (t : TeamRef) (n : Nat) (k : Nat → BarKey) (limit : Nat) : Option BarKey :=
  ((List.range n).map k).find? fun x => barLate s t x limit

/-- The team's own barriers and its GJOINs: the lowest that timed out. -/
def hangJoin (s : State) (r : GroupRef) : Option State :=
  match groupAt s r with
  | some g => match g.joins.find? fun j => !j.hung && decide (bartmoOf s r.team ≤ s.clk - j.since) with
    | some j => some (postHang (updGroup s r fun g =>
        { g with joins := g.joins.map fun (x : Join) => if x.pc == j.pc then { x with hung := true } else x }) r.team (joinHang r.grp j.pc))
    | none => none
  | none => none

def barrierTimeout (s : State) (w : WaitRef) : Option State :=
  let own (t : TeamRef) (n : Nat) (k : Nat → BarKey) : Option State :=
    (firstLate s t n k (bartmoOf s t)).map fun x => hangTeams s t x [t.lin]
  let runs (t : TeamRef) (o : Option State) : Option State := if partRuns s t then o else none
  match w with
  | .team t id => runs t (if barLate s t (.team id) (bartmoOf s t) then some (hangTeams s t (.team id) [t.lin]) else none)
  | .join g => runs g.team (hangJoin s g)
  | .serial g => runs g.team (match groupAt s g, teamAt s g.team with
    | some x, some t =>
      if !x.ser.opened then none
      else match own g.team 16 .team with
        | some s => some s
        | none => (List.range t.groups.length).findSome? fun k => hangJoin s ⟨g.team, k⟩
    | _, _ => none)
  | .cluster t => runs t (match gridAt s t.grid with
    | some gr =>
      let ls := barMembers gr t.lin (.inst 0)
      let limit := bartmoOf s ⟨t.grid, ls.headD 0⟩
      (firstLate s ⟨t.grid, ls.headD 0⟩ 4 .inst limit).map fun x => hangTeams s t x (ls.headD 0 :: ls.filter fun l => l != ls.headD 0 && hasThreads s ⟨t.grid, l⟩)
    | none => none)
  | .die t => runs t (own t 4 .die)
  | .grid t => runs t (own t 4 .grid)

def canBarrierTimeout (s : State) (w : WaitRef) : Bool := (barrierTimeout s w).isSome
/-- BARRIER_TIMEOUT (R206, R273, R284, R379). -/
def execBarrierTimeout (w : WaitRef) (s : State) : Out := event s (canBarrierTimeout s w) fun s => (barrierTimeout s w).getD s

/-! Waits. -/

/-- The wait of a group that satisfies a test, with its team running and the group out of its handler. -/
def waitOf (s : State) (r : GroupRef) (p : Access → Bool) : Option Access :=
  match groupAt s r with
  | some g => if partRuns s r.team && g.status != .handler && g.status != .done then
      g.queue.find? fun a => isWaitOp a.opc && a.fault.isNone && p a else none
  | none => none

/-- An untimed ARRWAIT that has waited too long (R208). -/
def lateArrwait (s : State) (r : GroupRef) : Option Access :=
  match groupAt s r with
  | some g => if g.pending.any fun c => c.code == tcBarhang && c.info == 17 then none
      else waitOf s r fun a => a.opc == 0xbb && a.wait.left.isNone && decide (bartmoOf s r.team ≤ waited s a)
  | none => none
def canArrwaitTimeout (s : State) (r : GroupRef) : Bool := (lateArrwait s r).isSome
/-- ARRWAIT_TIMEOUT (R208): BARHANG with INFO 17; the wait stays. -/
def execArrwaitTimeout (g : GroupRef) (s : State) : Out :=
  event s (canArrwaitTimeout s g) fun s => updGroup s g fun x => { x with pending := x.pending ++ [⟨tcBarhang, 17, 8, 0, 0⟩] }

/-- The BART wait of a lane whose time is over (R204). -/
def lateBart (s : State) (r : GroupRef) (lane : Nat) : Option Bart :=
  match groupAt s r with
  | some g => if partRuns s r.team && g.status != .handler then
      g.barts.find? fun x => x.lane == lane && decide (x.left ≤ s.clk - x.since) else none
  | none => none
def canBartTimeout (s : State) (r : GroupRef) (lane : Nat) : Bool := (lateBart s r lane).isSome
/-- BART_TIMEOUT (R204): status 1, and the thread is released. -/
def execBartTimeout (g : GroupRef) (lane : Nat) (s : State) : Out :=
  event s (canBartTimeout s g lane) fun s => match lateBart s g lane with
    | some x => updGroup s g fun y => bartOver y (laneMask fun l => l == lane) x.bar
    | none => s

def lateWait (s : State) (r : GroupRef) : Option Access := waitOf s r fun a => expired s a
def canGroupWaitTimeout (s : State) (r : GroupRef) : Bool := (lateWait s r).isSome
/-- GROUP_WAIT_TIMEOUT (R209): TIMEOUT in every lane, but for a wait whose condition could not be looked at yet and holds. -/
def execGroupWaitTimeout (g : GroupRef) (s : State) : Out :=
  event s (canGroupWaitTimeout s g) fun s => match lateWait s g with
    | some a => if a.stage = 1 then endTimed s g a else endAtOnce (runTok s g a.tok) g a.tok
    | none => s

/-- The group traps at a wait that is withdrawn: its threads stand at the instruction again, its destination is as before (R212,
R217). -/
def withdrawTrap (s : State) (r : GroupRef) (a : Access) (code : Nat) : State :=
  let d := accDst a
  let back (g : Group) : Group :=
    let g := updThreads g (a.all &&& presentMask g) fun _ t => { t with pc := a.pc }
    let g := if d.nf || accRegs a = 0 then g
      else match runOf g d.index.toNat with
        | some (k, q) =>
          let g := setReg g d.index.toNat { (regAt g d.index.toNat) with st := .dead }
          { g with loopqs := g.loopqs.setIfInBounds k (some { q with occ := q.occ - 1 }) }
        | none => setReg g d.index.toNat { (regAt g d.index.toNat) with st := if a.wasDead then .dead else .full }
    { g with queue := g.queue.filter fun x => x.tok != a.tok }
  let s := hqForget (updGroup s r back) r fun tok => tok == a.tok
  match groupAt s r with
  | some g => takeTrap s r ⟨code, 1, 8, a.lanes, 0⟩ a.slot2 a.pc a.pc [] g.queue
  | none => s

/-- A wait of a group for a queue or for accumulator banks; in its handler those in the queue are the handler's own (R212, R217). -/
def queueWait (s : State) (r : GroupRef) (p : Access → Bool) : Option Access :=
  match groupAt s r with
  | some g => if partRuns s r.team && g.status != .done then g.queue.find? fun a => isWaitOp a.opc && a.fault.isNone && p a else none
  | none => none

def lateQueue (s : State) (r : GroupRef) : Option Access :=
  queueWait s r fun a => (a.opc == 0xbd || a.opc == 0xbe) && decide (bartmoOf s r.team ≤ waited s a)
def canHqWaitTimeout (s : State) (r : GroupRef) : Bool := (lateQueue s r).isSome
/-- HQ_WAIT_TIMEOUT (R212). -/
def execHqWaitTimeout (g : GroupRef) (s : State) : Out :=
  event s (canHqWaitTimeout s g) fun s => match lateQueue s g with
    | some a => withdrawTrap s g a tcQueueerr
    | none => s

def lateAlloc (s : State) (r : GroupRef) : Option Access :=
  queueWait s r fun a => a.opc == 0xc2 && decide (bartmoOf s r.team ≤ waited s a)
def canAccallocTimeout (s : State) (r : GroupRef) : Bool := (lateAlloc s r).isSome
/-- ACCALLOC_TIMEOUT (R217): the requests behind it may be granted. -/
def execAccallocTimeout (g : GroupRef) (s : State) : Out :=
  event s (canAccallocTimeout s g) fun s => match lateAlloc s g, teamAt s g.team with
    | some a, some t => accGrant (withdrawTrap s g a tcAccna) t.core
    | _, _ => s

end Sys2Proof.Machine
end

