-- ==== Sys2Proof/Machine/Banks.lean ====
section
/-! DEFINITION. Bank-pool modes (R202), opcode 0xc1, and the order of a bank's uses before a change of its mode. -/

namespace Sys2Proof.Machine

/-- A run of pool bytes meets bank `b`. -/
def runInBank (b : Nat) (x : Nat × Nat) : Bool := x.2 != 0 && bytesMeet x.1 x.2 (65536 * b) 65536

/-- A window address of a team's instance falls in bank `b` of team `r`. -/
def windowIn (gr : Grid) (lin a : Nat) (r : TeamRef) (b : Nat) : Bool :=
  windowTeam gr lin (bitsOf a 23 20) == some r && bitsOf a 19 16 == b && bitsOf a 31 24 == 0

/-- An engine operation of a team reads or writes a byte of the bank (R202). -/
def opInBank (t : Team) (gr : Grid) (o : EngOp) (r : TeamRef) (b : Nat) : Bool :=
  let own (l : List (Nat × Nat)) : Bool := t.ref == r && l.any (runInBank b)
  let rows : Bool := t.ref == r && o.rows.any fun x => x.1 == b
  rows || match o.kind with
    | .mma =>
      let kb := o.ctl.getD 3 0 / 4
      own (o.mapA.runs ++ o.mapB.runs ++ o.mapA.scaleRun kb ++ o.mapB.scaleRun kb)
    | .load | .drain | .drainAdd =>
      own (if o.xc.gmask then [(512 * o.xc.goff, 256)] else [])
        || (o.xc.space && (List.range 32).any fun i => (rowAccesses o true i).any fun a =>
          windowIn gr t.ref.lin (Lanes.at a.addr 0 0).toNat r b)
    | .attn =>
      let a := o.atd
      own (attnRuns (TileMap.ofNat (o.words.getD 32 0)) a.nq ++ if o.ctl.headD 0 = 0 then [(a.qtab, 8 * a.nq)] else [])
        || windowIn gr t.ref.lin a.arrive r b
    | _ => false

/-- A copy or gather whose descriptor ranges or arrival word lie in the bank. -/
def copyInBank (s : State) (c : Cluster) (o : CopyOp) (r : TeamRef) (b : Nat) : Bool :=
  ((copyRanges s o c.ref.part).any fun x => x.meets c.ref.part (some r) (65536 * b) (65536 * b + 65536))
    || (o.run.isNone && match gridAt s o.team.grid with
      | some gr => dArrive o.desc != 0xffffffff && windowIn gr o.team.lin (dArrive o.desc) r b
      | none => false)

/-- A fabric message, sent or waiting, whose arrival word lies in the bank. -/
def messageInBank (s : State) (t : TeamRef) (d : List Byte) (r : TeamRef) (b : Nat) : Bool :=
  match gridAt s t.grid with
  | some gr => xdArrive d != 0xffffffff && windowIn gr t.lin (xdArrive d) r b
  | none => false

/-- A running stream appends to a queue that the bank holds, or one of its window loads still to be made reads there (R202, R214). -/
def streamInBank (s : State) (t : Team) (gr : Grid) (r : TeamRef) (b : Nat) : Bool :=
  let x := t.stream
  if x.st != .running then false
  else if streamMode x.ctl = 2 then
    match hqAt s t.core (streamHq x.ctl) with
    | some (_, q) => q.home == r && q.bank == b
    | none => false
  else streamMode x.ctl == 0 && abit x.ctl 5 == 1 &&
    (List.range (streamTotal x - x.elem)).any fun k => windowIn gr t.ref.lin (streamAddr x (x.elem + k) % 2 ^ 32) r b

/-- An access of a group that lies in the bank, a wait on a queue held there included. -/
def entryInBank (s : State) (gr : Grid) (t : Team) (a : Access) (b : Nat) : Bool :=
  (isWindowOp a.opc && (lanesOf a.lanes).any fun l => windowIn gr t.ref.lin ((Lanes.at a.addr l 0).toNat % 2 ^ 32) t.ref b)
    || ((a.opc == 0xbd || a.opc == 0xbe) && match hqAt s t.core (a.mod % 16) with
      | some (_, q) => q.home == t.ref && q.bank == b
      | none => false)
    || (a.opc == 0xda && (heaprdRow (Lanes.at a.addr ((lowLane a.lanes).getD 0) 0).toNat).1 == b)
    || (isFabric a.opc && messageInBank s t.ref (entryDesc a) t.ref b)

/-- Something that BANKMODE waits for still uses the bank (R202). -/
def bankUsed (c : Ctx) (b : Nat) : Bool :=
  let s := c.s
  let r := c.r.team
  (c.t.groups.any fun g => (g.queue ++ g.saved.flatMap fun v => v.held).any fun a => entryInBank s c.gr c.t a b)
    || (s.teams.any fun t => match gridAt s t.ref.grid with
      | some gr => (t.eops.any fun o => opInBank t gr o r b) || streamInBank s t gr r b
      | none => false)
    || (s.clusters.any fun k => k.copies.any fun o => copyInBank s k o r b)
    || (s.fabric.ops.any fun o => messageInBank s o.grp.team o.desc r b)

/-- The hardware queues of a bank. -/
def bankQueues (s : State) (r : TeamRef) (b : Nat) : List HwQueue :=
  s.clusters.flatMap fun c => c.hqs.filter fun q => q.home == r && q.bank == b

/-- Put a bank into a mode: what it held is discarded, its queues are removed, a withdrawn way is written back (R202). -/
def setBankMode (s : State) (t : Team) (b : Nat) (old new : BankMode) : State :=
  let s := if old == .cache then l1Drop s fun l => l.core == t.core else s
  let s := if old == .fifo then
      { s with clusters := s.clusters.map fun c => { c with hqs := c.hqs.filter fun q => !(q.home == t.ref && q.bank == b) } }
    else s
  updBank s t.ref b fun _ => ⟨new, []⟩

/-- BANKMODE (R202). -/
def execBankmode (f : RI) (s : State) : Out :=
  issue (.bankmode f) s fun c =>
    let b := f.imm.toNat % 16
    let new : BankMode := match bitsOf f.imm.toNat 5 4 with | 0 => .spad | 1 => .cache | _ => .fifo
    match c.t.banks[b]? with
    | none => .trap (causeOf tcProt)
    | some k =>
      if c.act = 0 || k.mode == new then .go {}
      else if bankUsed c b then .stall
      else if k.mode == .fifo && (bankQueues c.s c.r.team b).any fun q => !q.entries.isEmpty then .trap (causeOf tcQueueerr)
      else .go { post := fun s => setBankMode s c.t b k.mode new }

end Sys2Proof.Machine
end

