-- ==== Sys2Proof/Machine/Control.lean ====
section
/-! DEFINITION. Control transfers, calls and returns, ending, trapping and yielding, opcodes 0x60 to 0x6a and 0x6d (R135 to R146). -/

namespace Sys2Proof.Machine

/-- The target of a B-format instruction (R58). -/
def branchTarget (c : Ctx) (f : BF) : DWord :=
  BitVec.ofNat 64 (wrap 64 ((pcLine c.pc : Int) + 64 * signed 29 f.line.toNat) + f.slot.toNat)

/-- Lanes whose target breaks R53 or is not marked (R52). -/
def badTargets (c : Ctx) (m : BitVec 32) (tg : Nat → DWord) : BitVec 32 :=
  laneMask fun l => m.getLsbD l && !(pcOk (tg l).toNat && landingMarked c.s c.gr c.t.core (tg l) != some false)

/-- BADTGT for lanes of a transfer, which then takes effect in no lane (R137). -/
def badTarget (m : BitVec 32) (tg : Nat → DWord) : Act :=
  .trap ⟨tcBadtgt, 0, 0, m, match lowLane m with | some l => tg l | none => 0⟩

/-- Lanes of a mask transfer, with what else the instruction does. -/
def transferAct (c : Ctx) (m : BitVec 32) (tg : Nat → DWord) (post : State → State) : Act :=
  let bad := badTargets c m tg
  if bad ≠ 0 then badTarget bad tg
  else .go { pcs := some fun l => if m.getLsbD l then tg l else pcNext c.pc, jump := m, post := post }

/-- The most entries a thread's return stack takes (R140, R142). -/
def stackLimit (c : Ctx) : Nat := 8 + 8 * (partOf c.s c.t.part).tlssize

/-- The spill address of entry `j` of a lane's thread (R141), in canonical form. -/
def spillAddr (c : Ctx) (l j : Nat) : Nat := canon57 (spillArea c.s c.t.part c.r.team.lin (tidOf c.g l) + 8 * j)

/-- The oldest hardware entry of a thread; none where its reload is outstanding, so that memory holds it. -/
def oldestEntry (t : Thread) : Option DWord := t.stack.getLastD none

/-- A spill enters the queue; in a deterministic launch it is translated at its issue, as every write (R323). -/
def pushSpill (c : Ctx) (a : Access) (s : State) : State :=
  if lrDet c.gr.lr then runTok (pushAccess c.r a s) c.r a.tok else pushAccess c.r a s
@[inherit_doc pushSpill] def spillIssues (c : Ctx) (a : Access) : Bool :=
  !lrDet c.gr.lr || (match tryAccess (pushAccess c.r a c.s) c.r c.g.queue.length false with | .done _ => true | _ => false)

/-- Push the successor on the return stack of active lanes (R140): a ninth entry is spilled by a plain store, unless a held reload
has not brought it yet. -/
def callAct (c : Ctx) (tg : Nat → DWord) : Act :=
  let deep := laneMask fun l => c.act.getLsbD l && decide (8 ≤ (threadAt c.g l).depth) && (oldestEntry (threadAt c.g l)).isSome
  let tooDeep := laneMask fun l => c.act.getLsbD l && decide (stackLimit c < (threadAt c.g l).depth + 1)
  let bad := badTargets c c.act tg
  if bad ≠ 0 then badTarget bad tg
  else if tooDeep ≠ 0 then .trap ⟨tcStkovf, 0, 0, tooDeep, 0⟩
  else if deep ≠ 0 && queueFull c.g then .stall
  else
    let a := accessOf c deep .unused 3 (fun l => spillAddr c l ((threadAt c.g l).depth - 8))
      fun l => ((oldestEntry (threadAt c.g l)).getD 0).toNat
    if deep ≠ 0 && !spillIssues c a then .stall
    else transferAct c c.act tg fun s =>
      let s := updGroup s c.r fun g => updThreads g c.act fun _ th =>
        { th with stack := (some (pcNext c.pc) :: th.stack).take 8, depth := th.depth + 1 }
      if deep = 0 then s else pushSpill c a s

/-- BRA (R136). -/
def execBra (f : BF) (s : State) : Out :=
  issue (.bra f) s fun c => transferAct c c.act (fun _ => branchTarget c f) id
/-- BRAU (R138): every active lane goes the same way. -/
def execBrau (k : UTest) (f : BF) (s : State) : Out :=
  issue (.brau k f) s fun c =>
    let zero : Bool := c.av ((lowLane c.act).getD 0) == 0
    transferAct c (if zero == (k == .z) then c.act else 0) (fun _ => branchTarget c f) id
/-- BRX (R137). -/
def execBrx (f : BF) (s : State) : Out :=
  issue (.brx f) s fun c => transferAct c c.act (fun l => BitVec.ofNat 64 (c.av l)) id
/-- CALL (R140). -/
def execCall (f : BF) (s : State) : Out := issue (.call f) s fun c => callAct c fun _ => branchTarget c f
/-- CALLX (R137, R140). -/
def execCallx (f : BF) (s : State) : Out := issue (.callx f) s fun c => callAct c fun l => BitVec.ofNat 64 (c.av l)
/-- RET (R140): with a depth above 8 an entry is reloaded, and the group issues nothing more until it is. An entry whose own reload
a trap still holds has no value yet and reads zero, which is no marked slot unless line 0 is one. -/
def execRet (f : BF) (s : State) : Out :=
  issue (.ret f) s fun c =>
    let under := laneMask fun l => c.act.getLsbD l && (threadAt c.g l).depth == 0
    let tg (l : Nat) : DWord := ((threadAt c.g l).stack.headD none).getD 0
    let deep := laneMask fun l => c.act.getLsbD l && decide (8 < (threadAt c.g l).depth)
    let bad := badTargets c (c.act &&& ~~~under) tg
    if bad ≠ 0 then badTarget bad tg
    else if under ≠ 0 then .trap ⟨tcStkovf, 1, 0, under, 0⟩
    else if deep ≠ 0 && queueFull c.g then .stall
    else
      let a := accessOf c deep .unused 3 (fun l => spillAddr c l ((threadAt c.g l).depth - 9)) fun _ => 0
      transferAct c c.act tg fun s =>
        let s := updGroup s c.r fun g => updThreads g c.act fun l th =>
          { th with stack := th.stack.drop 1 ++ (if deep.getLsbD l then [none] else []), depth := th.depth - 1 }
        if deep = 0 then s else pushAccess c.r a s
/-- LOOPU (R139): the counter steps in every active lane, and lanes where it is not zero transfer. -/
def execLoopu (f : BF) (s : State) : Out :=
  issue (.loopu f) s fun c =>
    let n (l : Nat) : Nat := (c.av l + 0xffffffff) % 2 ^ 32
    let m := laneMask fun l => c.act.getLsbD l && n l != 0
    match transferAct c m (fun _ => branchTarget c f) id with
    | .go d =>
      let v : Nat → LaneVal := fun l => BitVec.ofNat 128 (n l)
      .go { d with vec := some v }
    | a => a

/-- EXIT (R144): in a handler it marks a deterministic team aborted (R315). -/
def execExit (f : RRR) (s : State) : Out :=
  issue (.exit f) s fun c => effect c fun s =>
    let s := if c.g.status == .handler then markAborted s c.r.team else s
    settleTickets (endThreads s c.r c.act) c.gr.id
/-- TRAP (R145). -/
def execTrap (f : RI) (s : State) : Out :=
  issue (.trap f) s fun c => if c.act = 0 then .go {} else .trap ⟨tcSwtrap, f.imm.toNat % 65536, 0, c.act, 0⟩
/-- BKPT (R145). -/
def execBkpt (f : RI) (s : State) : Out :=
  issue (.bkpt f) s fun c => if c.act = 0 then .go {} else .trap ⟨tcBkpt, f.imm.toNat % 65536, 0, c.act, 0⟩
/-- Operations whose fault a group took go on with its TRAPRET (R224, R271, R324); an entry whose cause is still pending waits for its
own. -/
def resumeOps (s : State) (r : GroupRef) : State :=
  let op (o : EngOp) : EngOp := if o.takenBy == some r.grp then { o with fault := none, takenBy := none } else o
  let due (e : Entry) : Bool := (groupAt s r).any fun g => g.pending.any fun c => c.kind == 3 && c.addr.toNat == 128 * e.line
  let entry (e : Entry) : Entry :=
    if e.takenBy == some r.grp && !(due e) then { e with takenBy := none, asked := false, failed := false } else e
  let copy (o : CopyOp) : CopyOp :=
    if o.team == r.team && o.takenBy == some r.grp then { o with fault := none, takenBy := none } else o
  { (updTeam s r.team fun t => { t with eops := t.eops.map op, tk := { t.tk with share := t.tk.share.map entry } }) with
    clusters := s.clusters.map fun (c : Cluster) => { c with copies := c.copies.map copy } }

/-- An access of the handler that the frame read of TRAPRET follows is not performed yet (R159, R221): a store to the frame by any of
its names (R258), in the queue or in the side log (R262). -/
def framePending (c : Ctx) : Bool :=
  let va := c.g.cause.tframe.toNat
  let phys (a : Nat) : Option Nat := match translate c.s c.t.part c.t.core a with | .ok pa _ _ => some pa | .err _ => none
  let meets (a n : Nat) : Bool := bytesMeet a n va 32768
    || match phys a, phys va with | some p, some f => bytesMeet p n f 32768 | _, _ => false
  (c.g.queue.any fun a => isMemOp a.opc && !isReadOp a.opc && !isFenceOp a.opc && !isWindowOp a.opc &&
    (lanesOf a.lanes).any fun l => meets (Lanes.at a.addr l 0).toNat (accBytes c.gr a))
  || ((slogOf c.s c.t.core).any fun e => e.team == c.r.team && e.grp == c.r.grp &&
    (lanesOf e.acc.lanes).any fun l => meets (Lanes.at e.acc.addr l 0).toNat e.acc.width)
  || c.t.tk.share.any fun e => e.kind != .store && bytesMeet (e.line * 128) 128 va 32768

/-- The group goes on as TRAPRET found it (R221): what handlers supplied for uniform registers is written, waits that the handler
completed leave their queues, the rest of what was held waits again, and with the last level the engines' operations resume (R224).
Requests behind a withdrawn ACCALLOC are granted (R217), and a team that closes with it may retire (R313). -/
def resumeGroup (c : Ctx) (g : Group) (uni : List (Nat × DWord)) (s : State) : State :=
  let s := updGroup s c.r fun _ => g
  let s := uni.foldl (fun s x => writeUni s c.r.team x.1 x.2) s
  let s := hqForget s c.r fun tok => (c.g.saved.head?.any fun v => v.held.any fun a => a.tok == tok)
    && !(g.queue.any fun a => a.tok == tok)
  let s := g.queue.foldl (fun s a => resumeWait s c.r a) s
  let s := if g.saved.isEmpty then resumeOps s c.r else s
  settleTickets (accGrant s c.t.core) c.gr.id

/-- TRAPRET (R146, R221). -/
def execTrapret (f : RRR) (s : State) : Out :=
  issue (.trapret f) s fun c =>
    if c.act = 0 then .go {}
    else if framePending c then .stall
    else match trapReturn c.s c.t c.gr c.g with
      | .unreadable => .go { post := fun s => mcheck s c.t.part }
      | .badTarget m pc => .trap ⟨tcBadtgt, 0, 0, m, pc⟩
      | .group g uni => .go { post := resumeGroup c g uni }

/-- The group after a yielder under the deterministic policy (R199). -/
def afterYield (t : Team) (k : Nat) : Nat :=
  let n := t.groups.length
  let ok (i : Nat) : Bool := (t.groups[i]?).any fun g => g.status == .ready || g.status == .handler
  (((List.range n).map fun i => (k + 1 + i) % n).find? fun i => i != k && ok i).getD k
/-- YIELD (R143, R199, R200). -/
def execYield (f : RRR) (s : State) : Out :=
  issue (.yield f) s fun c => effect c fun s =>
    let s := updGroup s c.r fun g => { g with yielded := true }
    if lrDetPolicy c.gr.lr then updTeam s c.r.team fun t => { t with curG := some (afterYield t c.r.grp) } else s

end Sys2Proof.Machine
end

