-- ==== Sys2Proof/Machine/Integer.lean ====
section
/-! DEFINITION. Integer, address and predicate instructions, opcodes 0x00 to 0x22 (R109 to R116). -/

namespace Sys2Proof.Machine

/-! Shared operations. -/

/-- The `.SAT` bit of the integer instructions, MOD[5] (R109). -/
def satBit {n : Nat} (m : BitVec n) : Bool := m.toNat.testBit 5

/-- An exact 32-bit result: wrapped, or clamped with IS under `.SAT` (R109). -/
def intRes (sg sat : Bool) (x : Int) : Nat × Flags :=
  if sat then
    let (c, out) := clamp x (intMin sg 32) (intMax sg 32)
    (wrap 32 c, flIf out flIS)
  else (wrap 32 x, 0)

/-- An operand as a number of the instruction's type (R109). -/
def asTy {n : Nat} (m : BitVec n) (x : Nat) : Int := intVal (modTy m).isSigned (modTy m).bits x

/-- A condition of R96 on exact numbers. -/
def ccHolds (k : Cc) (a b : Int) : Bool :=
  match k with
  | .eq => a == b
  | .ne => a != b
  | .lt => decide (a < b)
  | .le => decide (a ≤ b)
  | .gt => decide (b < a)
  | .ge => decide (b ≤ a)

/-- A predicate operand in MOD[lo + 3 : lo] (R107, R114). -/
def modPred {n : Nat} (m : BitVec n) (lo : Nat) : Pred := ⟨m.toNat.testBit (lo + 3), BitVec.ofNat 3 (modBits m lo 3)⟩

/-- A comparison combined with CP (R107). -/
def combine {n : Nat} (m : BitVec n) (t : Thread) (r : Bool) : Bool :=
  let p := predOf t (modPred m 7)
  match modBits m 5 2 with
  | 1 => r && p
  | 2 => r || p
  | 3 => r != p
  | _ => r

/-- A compare's predicate result, lane by lane. -/
def prdAct (c : Ctx) {n : Nat} (m : BitVec n) (f : Nat → Bool × Flags) : Act :=
  .go { prd := some fun l => combine m (threadAt c.g l) (f l).1, flags := laneFlags c.act fun l => (f l).2 }

/-- R111 for an operand of width `w` and a count. -/
def shiftVal (k : ShiftKind) (w a n : Nat) : Nat :=
  match k with
  | .l => if w ≤ n then 0 else (a <<< n) % 2 ^ w
  | .r => if w ≤ n then 0 else a >>> n
  | .ra => wrap w (signed w a / ((2 ^ min n w : Nat) : Int))
  | .rot => let r := n % w
            (a >>> r) + (a % 2 ^ r) <<< (w - r)

/-- The shift width of a type (R111). -/
def wideBits {n : Nat} (m : BitVec n) : Nat := if tyWide (modTy m) then 64 else 32

/-- The field of a control word: position and effective length (R112). -/
def fieldOf (ctl : Nat) : Nat × Nat :=
  let pos := ctl % 256
  let len := ctl / 256 % 256
  (pos, if 32 ≤ pos then 0 else min len (32 - pos))

/-- R112, BFE. -/
def bfeVal (sg : Bool) (a ctl : Nat) : Nat :=
  let (pos, len) := fieldOf ctl
  if len = 0 then 0 else wrap 32 (intVal sg len (a >>> pos))
/-- R112, BFI. -/
def bfiVal (a b ctl : Nat) : Nat :=
  let (pos, len) := fieldOf ctl
  if len = 0 then b else setField b pos len a

/-- R113: quotient and remainder. -/
def divVal (sg rem : Bool) (a b : Nat) : Nat :=
  let x := intVal sg 32 a
  let y := intVal sg 32 b
  if y = 0 then (if rem then wrap 32 x else 0xffffffff)
  else if rem then wrap 32 (x.tmod y) else wrap 32 (x.tdiv y)

/-- R115: the exact dot product. -/
def dotVal (sg : Bool) (a b c : Nat) : Int :=
  (List.range 4).foldl (fun r q => r + intVal sg 8 (byteOf a q) * intVal sg 8 (byteOf b q)) (intVal sg 32 c)

/-- R115: one output byte of PRMT. -/
def prmtByte (a b s : Nat) : Nat :=
  let x := byteOf (a + b * 2 ^ 32) (s % 8)
  match s / 16 % 4 with
  | 0 => x
  | 1 => 0
  | 2 => if 128 ≤ x then 0xff else 0
  | _ => 255 - x
@[inherit_doc prmtByte] def prmtVal (a b c : Nat) : Nat :=
  (List.range 4).foldl (fun r k => r + prmtByte a b (byteOf c k) * 256 ^ k) 0

/-- The cluster position of a team's core (R252, R253): L mod n, or the physical position for a one-core shape. -/
def cposOf (c : Ctx) : Nat :=
  let n := lrInst c.gr.lr
  if 2 ≤ n then c.r.team.lin % n
  else match clusterOfCore c.s c.t.core with
    | some k => k.w * (c.t.core % 48 / 8 - k.row0) + (c.t.core % 8 - k.col0)
    | none => 0

/-- A special register of a lane (R116); thread and team coordinates with x fastest (log entry 10). -/
def specialVal (c : Ctx) (n l : Nat) : Nat :=
  let b := c.gr.lr
  let tid := tidOf c.g l
  let lin := c.r.team.lin
  match n with
  | 0x00 => tid
  | 0x01 => tid % lrTx b
  | 0x02 => tid / lrTx b % lrTy b
  | 0x03 => tid / (lrTx b * lrTy b)
  | 0x04 => l
  | 0x05 => c.r.grp
  | 0x08 => lin % lrNtx b
  | 0x09 => lin / lrNtx b % lrNty b
  | 0x0a => lin / (lrNtx b * lrNty b)
  | 0x0c => lrNtx b
  | 0x0d => lrNty b
  | 0x0e => lrNtz b
  | 0x10 => match clusterOfCore c.s c.t.core with | some k => k.ref.idx | none => 0
  | 0x11 => cposOf c
  | 0x12 => c.t.core / 48
  | 0x13 => coreClass c.s c.t.core
  | 0x14 => c.t.part
  | 0x18 => lin
  | 0x19 => lrBranch b
  | _ => clockOf c.s c.t.part % 2 ^ 64

/-! Meanings. -/

/-- NOP (R109). -/
def execNop (f : RRR) (s : State) : Out := issue (.nop f) s fun _ => .go {}
/-- IADD (R109). -/
def execIadd (f : RRR) (s : State) : Out :=
  issue (.iadd f) s fun c => vecAct c fun l =>
    intRes (modTy f.mod).isSigned (satBit f.mod) (asTy f.mod (c.av l) + asTy f.mod (c.bv l))
/-- IADDI (R109). -/
def execIaddi (f : RI) (s : State) : Out :=
  issue (.iaddi f) s fun c => vecAct c fun l =>
    intRes (modTy f.mod).isSigned (satBit f.mod) (asTy f.mod (c.av l) + asTy f.mod f.imm.toNat)
/-- ISUB (R109). -/
def execIsub (f : RRR) (s : State) : Out :=
  issue (.isub f) s fun c => vecAct c fun l =>
    intRes (modTy f.mod).isSigned (satBit f.mod) (asTy f.mod (c.av l) - asTy f.mod (c.bv l))
/-- IMUL (R109). -/
def execImul (f : RRR) (s : State) : Out :=
  issue (.imul f) s fun c => vecAct c fun l =>
    intRes (modTy f.mod).isSigned (satBit f.mod) (asTy f.mod (c.av l) * asTy f.mod (c.bv l))
/-- IMULH (R109). -/
def execImulh (f : RRR) (s : State) : Out :=
  issue (.imulh f) s fun c => vecOf fun l =>
    bitsOf (wrap 64 (asTy f.mod (c.av l) * asTy f.mod (c.bv l))) 63 32
/-- IMAD (R109). -/
def execImad (f : RRR) (s : State) : Out :=
  issue (.imad f) s fun c => vecAct c fun l =>
    intRes (modTy f.mod).isSigned (satBit f.mod)
      (asTy f.mod (c.av l) * asTy f.mod (c.bv l) + asTy f.mod (c.cv l))
/-- IDIV (R113). -/
def execIdiv (f : RRR) (s : State) : Out :=
  issue (.idiv f) s fun c => vecOf fun l =>
    divVal (modTy f.mod).isSigned (f.mod.toNat.testBit 5) (c.av l) (c.bv l)
/-- IMIN (R109). -/
def execImin (f : RRR) (s : State) : Out :=
  issue (.imin f) s fun c => vecOf fun l =>
    wrap 32 (min (asTy f.mod (c.av l)) (asTy f.mod (c.bv l)))
/-- IMAX (R109). -/
def execImax (f : RRR) (s : State) : Out :=
  issue (.imax f) s fun c => vecOf fun l =>
    wrap 32 (max (asTy f.mod (c.av l)) (asTy f.mod (c.bv l)))
/-- IABS (R109). -/
def execIabs (f : RRR) (s : State) : Out :=
  issue (.iabs f) s fun c => vecAct c fun l =>
    intRes true (satBit f.mod) (signed 32 (c.av l)).natAbs
/-- ICMP (R109, R107). -/
def execIcmp (k : Cc) (f : RRR) (s : State) : Out :=
  issue (.icmp k f) s fun c => prdAct c f.mod fun l =>
    (ccHolds k (asTy f.mod (c.av l)) (asTy f.mod (c.bv l)), 0)
/-- ICMPI (R109, R107). -/
def execIcmpi (k : Cc) (f : RI) (s : State) : Out :=
  issue (.icmpi k f) s fun c => prdAct c f.mod fun l =>
    (ccHolds k (asTy f.mod (c.av l)) (asTy f.mod f.imm.toNat), 0)
/-- LOP3 (R110). -/
def execLop3 (f : RRR) (s : State) : Out :=
  issue (.lop3 f) s fun c => vecOf fun l => lop3 (modBits f.mod 0 8) (c.av l) (c.bv l) (c.cv l)
/-- LOPI (R110). -/
def execLopi (f : RI) (s : State) : Out :=
  issue (.lopi f) s fun c => vecOf fun l => lop3 (modBits f.mod 0 8) (c.av l) (c.bv l) f.imm.toNat
/-- SHF (R111). -/
def execShf (k : ShiftKind) (f : RRR) (s : State) : Out :=
  issue (.shf k f) s fun c => vecOf fun l => shiftVal k (wideBits f.mod) (c.av l) (c.bv l)
/-- SHFI (R111). -/
def execShfi (k : ShiftKind) (f : RI) (s : State) : Out :=
  issue (.shfi k f) s fun c => vecOf fun l => shiftVal k (wideBits f.mod) (c.av l) (f.imm.toNat % 128)
/-- BFE (R112). -/
def execBfe (f : RRR) (s : State) : Out :=
  issue (.bfe f) s fun c => vecOf fun l => bfeVal (modTy f.mod).isSigned (c.av l) (c.bv l)
/-- BFI (R112). -/
def execBfi (f : RRR) (s : State) : Out :=
  issue (.bfi f) s fun c => vecOf fun l => bfiVal (c.av l) (c.bv l) (c.cv l)
/-- POPC (R109). -/
def execPopc (f : RRR) (s : State) : Out := issue (.popc f) s fun c => vecOf fun l => popCount 64 (c.av l)
/-- CLZ (R109). -/
def execClz (f : RRR) (s : State) : Out :=
  issue (.clz f) s fun c => vecOf fun l => wideBits f.mod - bitLen (c.av l)
/-- BREV (R109). -/
def execBrev (f : RRR) (s : State) : Out :=
  issue (.brev f) s fun c => vecOf fun l => bitRev (wideBits f.mod) (c.av l)
/-- SEL (R109). -/
def execSel (f : RRR) (s : State) : Out :=
  issue (.sel f) s fun c => vecOf fun l => if predOf (threadAt c.g l) (modPred f.mod 5) then c.av l else c.bv l
/-- MOV (R109). -/
def execMov (f : RRR) (s : State) : Out := issue (.mov f) s fun c => vecOf fun l => c.av l
/-- MOVI (R109). -/
def execMovi (f : RI) (s : State) : Out :=
  issue (.movi f) s fun _ => vecOf fun _ =>
    if modTy f.mod == .i64 then wrap 64 (signed 32 f.imm.toNat) else f.imm.toNat
/-- MOVSR (R116). -/
def execMovsr (f : RI) (s : State) : Out := issue (.movsr f) s fun c => vecOf fun l => specialVal c f.imm.toNat l
/-- ADD64 (R109). -/
def execAdd64 (f : RRR) (s : State) : Out :=
  issue (.add64 f) s fun c => vecOf fun l => (c.av l + c.bv l) % 2 ^ 64
/-- ADD64I (R109). -/
def execAdd64i (f : RI) (s : State) : Out :=
  issue (.add64i f) s fun c => vecOf fun l => wrap 64 (c.av l + signed 32 f.imm.toNat)
/-- MAD64 (R109). -/
def execMad64 (f : RRR) (s : State) : Out :=
  issue (.mad64 f) s fun c => vecOf fun l =>
    let sg := (modTy f.mod).isSigned
    wrap 64 (intVal sg 32 (c.av l) * intVal sg 32 (c.bv l) + c.cv l)
/-- LEA (R109). -/
def execLea (f : RRR) (s : State) : Out :=
  issue (.lea f) s fun c => vecOf fun l =>
    wrap 64 (c.av l + asTy f.mod (c.bv l) * ((2 ^ modBits f.mod 5 3 : Nat) : Int))
/-- CMP64 (R109, R107). -/
def execCmp64 (k : Cc) (f : RRR) (s : State) : Out :=
  issue (.cmp64 k f) s fun c => prdAct c f.mod fun l =>
    (ccHolds k (asTy f.mod (c.av l)) (asTy f.mod (c.bv l)), 0)
/-- PSET (R114). -/
def execPset (f : RRR) (s : State) : Out :=
  issue (.pset f) s fun c =>
    let p (l lo : Nat) : Bool := predOf (threadAt c.g l) (modPred f.mod lo)
    .go { prd := some fun l => lut3 (modBits f.mod 0 8) (p l 8) (p l 12) (p l 16) }
/-- PMOV (R114): `.FROMV` writes the predicates its mask names. -/
def execPmov (f : RRR) (s : State) : Out :=
  issue (.pmov f) s fun c =>
    if f.mod.toNat.testBit 0 then
      let mask : BitVec 7 := BitVec.ofNat 7 (modBits f.mod 1 7)
      .go { post := fun s => updGroup s c.r fun g => updThreads g c.act fun l t =>
        { t with preds := (t.preds &&& ~~~mask) ||| (BitVec.ofNat 7 (c.av l) &&& mask) } }
    else vecOf fun l => (threadAt c.g l).preds.toNat + 128
/-- IDOT4 (R115). -/
def execIdot4 (f : RRR) (s : State) : Out :=
  issue (.idot4 f) s fun c => vecAct c fun l =>
    let sg := (modTy f.mod).isSigned
    intRes sg (satBit f.mod) (dotVal sg (c.av l) (c.bv l) (c.cv l))
/-- PRMT (R115). -/
def execPrmt (f : RRR) (s : State) : Out := issue (.prmt f) s fun c => vecOf fun l => prmtVal (c.av l) (c.bv l) (c.cv l)

end Sys2Proof.Machine
end

