-- ==== Sys2Proof/Machine/CrossLane.lean ====
section
/-! DEFINITION. Cross-lane instructions, serial regions, REHOME, LFSRSET and GJOIN, opcodes 0xa0 to 0xab (R178 to R189). -/

namespace Sys2Proof.Machine

/-! Trees (R46, R47). -/

/-- An operation on two values, with flags. -/
abbrev LaneOp := Nat → Nat → Nat × Flags

/-- Combine two values, either of which may be absent; lower lanes on the left. -/
def joinVals (op : LaneOp) (a b : Option Nat × Flags) : Option Nat × Flags :=
  match a.1, b.1 with
  | none, _ => (b.1, a.2 ||| b.2)
  | some _, none => (a.1, a.2 ||| b.2)
  | some x, some y => (some (op x y).1, a.2 ||| b.2 ||| (op x y).2)

/-- TREE over `2 ^ k` lanes from `lo` (R46). -/
def treeVal (op : LaneOp) (act : BitVec 32) (x : Nat → Nat) : Nat → Nat → Option Nat × Flags
  | 0, lo => (if act.getLsbD lo then some (x lo) else none, 0)
  | k + 1, lo => joinVals op (treeVal op act x k lo) (treeVal op act x k (lo + 2 ^ k))

/-- PREFIX up to lane `i` (R47). -/
def prefixVal (op : LaneOp) (act : BitVec 32) (x : Nat → Nat) (i : Nat) : Option Nat × Flags :=
  ([5, 4, 3, 2, 1, 0].foldl (fun (r : (Option Nat × Flags) × Nat) k =>
    if (i + 1).testBit k then (joinVals op r.1 (treeVal op act x k r.2), r.2 + 2 ^ k) else r) ((none, 0), 0)).1

/-- The combining step of SCAN and GRED by OP code (R181). -/
def scanOp (t : Ty) (op : Nat) (rm : RM) (sat : Bool) : LaneOp := fun a b =>
  let w := t.bits
  let sg := t.isSigned
  if t == .f32 || t == .f64 then
    match op with
    | 0 => fpAdd (Ty.fmt t) ⟨rm, false, false⟩ a b
    | 1 => fpMinMax (Ty.fmt t) false false a b
    | _ => fpMinMax (Ty.fmt t) true false a b
  else
    match op with
    | 0 =>
      let x := intVal sg w a + intVal sg w b
      if sat then ((wrap w (clamp x (intMin sg w) (intMax sg w)).1), flIf (clamp x (intMin sg w) (intMax sg w)).2 flIS)
      else (wrap w x, 0)
    | 1 => (if intVal sg w b < intVal sg w a then b else a, 0)
    | 2 => (if intVal sg w a < intVal sg w b then b else a, 0)
    | 3 => (a &&& b, 0)
    | 4 => (a ||| b, 0)
    | _ => (a ^^^ b, 0)

/-- The identity of an operation (R181). -/
def scanIdentity (t : Ty) (op : Nat) : Nat :=
  let w := t.bits
  if t == .f32 || t == .f64 then
    match op with
    | 0 => 0
    | 1 => (Ty.fmt t).infCode
    | _ => (Ty.fmt t).sign true (Ty.fmt t).infCode
  else
    match op with
    | 1 => wrap w (intMax t.isSigned w)
    | 2 => wrap w (intMin t.isSigned w)
    | 3 => 2 ^ w - 1
    | _ => 0

/-- OP and its type, rounding and saturation from MOD (R178). -/
def scanOpOf (m : BitVec 31) : LaneOp := scanOp (modTy m) (modBits m 5 3) (RM.get (modBits m 8 3)) (m.toNat.testBit 11)

/-- The operand of a lane at its type's width. -/
def laneIn (c : Ctx) (m : BitVec 31) (l : Nat) : Nat := c.av l % 2 ^ (modTy m).bits

/-- PICK of R182 on pairs, the value low and the index high. -/
def pickOp (wantMax : Bool) : LaneOp := fun a b =>
  let va := fmtF32.val (a % 2 ^ 32)
  let vb := fmtF32.val (b % 2 ^ 32)
  let beats (x y : FV) : Bool :=
    match fvCmp x y with
    | .gt => wantMax
    | .lt => !wantMax
    | .eq => x.isZero && y.isZero && x.neg != y.neg && (y.neg == wantMax)
  let r := if vb.isNan then a
    else if va.isNan then b
    else if beats vb va then b
    else if beats va vb then a
    else if b / 2 ^ 32 < a / 2 ^ 32 then b else a
  (r, 0)

/-- R182: every active lane receives the root. -/
def pickAct (c : Ctx) (m : BitVec 31) (wantMax : Bool) : Act :=
  let x (l : Nat) : Nat := c.av l % 2 ^ 32 + (if m.toNat.testBit 5 then l else c.bv l % 2 ^ 32) * 2 ^ 32
  let root := (treeVal (pickOp wantMax) c.act x 5 0).1.getD 0
  let r := if (fmtF32.val (root % 2 ^ 32)).isNan then 0x7fc00000 + 0xffffffff * 2 ^ 32 else root
  vecAct c fun l => (r, flIf (fmtF32.val (c.av l % 2 ^ 32)).isSig flNV)

/-- The weight of a lane and its flag (R183). -/
def weightOf (a : Nat) : Nat × Flags :=
  match fmtF32.val a with
  | .nan _ => (a, 0)
  | v => if v.neg then (0, flIf (!v.isZero) flNV) else (a, 0)

/-- R183: the lane drawn, and NV. -/
def sampleVal (act : BitVec 32) (a : Nat → Nat) (u : Nat) : Nat × Flags :=
  let w (l : Nat) : Nat := (weightOf (a l)).1
  let op : LaneOp := fpAdd fmtF32 ⟨.rne, false, false⟩
  let uv := fmtF32.val u
  let u := if uv.isNan || (uv.neg && !uv.isZero) then 0 else if fvCmp uv (fmtF32.val 0x3f800000) != .lt then 0x3f7fffff else u
  let tree := treeVal op act w 5 0
  let tot := tree.1.getD 0
  let fl := flIf uv.isSig flNV ||| (tree.2 &&& flNV)
  let pre (l : Nat) : FV := fmtF32.val ((prefixVal op act w l).1.getD 0)
  let tv := fmtF32.val tot
  if tv.isNan || tv.isZero then (32, fl)
  else if tv.isInf then (((lanesOf act).find? fun l => (pre l).isInf).getD 32, fl)
  else
    let t := fmtF32.val (fpMul fmtF32 ⟨.rne, false, false⟩ u tot).1
    match (lanesOf act).find? fun l => fvCmp (pre l) t == .gt with
    | some l => (l, fl)
    | none => (((lanesOf act).reverse.find? fun l => !(fmtF32.val (w l)).isZero).getD 32, fl)

/-- SHFL (R179): the lane whose value a lane receives. -/
def shflLane (k : ShflKind) (seg l b : Nat) : Nat :=
  let w := 32 >>> seg
  let base := l - l % w
  match k with
  | .idx => base + b % w
  | .up => if l - base < b then l else l - b
  | .down => if base + w - l ≤ b then l else l + b
  | .xor => base + ((l - base) ^^^ (b % w))
/-- SHFL (R179). -/
def execShfl (k : ShflKind) (f : RRR) (s : State) : Out :=
  issue (.shfl k f) s fun c => vecOf fun l => c.av (shflLane k (modBits f.mod 5 3) l (c.bv l))
/-- VOTE (R180). -/
def execVote (k : VoteKind) (f : RRR) (s : State) : Out :=
  issue (.vote k f) s fun c =>
    let p (l : Nat) : Bool := predOf (threadAt c.g l) (modPred f.mod 0)
    match k with
    | .all => .go { prd := some fun _ => (lanesOf c.act).all p }
    | .any => .go { prd := some fun _ => (lanesOf c.act).any p }
    | .bal => vecOf fun _ => (laneMask fun l => c.act.getLsbD l && p l).toNat
/-- SCAN (R181). -/
def execScan (k : ScanKind) (f : RRR) (s : State) : Out :=
  issue (.scan k f) s fun c =>
    vecAct c fun l =>
      let r := match k with
        | .inc => prefixVal (scanOpOf f.mod) c.act (laneIn c f.mod) l
        | .exc => if l = 0 then (none, 0) else prefixVal (scanOpOf f.mod) c.act (laneIn c f.mod) (l - 1)
      (r.1.getD (scanIdentity (modTy f.mod) (modBits f.mod 5 3)), r.2)
/-- GRED (R181). -/
def execGred (f : RRR) (s : State) : Out :=
  issue (.gred f) s fun c =>
    let r := treeVal (scanOpOf f.mod) c.act (laneIn c f.mod) 5 0
    vecAct c fun _ => (r.1.getD 0, r.2)
/-- FMAXI (R182). -/
def execFmaxi (f : RRR) (s : State) : Out := issue (.fmaxi f) s fun c => pickAct c f.mod true
/-- FMINI (R182). -/
def execFmini (f : RRR) (s : State) : Out := issue (.fmini f) s fun c => pickAct c f.mod false
/-- SAMPLE (R183). -/
def execSample (f : RRR) (s : State) : Out :=
  issue (.sample f) s fun c =>
    let a (l : Nat) : Nat := c.av l % 2 ^ 32
    let r := sampleVal c.act a (c.bv ((lowLane c.act).getD 0) % 2 ^ 32)
    vecAct c fun l => (r.1, r.2 ||| (weightOf (a l)).2)
/-- MATCH (R184). -/
def execMatchLanes (k : MatchKind) (f : RRR) (s : State) : Out :=
  issue (.matchLanes k f) s fun c =>
    match k with
    | .any => vecOf fun l => (laneMask fun j => c.act.getLsbD j && laneIn c f.mod j == laneIn c f.mod l).toNat
    | .all =>
      let l0 := (lowLane c.act).getD 0
      let same : Bool := (lanesOf c.act).all fun l => laneIn c f.mod l == laneIn c f.mod l0
      vecOf fun _ => if same then c.act.toNat else 0

/-- Hold the threads of a mask at a program counter (R185). -/
def holdAt (g : Group) (m : BitVec 32) (pc : DWord) : Group :=
  if m = 0 then g else { (updThreads g m fun _ t => { t with mark := .held, pc := pc, land := false }) with sel := true }

/-- LSER (R185). -/
def execLser (f : RRR) (s : State) : Out :=
  issue (.lser f) s fun c => effect c fun s => updGroup s c.r fun g =>
    if g.ser.opened then
      holdAt g (c.act &&& ~~~(laneMask fun l => l == g.ser.cur)) c.pc
    else
      let cur := (lowLane c.act).getD 0
      let e := pcNext c.pc
      { (holdAt g (c.act &&& ~~~(laneMask fun l => l == cur)) e) with ser := ⟨true, c.act, 0, cur, e⟩ }
/-- LSEND (R185). -/
def execLsend (f : RRR) (s : State) : Out :=
  issue (.lsend f) s fun c => effect c fun s => updGroup s c.r fun g =>
    if g.ser.opened && c.act.getLsbD g.ser.cur then
      let m := laneMask fun l => l == g.ser.cur
      serialNext { (holdAt g m (pcNext c.pc)) with ser := { g.ser with done := g.ser.done ||| m } }
    else g

/-- Whether some register, Cuff slot or latch of the group awaits its value (R187). -/
def anyEmpty (g : Group) : Bool :=
  (g.regs.any fun r => r.st == .empty) || (g.cuffs.toList.any fun c => c.await.isSome) || g.lx.await.isSome || g.ly.await.isSome

/-- Move the thread of lane `l` to lane `t` with everything it owns (R187). -/
def moveLane (g : Group) (l t : Nat) : Group :=
  { g with
    threads := Lanes.put (Lanes.put g.threads t (threadAt g l)) l { (threadAt g l) with present := false }
    regs := g.regs.map fun (r : VReg) => { r with vals := Lanes.put r.vals t (Lanes.at r.vals l 0) }
    cuffs := g.cuffs.map fun (c : CuffSlot) => { c with vals := Lanes.put c.vals t (Lanes.at c.vals l 0) }
    lx := { g.lx with vals := Lanes.put g.lx.vals t (Lanes.at g.lx.vals l 0) }
    ly := { g.ly with vals := Lanes.put g.ly.vals t (Lanes.at g.ly.vals l 0) } }

/-- REHOME (R187). -/
def execRehome (f : RRR) (s : State) : Out :=
  issue (.rehome f) s fun c =>
    if anyEmpty c.g then .stall
    else effect c fun s => updGroup s c.r fun g =>
      if g.ser.opened then g
      else (lanesOf c.act).foldl (fun g l =>
        let t := c.av l % 32
        if t == l || (threadAt g t).present then g else moveLane g l t) g
/-- LFSRSET (R188). -/
def execLfsrset (f : RI) (s : State) : Out :=
  issue (.lfsrset f) s fun c => effect c fun s => updGroup s c.r fun g =>
    { g with lfsr := BitVec.ofNat 16 (if f.mod.toNat.testBit 0 then c.av ((lowLane c.act).getD 0) else f.imm.toNat) }
/-- GJOIN (R189). -/
def execGjoin (f : RRR) (s : State) : Out :=
  issue (.gjoin f) s fun c => effect c fun s => updGroup s c.r fun g =>
    let joins : List Join := if g.joins.any fun j => j.pc == c.pc then g.joins else g.joins ++ [⟨c.pc, c.s.clk, false⟩]
    joinCheck { (updThreads g c.act fun _ t => { t with mark := .joined, pc := c.pc, land := false }) with
      sel := true, joins := joins }

end Sys2Proof.Machine
end

