-- ==== Sys2Proof/Machine/Csr.lean ====
section
/-! DEFINITION. Control registers: CSRR and CSRW, opcodes 0x6b and 0x6c (R147, R148), and the host's register writes (R395 to R398,
R411). -/

namespace Sys2Proof.Machine

/-- Bits `hi` to `lo` of a value, in their place. -/
def keepBits (v hi lo : Nat) : Nat := bitsOf v hi lo * 2 ^ lo

/-- HSUM (R276). -/
def hsum (s : State) : Nat :=
  let on := (List.range 384).filter fun c => coreEnabled s c
  on.length + 2 ^ 9 * (on.filter fun c => coreClass s c < 2).length

/-- The value of a register held once per package, partition or core (R147). -/
def sysRead (s : State) (part core n : Nat) : Nat :=
  let p := partOf s part
  let k := coreRegsOf s core
  if 0x180 ≤ n ∧ n ≤ 0x197 then hmapReg s (n - 0x180)
  else if 0x1c0 ≤ n ∧ n ≤ 0x1c4 then (budgetAt s (n - 0x1c0)).units + 2 ^ 32 * (budgetAt s (n - 0x1c0)).waits
  else match n with
    | 0x100 => p.tvbase.toNat
    | 0x110 => p.tlsbase.toNat
    | 0x111 => p.tlssize
    | 0x120 => p.tfbase.toNat
    | 0x140 => k.units + 2 ^ 32 * k.stalls
    | 0x150 => p.ptroot.toNat
    | 0x160 => k.cbClk + 2 ^ 32 * k.cbMax
    | 0x170 => p.poolbase.toNat
    | 0x171 => p.vocbase.toNat
    | 0x172 => 2 ^ 8 * b2n p.poolErr
    | 0x198 => hsum s
    | 0x1a0 => s.pkg.qbase
    | 0x1a1 => p.graphbase.toNat
    | 0x1a2 => s.pkg.ctxPart + 2 ^ 6 * b2n s.pkg.ctxBusy + 2 ^ 7 * b2n s.pkg.ctxErr + 2 ^ 8 * s.pkg.ctxReason
    | 0x1a3 => s.pkg.ctxaddr
    | 0x1a4 => s.pkg.qinfo + 2 ^ 8 * queueOcc s s.pkg.qinfo
    | 0x1a5 => s.pkg.partPart + 2 ^ 7 * b2n s.pkg.partErr + 2 ^ 8 * s.pkg.partReason
    | 0x1a6 => s.pkg.clmap
    | 0x1b0 => s.pkg.idrev.toNat
    | 0x1b1 => s.pkg.idser.toNat
    | 0x1b2 => s.pkg.iderr.toNat
    | 0x1b8 => s.fabric.pkg + 2 ^ 16 * s.fabric.accept.toNat + 2 ^ 32 * s.fabric.up.toNat
    | 0x1b9 => s.fabric.rtbase
    | 0x1ba => s.fabric.rbuf
    | _ => 0

/-- A write of POOLCTL (R336), by a group or by the host. -/
def poolctlWrite (s : State) (part v : Nat) (r : Option GroupRef) : State :=
  match bitsOf v 5 4 with
  | 1 => poolCreate s part (v % 16)
  | 2 => poolDestroy s part (v % 16) r
  | 3 => poolReserve s part (v % 16) (bitsOf v 63 32)
  | _ => s

/-- A write of FXCFG (R400): ports whose TRAIN bit is set start training. -/
def fxcfgWrite (s : State) (v : Nat) : State :=
  let s := { s with fabric := { s.fabric with pkg := v % 2 ^ 16, accept := BitVec.ofNat 16 (v / 2 ^ 16) } }
  ((List.range 16).filter fun k => abit v (48 + k) == 1).foldl (fun s k => setUp (putRetries s k 0) k false) s

/-- A write of a register held once per package, partition or core (R147): reserved and read-only bits keep their values. -/
def sysWrite (s : State) (part core n v : Nat) : State :=
  let put (f : Partition → Partition) : State := updPart s part f
  if 0x1c0 ≤ n ∧ n ≤ 0x1c4 then
    let u := if v % 2 ^ 32 = 0 ∧ 0x1c2 ≤ n then 1 else v % 2 ^ 32
    { s with budgets := modAt s.budgets (n - 0x1c0) fun (x : Budget) => { x with units := u, waits := 0 } }
  else match n with
    | 0x100 => put fun p => { p with tvbase := BitVec.ofNat 64 (keepBits v 56 8 + v % 2) }
    | 0x110 => put fun p => { p with tlsbase := BitVec.ofNat 64 (keepBits v 56 6) }
    | 0x111 => if 1024 < v % 2 ^ 11 then s else put fun p => { p with tlssize := v % 2 ^ 11 }
    | 0x120 => put fun p => { p with tfbase := BitVec.ofNat 64 (keepBits v 56 15) }
    | 0x140 => updCoreRegs s core fun c => { c with units := v % 2 ^ 32, stalls := 0 }
    | 0x150 => put fun p => { p with ptroot := BitVec.ofNat 64 (v % 2 ^ 52 + keepBits v 63 63) }
    | 0x160 => noteOcc (updCoreRegs s core fun c => { c with cbClk := 0, cbMax := 0 }) core
    | 0x170 => put fun p => { p with poolbase := BitVec.ofNat 64 (keepBits v 56 12) }
    | 0x171 => put fun p => { p with vocbase := BitVec.ofNat 64 (keepBits v 56 12) }
    | 0x172 => poolctlWrite s part v none
    | 0x1a0 => { s with pkg := { s.pkg with qbase := keepBits v 56 12 } }
    | 0x1a1 => put fun p => { p with graphbase := BitVec.ofNat 64 (keepBits v 56 12) }
    | 0x1a2 => ctxctlWrite s v
    | 0x1a3 => putCtxaddr s v
    | 0x1a4 => { s with pkg := { s.pkg with qinfo := v % 64 } }
    | 0x1a5 => partctlWrite s v
    | 0x1a6 => { s with pkg := { s.pkg with clmap := keepBits v 51 12 } }
    | 0x1b8 => fxcfgWrite s v
    | 0x1b9 => { s with fabric := { s.fabric with rtbase := keepBits v 51 17 } }
    | 0x1ba => { s with fabric := { s.fabric with rbuf := v % 2 ^ 16 + keepBits v 51 20 } }
    | _ => s

/-- DIEID (R278). -/
def dieid (g : Grid) (lin : Nat) : Nat :=
  if lrNdie g.lr = 0 then 0 else logicalDie g lin % 8 + 2 ^ 3 * (lrNdie g.lr - 1) + 2 ^ 6

/-- The value of any control register for an issuing group (R147). -/
def csrRead (c : Ctx) (n : Nat) : Nat :=
  if 0x030 ≤ n ∧ n ≤ 0x03f then (c.gr.ds.getD (n - 0x030) 0).toNat
  else match n with
    | 0x010 => c.g.fpstat.toNat
    | 0x011 => c.t.regs.mstat.toNat
    | 0x020 => c.t.regs.bartmo.toNat
    | 0x021 => dieid c.gr c.r.team.lin
    | 0x130 => c.g.cause.tcause.toNat
    | 0x131 => c.g.cause.tpoint.toNat
    | 0x132 => c.g.cause.tresume.toNat
    | 0x133 => c.g.cause.tlanes.toNat
    | 0x134 => c.g.cause.taddr.toNat
    | 0x135 => c.g.cause.tframe.toNat
    | _ => sysRead c.s c.t.part c.t.core n

/-- The write of any control register for an issuing group (R147). -/
def csrWrite (s : State) (r : GroupRef) (part core n v : Nat) : State :=
  match n with
  | 0x010 => updGroup s r fun g => { g with fpstat := BitVec.ofNat 6 v }
  | 0x011 => updRegs s r.team fun t => { t with mstat := BitVec.ofNat 6 v }
  | 0x020 => updRegs s r.team fun t => { t with bartmo := BitVec.ofNat 32 (max 1024 (v % 2 ^ 32)) }
  | 0x172 => poolctlWrite s part v (some r)
  | _ => sysWrite s part core n v

/-- CSRR (R147, R148). -/
def execCsrr (f : RI) (s : State) : Out :=
  issue (.csrr f) s fun c => vecOf fun _ => csrRead c f.imm.toNat

/-- The value that CSRW writes (R147). -/
def csrNew (k : CsrOp) (old a w : Nat) : Nat :=
  match k with
  | .write => a
  | .set => old ||| a
  | .clr => old &&& (2 ^ w - 1 - a % 2 ^ w)

/-- CSRW (R147, R148): A of the lowest active lane. -/
def execCsrw (k : CsrOp) (f : RI) (s : State) : Out :=
  issue (.csrw k f) s fun c =>
    let n := f.imm.toNat
    let w := (csrWidth n).getD 32
    effect c fun s =>
      csrWrite s c.r c.t.part c.t.core n (csrNew k (csrRead c n) (c.av ((lowLane c.act).getD 0) % 2 ^ w) w)

/-! The host's registers. -/

/-- Registers that are held once per core. -/
def perCoreReg (n : Nat) : Bool := n == 0x140 || n == 0x160
/-- Registers held per group or team, which the host window does not reach (R397). -/
def perTeamReg (n : Nat) : Bool := decide (n < 0x100) || (decide (0x130 ≤ n) && decide (n ≤ 0x135))

/-- A write through the window of R397. -/
def windowWrite (s : State) (n v : Nat) : State :=
  let sel := s.host.csrsel.toNat
  let core := bitsOf sel 24 16
  if (csrWidth n).isNone || perTeamReg n || (perCoreReg n && !(coreEnabled s core)) then s
  else sysWrite s (sel % 16) core n (v % 2 ^ ((csrWidth n).getD 64))

/-- A read through the window of R397: as CSRR by privileged code. -/
def windowRead (s : State) (n : Nat) : Nat :=
  let sel := s.host.csrsel.toNat
  let core := bitsOf sel 24 16
  if (csrWidth n).isNone || perTeamReg n || (perCoreReg n && !(coreEnabled s core)) then 0
  else sysRead s (sel % 16) core n

/-- MBSTAT (R411). -/
def mbstat (s : State) : Nat :=
  (match s.boot.mbst with | .idle => 0 | .busy => 1 | .done => 2 | .error => 3) + 2 ^ 8 * s.boot.mberr + 2 ^ 16 * b2n s.boot.recovery
    + 2 ^ 32 * (mbProgress s % 2 ^ 16)

/-- What the host reads of BAR0 (R395 to R398, R411, R412): aligned 8-byte reads; others, fields that the host only writes, and in
recovery everything but the mailbox and the identity registers read zero (log entry 105). -/
def hostRegisterRead (s : State) (off n : Nat) : Nat :=
  if n ≠ 8 ∨ off % 8 ≠ 0 then 0
  else if off < 0x18 then sysRead s 0 0 (0x1b0 + off / 8)
  else match off with
    | 0x2008 => s.boot.mbaddr.toNat
    | 0x2010 => s.boot.mblen.toNat
    | 0x2018 => mbstat s
    | _ =>
      if s.boot.recovery then 0
      else if 0x10000 ≤ off ∧ off < 0x14000 then
        let w := windowOf s ((off - 0x10000) / 256)
        if off % 256 < 128 then ofBytes ((w.bytes.drop (off % 256)).take 8)
        else if off % 256 = 0x88 then w.status + 2 ^ 8 * w.reason
        else 0
      else if 0x80000 ≤ off then windowRead s ((off - 0x80000) / 8)
      else match off with
        | 0x1000 => s.host.prqbase.toNat
        | 0x1008 => s.host.prqhead.toNat
        | 0x1010 => s.host.prqtail.toNat
        | 0x1030 => keepBits s.host.hinv1.toNat 63 63
        | 0x1040 => s.host.mgstat.toNat
        | 0x3000 => s.host.csrsel.toNat
        | _ => 0

/-- A write of MGSTAT clears the bits that are 1 (R398). -/
def mgstatWrite (s : State) (v : Nat) : State :=
  { s with host := { s.host with
    mgstat := s.host.mgstat &&& ~~~(BitVec.ofNat 5 v)
    corrected := if abit v 4 = 1 then 0 else s.host.corrected } }

/-- An aligned 8-byte write of a BAR0 register (R395 to R398, R411); the mailbox's command is not among them. -/
def hostRegister (s : State) (off : Nat) (v : DWord) : State :=
  let w := v.toNat
  if off = 0x2008 then { s with boot := { s.boot with mbaddr := v } }
  else if off = 0x2010 then { s with boot := { s.boot with mblen := v.setWidth 32 } }
  else if off % 8 ≠ 0 ∨ s.boot.recovery = true then s
  else if 0x10000 ≤ off ∧ off < 0x14000 then
    let q := (off - 0x10000) / 256
    let k := off % 256
    if k < 128 then updWindow s q fun x => { x with bytes := x.bytes.take k ++ toBytes 8 w ++ x.bytes.drop (k + 8) }
    else if k = 128 then doorbell s q
    else s
  else if 0x80000 ≤ off then windowWrite s ((off - 0x80000) / 8) w
  else match off with
    | 0x1000 => { s with host := { s.host with prqbase := BitVec.ofNat 64 (w % 16 + keepBits w 63 12) } }
    | 0x1010 => prqtailWrite s v
    | 0x1018 => { s with host := { s.host with presp0 := v } }
    | 0x1020 => prespWrite s v
    | 0x1028 => { s with host := { s.host with hinv0 := v } }
    | 0x1030 => hinvWrite s v
    | 0x1040 => mgstatWrite s w
    | 0x3000 => { s with host := { s.host with csrsel := BitVec.ofNat 64 (w % 16 + keepBits w 24 16) } }
    | _ => s

/-- HOST_REGISTER_WRITE (R395 to R398, R411). -/
def execHostRegisterWrite (off : Nat) (v : DWord) (s : State) : Out :=
  if off = 0x2000 then mbcmdWrite s v.toNat else bootEvent s true fun s => hostRegister s off v

end Sys2Proof.Machine
end

