-- ==== Sys2Proof/Machine/FloatInstr.lean ====
section
/-! DEFINITION. Floating-point, conversion, packing and random-number instructions, opcodes 0x30 to 0x4a (R117 to R134). -/

namespace Sys2Proof.Machine

/-! Shared operations. -/

/-- RM, FTZ and SAT of the arithmetic instructions (R117). -/
def fpMod {n : Nat} (m : BitVec n) : FpMod := ⟨RM.get (modBits m 5 3), m.toNat.testBit 8, m.toNat.testBit 9⟩

/-- ABS and NEG of operand `k` (0 A, 1 B, 2 C), on every element (R117). -/
def opndSign {n : Nat} (m : BitVec n) (k x : Nat) : Nat :=
  (byElem1 (modTy m) (fun f c => (absNeg f (m.toNat.testBit (13 + k)) (m.toNat.testBit (10 + k)) c, 0)) x).1

/-- Modifiers without `.SAT`, for the instructions that have none. -/
def fpModNoSat {n : Nat} (m : BitVec n) : FpMod := { fpMod m with sat := false }

/-- A lane of a special function (R121 to R127). -/
def specialAct (c : Ctx) (k : SpecialFn) (m : BitVec 31) : Act := vecAct c fun l => specialLane k (m.toNat.testBit 8) (c.av l)

/-- CVT and CVTI of one lane (R128): the element at SPOS, placed at DPOS of the merge operand. -/
def cvtLane (m : BitVec 31) (conv : Nat → Nat × Flags) (a base : Nat) : Nat × Flags :=
  let r := conv (elemAt (modSty m) (modBits m 17 3) a)
  (elemPut (modTy m) (modBits m 14 3) base r.1, r.2)

/-! Meanings. -/

/-- FADD (R117). -/
def execFadd (f : RRR) (s : State) : Out :=
  issue (.fadd f) s fun c => vecAct c fun l =>
    byElem2 (modTy f.mod) (fun t => fpAdd t (fpMod f.mod)) (opndSign f.mod 0 (c.av l)) (opndSign f.mod 1 (c.bv l))
/-- FMUL (R117). -/
def execFmul (f : RRR) (s : State) : Out :=
  issue (.fmul f) s fun c => vecAct c fun l =>
    byElem2 (modTy f.mod) (fun t => fpMul t (fpMod f.mod)) (opndSign f.mod 0 (c.av l)) (opndSign f.mod 1 (c.bv l))
/-- FFMA (R117). -/
def execFfma (f : RRR) (s : State) : Out :=
  issue (.ffma f) s fun c => vecAct c fun l =>
    byElem3 (modTy f.mod) (fun t => fpFma t (fpMod f.mod)) (opndSign f.mod 0 (c.av l)) (opndSign f.mod 1 (c.bv l))
      (opndSign f.mod 2 (c.cv l))
/-- FMIN (R118). -/
def execFmin (f : RRR) (s : State) : Out :=
  issue (.fmin f) s fun c => vecAct c fun l =>
    byElem2 (modTy f.mod) (fun t => fpMinMax t false (f.mod.toNat.testBit 8)) (c.av l) (c.bv l)
/-- FMAX (R118). -/
def execFmax (f : RRR) (s : State) : Out :=
  issue (.fmax f) s fun c => vecAct c fun l =>
    byElem2 (modTy f.mod) (fun t => fpMinMax t true (f.mod.toNat.testBit 8)) (c.av l) (c.bv l)
/-- FCMP (R119, R107). -/
def execFcmp (k : Fcc) (f : RRR) (s : State) : Out :=
  issue (.fcmp k f) s fun c => prdAct c f.mod fun l =>
    fpCmp (Ty.fmt (modTy f.mod)) k (f.mod.toNat.testBit 11) (c.av l) (c.bv l)
/-- FCLASS (R120). -/
def execFclass (f : RRR) (s : State) : Out :=
  issue (.fclass f) s fun c => vecOf fun l => fpClass (Ty.fmt (modTy f.mod)) (c.av l)
/-- FSCALE (R117). -/
def execFscale (f : RRR) (s : State) : Out :=
  issue (.fscale f) s fun c => vecAct c fun l =>
    fpScale (Ty.fmt (modTy f.mod)) (fpModNoSat f.mod) (c.av l) (c.bv l)
/-- FRND (R117). -/
def execFrnd (f : RRR) (s : State) : Out :=
  issue (.frnd f) s fun c => vecAct c fun l => fpRound (Ty.fmt (modTy f.mod)) (RM.get (modBits f.mod 5 3)) (c.av l)
/-- FDIV (R121). -/
def execFdiv (f : RRR) (s : State) : Out :=
  issue (.fdiv f) s fun c => vecAct c fun l => fpDiv (Ty.fmt (modTy f.mod)) (fpModNoSat f.mod) (c.av l) (c.bv l)
/-- FSQRT (R121). -/
def execFsqrt (f : RRR) (s : State) : Out :=
  issue (.fsqrt f) s fun c => vecAct c fun l => fpSqrt (Ty.fmt (modTy f.mod)) (fpModNoSat f.mod) (c.av l)
/-- FRCP (R124). -/
def execFrcp (f : RRR) (s : State) : Out := issue (.frcp f) s fun c => specialAct c .rcp f.mod
/-- FRSQ (R125). -/
def execFrsq (f : RRR) (s : State) : Out := issue (.frsq f) s fun c => specialAct c .rsq f.mod
/-- FEXP2 (R123). -/
def execFexp2 (f : RRR) (s : State) : Out := issue (.fexp2 f) s fun c => specialAct c .exp2 f.mod
/-- FLOG2 (R124). -/
def execFlog2 (f : RRR) (s : State) : Out := issue (.flog2 f) s fun c => specialAct c .log2 f.mod
/-- FSIN (R126). -/
def execFsin (f : RRR) (s : State) : Out := issue (.fsin f) s fun c => specialAct c .sin f.mod
/-- FCOS (R126). -/
def execFcos (f : RRR) (s : State) : Out := issue (.fcos f) s fun c => specialAct c .cos f.mod
/-- FTANH (R127). -/
def execFtanh (f : RRR) (s : State) : Out := issue (.ftanh f) s fun c => specialAct c .tanh f.mod
/-- CVT (R41, R42, R128). -/
def execCvt (f : RRR) (s : State) : Out :=
  issue (.cvt f) s fun c => vecAct c fun l =>
    cvtLane f.mod (cvtCode (modTy f.mod) (modSty f.mod) (RM.get (modBits f.mod 10 3)) (f.mod.toNat.testBit 13))
      (c.av l) (c.bv l)
/-- CVTI (R42, R128). -/
def execCvti (f : RRR) (s : State) : Out :=
  issue (.cvti f) s fun c => vecAct c fun l =>
    cvtLane f.mod (cvtInt (modTy f.mod) (modSty f.mod) (f.mod.toNat.testBit 13)) (c.av l) (c.bv l)
/-- CVTSR (R129). -/
def execCvtsr (f : RRR) (s : State) : Out :=
  issue (.cvtsr f) s fun c => vecAct c fun l =>
    cvtLane f.mod (fun x => cvtStoch (modTy f.mod) (modSty f.mod) (f.mod.toNat.testBit 13) x (c.bv l)) (c.av l) (c.cv l)
/-- BXPACK (R130). -/
def execBxpack (f : RRR) (s : State) : Out :=
  issue (.bxpack f) s fun c => vecAct c fun l =>
    bxPackLane (modTy f.mod) (modSty f.mod) (f.mod.toNat.testBit 10) (c.av l) (c.bv l)
/-- BXUNP (R130). -/
def execBxunp (f : RRR) (s : State) : Out :=
  issue (.bxunp f) s fun c => vecAct c fun l =>
    bxUnpLane (modTy f.mod) (modSty f.mod) (modBits f.mod 10 2) (RM.get (modBits f.mod 12 3)) (c.av l) (c.bv l)
/-- FADDI (R117). -/
def execFaddi (f : RI) (s : State) : Out :=
  issue (.faddi f) s fun c => vecAct c fun l =>
    byElem2 (modTy f.mod) (fun t => fpAdd t (fpMod f.mod))
      (byElem1 (modTy f.mod) (fun t x => (absNeg t false (f.mod.toNat.testBit 10) x, 0)) (c.av l)).1 f.imm.toNat
/-- FMULI (R117). -/
def execFmuli (f : RI) (s : State) : Out :=
  issue (.fmuli f) s fun c => vecAct c fun l =>
    byElem2 (modTy f.mod) (fun t => fpMul t (fpMod f.mod))
      (byElem1 (modTy f.mod) (fun t x => (absNeg t false (f.mod.toNat.testBit 10) x, 0)) (c.av l)).1 f.imm.toNat
/-- RNGDRAW (R131, R132): the draw, and the counter quad B plus one. With no active lane the counter quad
stays as it is, its Cuff tags too (DESIGN CHOICE, log entry 116). -/
def execRngdraw (f : RRR) (s : State) : Out :=
  issue (.rngdraw f) s fun c =>
    let n := match f.sb with | .file n _ _ => n | _ => 0
    .go {
      vec := some fun l => BitVec.ofNat 128 (rngBlock (c.av l) (c.bv l))
      post := fun s => updGroup s c.r fun g =>
        if c.act = 0 then g
        else writeVec g ⟨n, false, false, 0⟩ 4 true false c.act fun l => BitVec.ofNat 128 (c.bv l + 1) }
/-- RNGSKIP (R133). -/
def execRngskip (f : RRR) (s : State) : Out :=
  issue (.rngskip f) s fun c => vecOf fun l => (c.av l + c.bv l) % 2 ^ 128

end Sys2Proof.Machine
end

