-- ==== Sys2Proof/Machine/QueueEvents.lean ====
section
/-! DEFINITION. The events that perform entries of the groups' access queues (R153, R161, R162, R242, R317, R380, R403). -/

namespace Sys2Proof.Machine

/-- What trying entry `k` of a group's queue gives: the memory unit, a heap read, an enqueue, a fabric message or a request; a ticket
may have waited for it (R313). -/
def entryTry (s : State) (r : GroupRef) (k : Nat) (turn : Bool) : Option State :=
  match entryAt s r k with
  | none => none
  | some a => Option.map (fun s => settleTickets s r.team.grid) <|
    if isMemOp a.opc then
      match tryAccess s r k turn with
      | .done t => some t
      | _ => none
    else if a.opc == 0xda then heapTry s r a
    else if a.opc == 0xeb then lnchTry s r k turn
    else if isFabric a.opc then fabTry s r k turn
    else requestTry s r k turn

/-- An entry whose result comes back to registers. -/
def givesResult (a : Access) : Bool := returnsData a || a.opc == 0xda || a.opc == 0xeb || a.opc == 0xfb

/-- Entry `k` may be performed: its group's partition runs, or an engine operation waits for it. -/
def entryGoes (s : State) (r : GroupRef) (k : Nat) : Bool := partRuns s r.team || haltRuns s r k

def canLoadCompletion (s : State) (r : GroupRef) (k : Nat) : Bool :=
  (match entryAt s r k with | some a => givesResult a | none => false) && entryGoes s r k && (entryTry s r k false).isSome
/-- LOAD_COMPLETION (R153, R161): an entry with a result performs and returns its data, or meets its fault. -/
def execLoadCompletion (g : GroupRef) (k : Nat) (s : State) : Out :=
  event s (canLoadCompletion s g k) fun s => (entryTry s g k false).getD s

def canAccessRetirement (s : State) (r : GroupRef) (k : Nat) : Bool :=
  (match entryAt s r k with | some a => !givesResult a && !isRequest a.opc | none => false) && entryGoes s r k
    && (entryTry s r k false).isSome
/-- ACCESS_RETIREMENT (R162): an entry without a result performs and retires, or meets its fault. -/
def execAccessRetirement (g : GroupRef) (k : Nat) (s : State) : Out :=
  event s (canAccessRetirement s g k) fun s => (entryTry s g k false).getD s

/-- The position of the waiting operation of a group that was issued first (R317). -/
def firstWaiting (g : Group) : Option (Nat × Access) :=
  (g.queue.zipIdx).foldl (fun r x =>
    if x.1.stage == 2 && x.1.fault.isNone then
      match r with
      | some y => if x.1.born < y.2.born then some (x.2, x.1) else some y
      | none => some (x.2, x.1)
    else r) none

/-- The waiting operation of a group is at its turn (R317): its ticket is the head, and nothing buffered or waiting of its team was
issued before it. -/
def waitingTurn (s : State) (r : GroupRef) : Option State :=
  match teamAt s r.team, groupAt s r, gridAt s r.team.grid with
  | some t, some g, some gr =>
    match firstWaiting g with
    | some (k, a) =>
      if partRuns s r.team && isHead gr r.team.lin && (t.tk.share.all fun e => decide (a.born < e.born))
          && (waitingBorn s t ++ drainBorn t).all fun b => decide (a.born ≤ b) then
        entryTry s r k true
      else none
    | none => none
  | _, _, _ => none

def canWaitingOpPerform (s : State) (r : GroupRef) : Bool := (waitingTurn s r).isSome
/-- WAITING_OP_PERFORM (R317). -/
def execWaitingOpPerform (g : GroupRef) (s : State) : Out :=
  event s (canWaitingOpPerform s g) fun s => (waitingTurn s g).getD s

end Sys2Proof.Machine
end

