-- ==== Sys2Proof/Machine/Uniform.lean ====
section
/-! DEFINITION. Uniform instructions, opcodes 0xb0 to 0xb6 (R194 to R196). -/

namespace Sys2Proof.Machine

/-- Width of a uniform type. -/
def uniBits {n : Nat} (m : BitVec n) : Nat := if tyWide (modTy m) then 64 else 32

/-- A 32- or 64-bit result in a uniform register (R196). -/
def uniRes {n : Nat} (m : BitVec n) (x : Nat) : DWord :=
  BitVec.ofNat 64 (if tyWide (modTy m) then x
    else if (modTy m).isSigned then wrap 64 (signed 32 x) else x % 2 ^ 32)

/-- An immediate at the type's width (R196). -/
def uniImm {n : Nat} (m : BitVec n) (imm : Word) : Nat :=
  if (modTy m).isSigned then wrap (uniBits m) (signed 32 imm.toNat) else imm.toNat

/-- The second operand: sB or the immediate. -/
def uniB (c : Ctx) (f : RI) : Nat := if f.mod.toNat.testBit 5 then c.bv 0 % 2 ^ uniBits f.mod else uniImm f.mod f.imm

/-- A uniform result, with an active lane only. -/
def uniAct (c : Ctx) (v : DWord) : Act := if c.act = 0 then .go {} else .go { uni := some v }

/-- UMOV (R196). -/
def execUmov (f : RI) (s : State) : Out :=
  issue (.umov f) s fun c =>
    uniAct c (uniRes f.mod (if f.mod.toNat.testBit 5 then c.av 0 % 2 ^ uniBits f.mod else uniImm f.mod f.imm))
/-- UADD (R196). -/
def execUadd (f : RI) (s : State) : Out :=
  issue (.uadd f) s fun c => uniAct c (uniRes f.mod ((c.av 0 + uniB c f) % 2 ^ uniBits f.mod))
/-- UMAD (R196). -/
def execUmad (f : RRR) (s : State) : Out :=
  issue (.umad f) s fun c => uniAct c (uniRes f.mod ((c.av 0 * c.bv 0 + c.cv 0) % 2 ^ uniBits f.mod))
/-- ULOP3 (R196): all 64 bits. -/
def execUlop3 (f : RRR) (s : State) : Out :=
  issue (.ulop3 f) s fun c =>
    let lut := modBits f.mod 0 8
    let lo := lop3 lut (c.av 0) (c.bv 0) (c.cv 0)
    let hi := lop3 lut (c.av 0 / 2 ^ 32) (c.bv 0 / 2 ^ 32) (c.cv 0 / 2 ^ 32)
    uniAct c (BitVec.ofNat 64 (lo + hi * 2 ^ 32))
/-- The shift kind in MOD[7:6] (R196). -/
def shiftKindOf (n : Nat) : ShiftKind :=
  match n with
  | 0 => .l
  | 1 => .r
  | 2 => .ra
  | _ => .rot
/-- USHF (R196). -/
def execUshf (f : RI) (s : State) : Out :=
  issue (.ushf f) s fun c =>
    let w := uniBits f.mod
    let n := if f.mod.toNat.testBit 5 then c.bv 0 % 2 ^ 32 else f.imm.toNat % 128
    uniAct c (uniRes f.mod (shiftVal (shiftKindOf (modBits f.mod 6 2)) w (c.av 0 % 2 ^ w) n))
/-- The condition in MOD[8:6] (R196). -/
def ccOf (n : Nat) : Cc :=
  match n with
  | 0 => .eq
  | 1 => .ne
  | 2 => .lt
  | 3 => .le
  | 4 => .gt
  | _ => .ge
/-- UCMP (R196). -/
def execUcmp (f : RI) (s : State) : Out :=
  issue (.ucmp f) s fun c =>
    uniAct c (if ccHolds (ccOf (modBits f.mod 6 3)) (asTy f.mod (c.av 0)) (asTy f.mod (uniB c f)) then 1 else 0)
/-- UOWN (R194): the transfer is pending on a barrier. -/
def execUown (f : RI) (s : State) : Out :=
  issue (.uown f) s fun c => effect c fun s =>
    let i := f.imm.toNat
    updRegs s c.r.team fun r => { r with xfer := r.xfer.set (i % 64) (some (bitsOf i 10 6, bitsOf i 14 11)) }

end Sys2Proof.Machine
end

