-- ==== Sys2Proof/Machine/Dispatch.lean ====
section
/-! DEFINITION. Dispatch: one arm for each constructor of `Instr`. -/

namespace Sys2Proof.Machine

/-- The meaning of one instruction or event. -/
def exec (i : Instr) (s : State) : Host.Outcome State Fault Refusal :=
  match i with
  | .nop f => Sys2Proof.Machine.execNop f s
  | .iadd f => Sys2Proof.Machine.execIadd f s
  | .iaddi f => Sys2Proof.Machine.execIaddi f s
  | .isub f => Sys2Proof.Machine.execIsub f s
  | .imul f => Sys2Proof.Machine.execImul f s
  | .imulh f => Sys2Proof.Machine.execImulh f s
  | .imad f => Sys2Proof.Machine.execImad f s
  | .idiv f => Sys2Proof.Machine.execIdiv f s
  | .imin f => Sys2Proof.Machine.execImin f s
  | .imax f => Sys2Proof.Machine.execImax f s
  | .iabs f => Sys2Proof.Machine.execIabs f s
  | .icmp k f => Sys2Proof.Machine.execIcmp k f s
  | .icmpi k f => Sys2Proof.Machine.execIcmpi k f s
  | .lop3 f => Sys2Proof.Machine.execLop3 f s
  | .lopi f => Sys2Proof.Machine.execLopi f s
  | .shf k f => Sys2Proof.Machine.execShf k f s
  | .shfi k f => Sys2Proof.Machine.execShfi k f s
  | .bfe f => Sys2Proof.Machine.execBfe f s
  | .bfi f => Sys2Proof.Machine.execBfi f s
  | .popc f => Sys2Proof.Machine.execPopc f s
  | .clz f => Sys2Proof.Machine.execClz f s
  | .brev f => Sys2Proof.Machine.execBrev f s
  | .sel f => Sys2Proof.Machine.execSel f s
  | .mov f => Sys2Proof.Machine.execMov f s
  | .movi f => Sys2Proof.Machine.execMovi f s
  | .movsr f => Sys2Proof.Machine.execMovsr f s
  | .add64 f => Sys2Proof.Machine.execAdd64 f s
  | .add64i f => Sys2Proof.Machine.execAdd64i f s
  | .mad64 f => Sys2Proof.Machine.execMad64 f s
  | .lea f => Sys2Proof.Machine.execLea f s
  | .cmp64 k f => Sys2Proof.Machine.execCmp64 k f s
  | .pset f => Sys2Proof.Machine.execPset f s
  | .pmov f => Sys2Proof.Machine.execPmov f s
  | .idot4 f => Sys2Proof.Machine.execIdot4 f s
  | .prmt f => Sys2Proof.Machine.execPrmt f s
  | .fadd f => Sys2Proof.Machine.execFadd f s
  | .fmul f => Sys2Proof.Machine.execFmul f s
  | .ffma f => Sys2Proof.Machine.execFfma f s
  | .fmin f => Sys2Proof.Machine.execFmin f s
  | .fmax f => Sys2Proof.Machine.execFmax f s
  | .fcmp k f => Sys2Proof.Machine.execFcmp k f s
  | .fclass f => Sys2Proof.Machine.execFclass f s
  | .fscale f => Sys2Proof.Machine.execFscale f s
  | .frnd f => Sys2Proof.Machine.execFrnd f s
  | .fdiv f => Sys2Proof.Machine.execFdiv f s
  | .fsqrt f => Sys2Proof.Machine.execFsqrt f s
  | .frcp f => Sys2Proof.Machine.execFrcp f s
  | .frsq f => Sys2Proof.Machine.execFrsq f s
  | .fexp2 f => Sys2Proof.Machine.execFexp2 f s
  | .flog2 f => Sys2Proof.Machine.execFlog2 f s
  | .fsin f => Sys2Proof.Machine.execFsin f s
  | .fcos f => Sys2Proof.Machine.execFcos f s
  | .ftanh f => Sys2Proof.Machine.execFtanh f s
  | .cvt f => Sys2Proof.Machine.execCvt f s
  | .cvti f => Sys2Proof.Machine.execCvti f s
  | .cvtsr f => Sys2Proof.Machine.execCvtsr f s
  | .bxpack f => Sys2Proof.Machine.execBxpack f s
  | .bxunp f => Sys2Proof.Machine.execBxunp f s
  | .faddi f => Sys2Proof.Machine.execFaddi f s
  | .fmuli f => Sys2Proof.Machine.execFmuli f s
  | .rngdraw f => Sys2Proof.Machine.execRngdraw f s
  | .rngskip f => Sys2Proof.Machine.execRngskip f s
  | .bra f => Sys2Proof.Machine.execBra f s
  | .brau k f => Sys2Proof.Machine.execBrau k f s
  | .brx f => Sys2Proof.Machine.execBrx f s
  | .call f => Sys2Proof.Machine.execCall f s
  | .callx f => Sys2Proof.Machine.execCallx f s
  | .ret f => Sys2Proof.Machine.execRet f s
  | .loopu f => Sys2Proof.Machine.execLoopu f s
  | .exit f => Sys2Proof.Machine.execExit f s
  | .trap f => Sys2Proof.Machine.execTrap f s
  | .trapret f => Sys2Proof.Machine.execTrapret f s
  | .yield f => Sys2Proof.Machine.execYield f s
  | .csrr f => Sys2Proof.Machine.execCsrr f s
  | .csrw k f => Sys2Proof.Machine.execCsrw k f s
  | .bkpt f => Sys2Proof.Machine.execBkpt f s
  | .ld f => Sys2Proof.Machine.execLd f s
  | .st f => Sys2Proof.Machine.execSt f s
  | .lds f => Sys2Proof.Machine.execLds f s
  | .sts f => Sys2Proof.Machine.execSts f s
  | .ldu f => Sys2Proof.Machine.execLdu f s
  | .atom k f => Sys2Proof.Machine.execAtom k f s
  | .red k f => Sys2Proof.Machine.execRed k f s
  | .atoms k f => Sys2Proof.Machine.execAtoms k f s
  | .cas f => Sys2Proof.Machine.execCas f s
  | .pref k f => Sys2Proof.Machine.execPref k f s
  | .fence k f => Sys2Proof.Machine.execFence k f s
  | .racq f => Sys2Proof.Machine.execRacq f s
  | .mwait k f => Sys2Proof.Machine.execMwait k f s
  | .shfl k f => Sys2Proof.Machine.execShfl k f s
  | .vote k f => Sys2Proof.Machine.execVote k f s
  | .scan k f => Sys2Proof.Machine.execScan k f s
  | .gred f => Sys2Proof.Machine.execGred f s
  | .fmaxi f => Sys2Proof.Machine.execFmaxi f s
  | .fmini f => Sys2Proof.Machine.execFmini f s
  | .sample f => Sys2Proof.Machine.execSample f s
  | .matchLanes k f => Sys2Proof.Machine.execMatchLanes k f s
  | .lser f => Sys2Proof.Machine.execLser f s
  | .lsend f => Sys2Proof.Machine.execLsend f s
  | .rehome f => Sys2Proof.Machine.execRehome f s
  | .lfsrset f => Sys2Proof.Machine.execLfsrset f s
  | .gjoin f => Sys2Proof.Machine.execGjoin f s
  | .umov f => Sys2Proof.Machine.execUmov f s
  | .uadd f => Sys2Proof.Machine.execUadd f s
  | .umad f => Sys2Proof.Machine.execUmad f s
  | .ulop3 f => Sys2Proof.Machine.execUlop3 f s
  | .ushf f => Sys2Proof.Machine.execUshf f s
  | .ucmp f => Sys2Proof.Machine.execUcmp f s
  | .uown f => Sys2Proof.Machine.execUown f s
  | .barSync f => Sys2Proof.Machine.execBarSync f s
  | .barArv f => Sys2Proof.Machine.execBarArv f s
  | .bart f => Sys2Proof.Machine.execBart f s
  | .arrinit f => Sys2Proof.Machine.execArrinit f s
  | .arradd f => Sys2Proof.Machine.execArradd f s
  | .arrwait k f => Sys2Proof.Machine.execArrwait k f s
  | .hqinit f => Sys2Proof.Machine.execHqinit f s
  | .hqpush f => Sys2Proof.Machine.execHqpush f s
  | .hqpop f => Sys2Proof.Machine.execHqpop f s
  | .hqallow f => Sys2Proof.Machine.execHqallow f s
  | .lqcfg f => Sys2Proof.Machine.execLqcfg f s
  | .bankmode f => Sys2Proof.Machine.execBankmode f s
  | .accalloc f => Sys2Proof.Machine.execAccalloc f s
  | .accfree f => Sys2Proof.Machine.execAccfree f s
  | .aecfg f => Sys2Proof.Machine.execAecfg f s
  | .aego f => Sys2Proof.Machine.execAego f s
  | .aestop f => Sys2Proof.Machine.execAestop f s
  | .role f => Sys2Proof.Machine.execRole f s
  | .tmap f => Sys2Proof.Machine.execTmap f s
  | .tmapf f => Sys2Proof.Machine.execTmapf f s
  | .mqma f => Sys2Proof.Machine.execMqma f s
  | .mqmas f => Sys2Proof.Machine.execMqmas f s
  | .mzero f => Sys2Proof.Machine.execMzero f s
  | .mload f => Sys2Proof.Machine.execMload f s
  | .mdrain f => Sys2Proof.Machine.execMdrain f s
  | .mdrainAdd f => Sys2Proof.Machine.execMdrainAdd f s
  | .mwaita f => Sys2Proof.Machine.execMwaita f s
  | .attn k f => Sys2Proof.Machine.execAttn k f s
  | .attnf f => Sys2Proof.Machine.execAttnf f s
  | .heaprd f => Sys2Proof.Machine.execHeaprd f s
  | .heaprdTopk f => Sys2Proof.Machine.execHeaprdTopk f s
  | .heaprdTopp f => Sys2Proof.Machine.execHeaprdTopp f s
  | .heapclr f => Sys2Proof.Machine.execHeapclr f s
  | .copy k f => Sys2Proof.Machine.execCopy k f s
  | .gather f => Sys2Proof.Machine.execGather f s
  | .copyst f => Sys2Proof.Machine.execCopyst f s
  | .cbar f => Sys2Proof.Machine.execCbar f s
  | .tlbinvPage f => Sys2Proof.Machine.execTlbinvPage f s
  | .tlbinvAsid f => Sys2Proof.Machine.execTlbinvAsid f s
  | .tlbinvAll f => Sys2Proof.Machine.execTlbinvAll f s
  | .slogctlQuery f => Sys2Proof.Machine.execSlogctlQuery f s
  | .slogctlDrain f => Sys2Proof.Machine.execSlogctlDrain f s
  | .dbar f => Sys2Proof.Machine.execDbar f s
  | .tkwait f => Sys2Proof.Machine.execTkwait f s
  | .tkcommit f => Sys2Proof.Machine.execTkcommit f s
  | .lnch f => Sys2Proof.Machine.execLnch f s
  | .lnchLast f => Sys2Proof.Machine.execLnchLast f s
  | .gridbar f => Sys2Proof.Machine.execGridbar f s
  | .dscale f => Sys2Proof.Machine.execDscale f s
  | .ttfork f => Sys2Proof.Machine.execTtfork f s
  | .ttappend f => Sys2Proof.Machine.execTtappend f s
  | .ttprune f => Sys2Proof.Machine.execTtprune f s
  | .ttcommit f => Sys2Proof.Machine.execTtcommit f s
  | .ttwalk f => Sys2Proof.Machine.execTtwalk f s
  | .ttrefAttach f => Sys2Proof.Machine.execTtrefAttach f s
  | .ttrefDetach f => Sys2Proof.Machine.execTtrefDetach f s
  | .ttrefPin f => Sys2Proof.Machine.execTtrefPin f s
  | .ttrefUnpin f => Sys2Proof.Machine.execTtrefUnpin f s
  | .ttrefEvict f => Sys2Proof.Machine.execTtrefEvict f s
  | .ttqueryFree f => Sys2Proof.Machine.execTtqueryFree f s
  | .ttqueryReserve f => Sys2Proof.Machine.execTtqueryReserve f s
  | .ttqueryState f => Sys2Proof.Machine.execTtqueryState f s
  | .detok f => Sys2Proof.Machine.execDetok f s
  | .tokstep f => Sys2Proof.Machine.execTokstep f s
  | .xfput f => Sys2Proof.Machine.execXfput f s
  | .xfget f => Sys2Proof.Machine.execXfget f s
  | .xfwork f => Sys2Proof.Machine.execXfwork f s
  | .xfred f => Sys2Proof.Machine.execXfred f s
  | .xfsred f => Sys2Proof.Machine.execXfsred f s
  | .xffence f => Sys2Proof.Machine.execXffence f s
  | .loadCompletion g k => Sys2Proof.Machine.execLoadCompletion g k s
  | .accessRetirement g k => Sys2Proof.Machine.execAccessRetirement g k s
  | .trapEntry g => Sys2Proof.Machine.execTrapEntry g s
  | .barrierTimeout w => Sys2Proof.Machine.execBarrierTimeout w s
  | .arrwaitTimeout g => Sys2Proof.Machine.execArrwaitTimeout g s
  | .bartTimeout g lane => Sys2Proof.Machine.execBartTimeout g lane s
  | .groupWaitTimeout g => Sys2Proof.Machine.execGroupWaitTimeout g s
  | .hqWaitTimeout g => Sys2Proof.Machine.execHqWaitTimeout g s
  | .accallocTimeout g => Sys2Proof.Machine.execAccallocTimeout g s
  | .aeStreamElement t => Sys2Proof.Machine.execAeStreamElement t s
  | .quarterOpStart t => Sys2Proof.Machine.execQuarterOpStart t s
  | .tileTransferStart t => Sys2Proof.Machine.execTileTransferStart t s
  | .engineOpCompletion t => Sys2Proof.Machine.execEngineOpCompletion t s
  | .engineFault t => Sys2Proof.Machine.execEngineFault t s
  | .attnCompletion t => Sys2Proof.Machine.execAttnCompletion t s
  | .matrixBudgetPeriod core => Sys2Proof.Machine.execMatrixBudgetPeriod core s
  | .copyOpStart c k => Sys2Proof.Machine.execCopyOpStart c k s
  | .copyCompletion c k => Sys2Proof.Machine.execCopyCompletion c k s
  | .copyFault c k => Sys2Proof.Machine.execCopyFault c k s
  | .sideLogRetryPass c => Sys2Proof.Machine.execSideLogRetryPass c s
  | .teamPlacement grid core => Sys2Proof.Machine.execTeamPlacement grid core s
  | .teamSlotRelease t => Sys2Proof.Machine.execTeamSlotRelease t s
  | .waitingOpPerform g => Sys2Proof.Machine.execWaitingOpPerform g s
  | .commitDrainEntry t => Sys2Proof.Machine.execCommitDrainEntry t s
  | .millinerRequest g k => Sys2Proof.Machine.execMillinerRequest g k s
  | .prunePageReturn part pool => Sys2Proof.Machine.execPrunePageReturn part pool s
  | .cancelDelivery t => Sys2Proof.Machine.execCancelDelivery t s
  | .enqueueDoorbell part queue words => Sys2Proof.Machine.execEnqueueDoorbell part queue words s
  | .recordStart part queue => Sys2Proof.Machine.execRecordStart part queue s
  | .gridCompletion grid => Sys2Proof.Machine.execGridCompletion grid s
  | .graphNodeActivation part run node => Sys2Proof.Machine.execGraphNodeActivation part run node s
  | .graphNodeCompletion part run node => Sys2Proof.Machine.execGraphNodeCompletion part run node s
  | .ctxctlSave part addr => Sys2Proof.Machine.execCtxctlSave part addr s
  | .contextWrite part => Sys2Proof.Machine.execContextWrite part s
  | .ctxctlRestore part addr => Sys2Proof.Machine.execCtxctlRestore part addr s
  | .restoreCoreRelease part core => Sys2Proof.Machine.execRestoreCoreRelease part core s
  | .ctxctlKill part => Sys2Proof.Machine.execCtxctlKill part s
  | .partctlApply part addr => Sys2Proof.Machine.execPartctlApply part addr s
  | .partctlClear part => Sys2Proof.Machine.execPartctlClear part s
  | .poolctlCreate part pool => Sys2Proof.Machine.execPoolctlCreate part pool s
  | .poolctlDestroy part pool => Sys2Proof.Machine.execPoolctlDestroy part pool s
  | .poolctlReserve part pool val => Sys2Proof.Machine.execPoolctlReserve part pool val s
  | .prespWrite v => Sys2Proof.Machine.execPrespWrite v s
  | .hinvWrite v => Sys2Proof.Machine.execHinvWrite v s
  | .hostRegisterWrite off v => Sys2Proof.Machine.execHostRegisterWrite off v s
  | .fabricMessageReceive port => Sys2Proof.Machine.execFabricMessageReceive port s
  | .xfredResend port k => Sys2Proof.Machine.execXfredResend port k s
  | .fabricCmplReceive tag status => Sys2Proof.Machine.execFabricCmplReceive tag status s
  | .fabricCmplTimeout tag => Sys2Proof.Machine.execFabricCmplTimeout tag s
  | .flitCrcFailure port => Sys2Proof.Machine.execFlitCrcFailure port s
  | .fxcfgTrain port => Sys2Proof.Machine.execFxcfgTrain port s
  | .snpInv line => Sys2Proof.Machine.execSnpInv line s
  | .snpData line => Sys2Proof.Machine.execSnpData line s
  | .snpCur line => Sys2Proof.Machine.execSnpCur line s
  | .go line st data => Sys2Proof.Machine.execGo line st data s
  | .goWritepull line => Sys2Proof.Machine.execGoWritepull line s
  | .writepull line => Sys2Proof.Machine.execWritepull line s
  | .cxlMemRequest req => Sys2Proof.Machine.execCxlMemRequest req s
  | .bisnpResponse line dirty data => Sys2Proof.Machine.execBisnpResponse line dirty data s
  | .powerOn => Sys2Proof.Machine.execPowerOn s
  | .mailboxUpdate addr len => Sys2Proof.Machine.execMailboxUpdate addr len s
  | .mailboxUpdateEnd => Sys2Proof.Machine.execMailboxUpdateEnd s
  | .mailboxReset => Sys2Proof.Machine.execMailboxReset s
  | .mailboxAbort => Sys2Proof.Machine.execMailboxAbort s
  | .attestationRequest nonce => Sys2Proof.Machine.execAttestationRequest nonce s
  | .uncorrectableError scope => Sys2Proof.Machine.execUncorrectableError scope s
  | .watchdogExpiry part => Sys2Proof.Machine.execWatchdogExpiry part s
  | .activityBudgetPeriod => Sys2Proof.Machine.execActivityBudgetPeriod s
  | .thermalThreshold die => Sys2Proof.Machine.execThermalThreshold die s
  | .dieOvertempCutoff die => Sys2Proof.Machine.execDieOvertempCutoff die s
  | .dirtyL1LineWriteback core k => Sys2Proof.Machine.execDirtyL1LineWriteback core k s
  | .scrub addr => Sys2Proof.Machine.execScrub addr s
  | .powerLoss => Sys2Proof.Machine.execPowerLoss s
  | .fabricPortUp port => Sys2Proof.Machine.execFabricPortUp port s
  | .prqtailWrite v => Sys2Proof.Machine.execPrqtailWrite v s
  | .budgetLowering milliwatts => Sys2Proof.Machine.execBudgetLowering milliwatts s

end Sys2Proof.Machine
end

