-- ==== Sys2Proof/Machine/Fetch.lean ====
section
/-! DEFINITION. One issue of a group: selection of the program counter (R168, R169), fetch (R48 to R54), checks 1 to 8 of R79,
pairs (R78), and which group of a core issues (R198 to R200). -/

namespace Sys2Proof.Machine

/-- The frontier (R167): distinct program counters of ready threads, ascending. -/
def frontier (g : Group) : List Nat :=
  (lanesOf (readyMask g)).foldl (fun l i =>
    let p := (threadAt g i).pc.toNat
    if l.contains p then l else (l.filter fun x => decide (x < p)) ++ [p] ++ l.filter fun x => decide (p < x)) []

/-- One step of the LFSR (R169). -/
def lfsrStep (x : BitVec 16) : BitVec 16 := if x.getLsbD 0 then (x >>> 1) ^^^ 0xb400 else x >>> 1

/-- Choose the program counter at a selection point (R169). -/
def selectPc (det : Bool) (g : Group) : Group :=
  let f := frontier g
  match f with
  | [] => g
  | p :: rest =>
    let g := { g with sel := false, chosen := true }
    if det || g.status == .handler || rest.isEmpty then { g with gpc := BitVec.ofNat 64 p }
    else { g with gpc := BitVec.ofNat 64 (f.getD (g.lfsr.toNat % 4 % f.length) p), lfsr := lfsrStep g.lfsr }

/-- The group before its next issue: at a selection point released threads become ready under the other policies (R171) and a
program counter is chosen. -/
def prepare (s : State) (t : Team) (gr : Grid) (g : Group) : Group :=
  let det := lrDetPolicy gr.lr
  let marked : Bool := !g.chosen && match groupFetch s gr t.core g (pcLine g.gpc) with
    | .inl pa => slotMarked (lineOf gr pa) g.gpc == some true
    | .inr _ => false
  let nobody : Bool := !((lanesOf (readyMask g)).any fun l => (threadAt g l).pc == g.gpc)
  if g.sel || marked || nobody then selectPc det (if det then g else wakeReleased g)
  else { g with chosen := true }

/-- Checks 1 to 4 of R79 at a group's slot: the line, or the cause. `land` asks for the landing check (R52). -/
def enterLine (s : State) (t : Team) (gr : Grid) (g : Group) (pc : DWord) (land : Bool) : Line ⊕ Cause :=
  match groupFetch s gr t.core g (pcLine pc) with
  | .inr code => .inr ⟨code, 0, 1, 0, pc⟩
  | .inl pa =>
    let l := lineOf gr pa
    if !l.parityOk then .inr (causeOf tcFetchpar)
    else if !l.wordOk then .inr (causeOf tcIllfmt)
    else if land && !(l.word.tgt.getLsbD (pc.toNat % 8)) then .inr (causeOf tcBadtgt)
    else .inl l

/-- The instruction of a slot (check 5 and the operand part of check 6). -/
def slotInstr (l : Line) (k : Nat) : Instr ⊕ Nat :=
  match decode (l.slots.getD k 0) with
  | .ok i => .inl i
  | .illop => .inr tcIllop
  | .illfmt => .inr tcIllfmt

/-- Take a trap at a group's slot before anything issues. -/
def fetchTrap (s : State) (r : GroupRef) (pc : DWord) (slot2 : Bool) (c : Cause) : Out :=
  match groupAt s r with
  | some g => next s (takeTrap s r c slot2 pc pc [] g.queue)
  | none => .next s

/-- The state with the cursor at a slot. -/
def atSlot (s : State) (r : GroupRef) (pc : DWord) (slot2 : Bool) : State := { s with cur := some ⟨r, pc, slot2⟩ }

/-- Check 7 of R79 and the bounds of R68, for an instruction at the cursor. -/
def earlyTrap (i : Instr) (s : State) : Option Nat :=
  match ctxOf i s with
  | some c => staticTrap c
  | none => none

/-- The cause of check 9 or 10 that the common part finds, for an instruction at the cursor (R79). -/
def lateCheck (i : Instr) (s : State) : Ready :=
  match ctxOf i s with
  | some c => readyOf c
  | none => .stall

/-- Count an issue (R198), and let groups that yielded be nominated again (R200). -/
def countIssue (s : State) (r : GroupRef) : State :=
  updTeam s r.team fun t =>
    { t with groups := (t.groups.zipIdx).map fun x =>
        if x.2 == r.grp then { x.1 with issues := min (x.1.issues + 1) 0xffffffff } else { x.1 with yielded := false } }

/-- Whether the last issue of a group took place: a choice no longer stands. -/
def issued (s : State) (r : GroupRef) : Bool :=
  match groupAt s r with
  | some g => !g.chosen
  | none => true

/-- Map the state of a next outcome. -/
def Out.mapNext (o : Out) (f : State → State) : Out :=
  match o with
  | .next s => .next (f s)
  | .fault e => .fault e
  | .refused e => .refused e

/-- One instruction by itself (R79). -/
def issueOne (s : State) (r : GroupRef) (pc : DWord) (i : Instr) : Out :=
  Out.mapNext (exec i (atSlot s r pc false)) fun s' => let s' := { s' with cur := none }
    if issued s' r then countIssue s' r else s'

/-- Check 9 of R79 for an instruction at the cursor: the trap, if it finds one. -/
def check9 (i : Instr) (s : State) : Option Cause :=
  match ctxOf i s with
  | some c => match operandCheck c with
    | .trap code kind addr info => some ⟨code, info, kind, 0, BitVec.ofNat 64 addr⟩
    | _ => none
  | none => none

/-- A pair (R78, R79): every check of both comes before either takes effect, and a trap is reported at the first slot. What the first
slot's check 10 finds (UWRITE, on pipe U, which changes no source of the second) comes after check 9 of the second. -/
def issuePair (s : State) (r : GroupRef) (pc : DWord) (i j : Instr) : Out :=
  let s1 := atSlot s r pc false
  let s2 := atSlot s r (pcNext pc) true
  match earlyTrap i s1, earlyTrap j s2 with
  | some c, _ => fetchTrap s r pc false (causeOf c)
  | none, some c => fetchTrap s r pc true (causeOf c)
  | none, none =>
    if !i.pairable then fetchTrap s r pc false (causeOf tcIllfmt)
    else if !j.pairable then fetchTrap s r pc true (causeOf tcIllfmt)
    else match lateCheck i s1 with
    | .stall => .next s
    | .trap c => match check9 i s1, check9 j s2 with
      | none, some e => fetchTrap s r pc true e
      | _, _ => fetchTrap s r pc false c
    | _ => match exec i s1 with
      | .next a =>
        if !(issued a r) then .next { a with cur := none }
        else
          let b := atSlot { a with cur := none } r (pcNext pc) true
          match lateCheck j b with
          | .trap c => fetchTrap s r pc true c
          | .stall => .next s
          | _ => Out.mapNext (exec j b) fun x => let x := { x with cur := none }
            if issued x r then countIssue x r else s
      | o => o

/-- The group's fetch buffer moves to the line of its program counter (R54). -/
def refillLines (s : State) (t : Team) (gr : Grid) (g : Group) : Group :=
  match groupFetch s gr t.core g (pcLine g.gpc) with
  | .inl pa => { g with lines := bufferLines s gr t.core g (pcLine g.gpc) pa }
  | .inr _ => { g with lines := [] }

/-- The next issue of a group. -/
def issueGroup (s : State) (r : GroupRef) : Out :=
  match teamAt s r.team, groupAt s r, gridAt s r.team.grid with
  | some t, some g, some gr =>
    if !issuable g || readyMask g == 0 then .next s
    else
      let g := refillLines s t gr (prepare s t gr g)
      let s := updGroup s r fun _ => g
      let pc := g.gpc
      let land := (lanesOf (readyMask g)).any fun l => (threadAt g l).pc == pc && (threadAt g l).land
      match enterLine s t gr g pc land with
      | .inr c => fetchTrap s r pc false c
      | .inl l =>
        let k := pc.toNat % 8
        match slotInstr l k with
        | .inr c => fetchTrap s r pc false (causeOf c)
        | .inl i =>
          if decide (k < 4) && l.word.pair.getLsbD k then
            match slotInstr l (k + 1) with
            | .inr c =>
              match earlyTrap i (atSlot s r pc false) with
              | some e => fetchTrap s r pc false (causeOf e)
              | none => fetchTrap s r pc true (causeOf c)
            | .inl j => issuePair s r pc i j
          else issueOne s r pc i
  | _, _, _ => .next s

/-- Stage policy: the group is preferred (R200). -/
def preferred (s : State) (t : Team) (g : Group) : Bool :=
  let hq (n : Nat) : Option HwQueue := match clusterOfCore s t.core with
    | some c => c.hqs.find? fun q => q.num == n
    | none => none
  (match g.role.inq with
    | some n => match hq n with | some q => !q.entries.isEmpty | none => false
    | none => true)
  && (match g.role.outq with
    | some n => match hq n with | some q => decide (0 < q.allow) | none => false
    | none => true)

/-- Order candidates by issue count, then by index (R200). -/
def insertBy (x : Nat × Nat) : List (Nat × Nat) → List (Nat × Nat)
  | [] => [x]
  | y :: l => if x.1 < y.1 ∨ (x.1 = y.1 ∧ x.2 < y.2) then x :: y :: l else y :: insertBy x l

/-- The groups of a team that may be nominated, in the order in which eligible ones are (R199, R200): under the deterministic policy
the current group alone; otherwise those that did not yield come first, so that a yielder is nominated only where no other group is
eligible. -/
def nominees (s : State) (t : Team) (gr : Grid) : List Nat :=
  let ok := (t.groups.zipIdx).filter fun x => issuable x.1 && readyMask x.1 != 0
  if lrDetPolicy gr.lr then
    match t.curG with
    | some k => [k]
    | none => (ok.map (·.2)).take 1
  else
    let sort (l : List (Group × Nat)) : List Nat :=
      (l.foldl (fun acc x => insertBy (x.1.issues, x.2) acc) []).map (·.2)
    let order (l : List (Group × Nat)) : List Nat :=
      if lrPolicy gr.lr = 2 then
        sort (l.filter fun x => preferred s t x.1) ++ sort (l.filter fun x => !(preferred s t x.1))
      else sort l
    order (ok.filter fun x => !x.1.yielded) ++ order (ok.filter fun x => x.1.yielded)

/-- The candidates of each team of a core, by team slot. Teams of an unreleased core or a halted partition (R389, R390), or of a
cooperative grid that is not placed whole (R378), do not issue. -/
def coreNominees (s : State) (core : Nat) : List (List GroupRef) :=
  let ts := s.teams.filter fun t => t.core == core && partRuns s t.ref
  let noms : List (Nat × List GroupRef) := ts.filterMap fun t => match gridAt s t.ref.grid with
    | some gr => match if placedWhole s gr then nominees s t gr else [] with
      | [] => none
      | l => some (t.slot, l.map fun n => ⟨t.ref, n⟩)
    | none => none
  (noms.foldl (fun acc x => (acc.filter fun y => decide (y.1 ≤ x.1)) ++ [x] ++ acc.filter fun y => decide (x.1 < y.1)) []).map (·.2)

/-- The first candidate of a team whose next issue does not stall (R73, R197), with what the stalls before it count or ask for. A YIELD
no longer holds back a group that is the team's only eligible one (R200). -/
def nominate (s : State) : List GroupRef → State × Option GroupRef
  | [] => (s, none)
  | r :: l =>
    if (groupAt s r).any fun g => !issuable g || readyMask g == 0 then nominate s l
    else match issueGroup s r with
      | .next s' =>
        if issued s' r then (if (nominate s l).2.isNone then updGroup s r fun g => { g with yielded := false } else s, some r)
        else nominate s' l
      | _ => (s, some r)
/-- The state in which a group issues that is nominated before the candidates `l` of its team. -/
def nominated (s : State) (r : GroupRef) (l : List GroupRef) : State :=
  if (nominate s l).2.isNone then updGroup s r fun g => { g with yielded := false } else s

/-- Of two nominees the one with the smaller issue count; the first stands on the lower team slot (R198). -/
def fewerIssues (s : State) (a b : Option GroupRef) : Option GroupRef :=
  let n (r : GroupRef) : Nat := match groupAt s r with | some g => g.issues | none => 0
  match a, b with
  | some x, some y => if n y < n x then some y else some x
  | some x, none => some x
  | none, y => y

/-- One clk of a core (R198): the issue of the nominee with the smallest issue count. -/
def issueCore (s : State) (core : Nat) : Out :=
  let p := (coreNominees s core).foldl (fun (p : State × Option GroupRef) l =>
    let q := nominate p.1 l
    (q.1, fewerIssues q.1 p.2 q.2)) (s, none)
  match p.2 with
  | some r => issueGroup p.1 r
  | none => .next p.1

end Sys2Proof.Machine
end

