-- ==== Sys2Proof/Machine/Auto.lean ====
section
/-! DEFINITION. What happens without an agenda: cores issue in turn, the device's own events happen when they can, and the L1s
write back within the bound of R289. Also where an instruction must stand to be fetched next. -/

namespace Sys2Proof.Machine

/-- The cores that hold a team. -/
def busyCores (s : State) : List Nat := s.teams.foldl (fun l t => if l.contains t.core then l else l ++ [t.core]) []

/-- Keep an event when it can happen. -/
def ifCan (p : Bool) (e : Instr) : List Instr := if p then [e] else []

/-- Events of a group. -/
def groupEvents (s : State) (r : GroupRef) (g : Group) : List Instr :=
  ((List.range g.queue.length).flatMap fun k =>
      ifCan (canLoadCompletion s r k) (.loadCompletion r k) ++ ifCan (canAccessRetirement s r k) (.accessRetirement r k)
        ++ ifCan (canMillinerRequest s r k) (.millinerRequest r k))
    ++ ifCan (canTrapEntry s r) (.trapEntry r) ++ ifCan (canWaitingOpPerform s r) (.waitingOpPerform r)
    ++ ifCan (canArrwaitTimeout s r) (.arrwaitTimeout r) ++ ifCan (canGroupWaitTimeout s r) (.groupWaitTimeout r)
    ++ ifCan (canHqWaitTimeout s r) (.hqWaitTimeout r) ++ ifCan (canAccallocTimeout s r) (.accallocTimeout r)
    ++ (g.barts.flatMap fun x => ifCan (canBartTimeout s r x.lane) (.bartTimeout r x.lane))
    ++ ifCan (canBarrierTimeout s (.join r)) (.barrierTimeout (.join r))

/-- Events of a team. -/
def teamEvents (s : State) (t : Team) : List Instr :=
  let r := t.ref
  ((t.groups.zipIdx).flatMap fun x => groupEvents s ⟨r, x.2⟩ x.1)
    ++ ifCan (canAeStreamElement s r) (.aeStreamElement r) ++ ifCan (canQuarterOpStart s r) (.quarterOpStart r)
    ++ ifCan (canTileTransferStart s r) (.tileTransferStart r) ++ ifCan (canEngineOpCompletion s r) (.engineOpCompletion r)
    ++ ifCan (canAttnCompletion s r) (.attnCompletion r) ++ ifCan (canEngineFault s r) (.engineFault r)
    ++ ((List.range 16).flatMap fun b => ifCan (canBarrierTimeout s (.team r b)) (.barrierTimeout (.team r b)))
    ++ ifCan (canBarrierTimeout s (.cluster r)) (.barrierTimeout (.cluster r))
    ++ ifCan (canBarrierTimeout s (.die r)) (.barrierTimeout (.die r)) ++ ifCan (canBarrierTimeout s (.grid r)) (.barrierTimeout (.grid r))
    ++ ifCan (canCommitDrainEntry s r) (.commitDrainEntry r) ++ ifCan (canCancelDelivery s r) (.cancelDelivery r)
    ++ ifCan (canTeamSlotRelease s r) (.teamSlotRelease r)

/-- Events of a cluster's copy engine. -/
def clusterEvents (s : State) (c : Cluster) : List Instr :=
  (List.range c.copies.length).flatMap fun k =>
    ifCan (copyStartable s c.ref k) (.copyOpStart c.ref k) ++ ifCan (canCopyCompletion s c.ref k) (.copyCompletion c.ref k)
      ++ ifCan (canCopyFault s c.ref k) (.copyFault c.ref k)

/-- Events of a partition. -/
def partEvents (s : State) (p : Partition) : List Instr :=
  ((p.pools.map (·.1) ++ p.gone.map (·.1)).flatMap fun k => ifCan (canPrunePageReturn s p.num k) (.prunePageReturn p.num k))
    ++ (p.runs.flatMap fun r => (List.range r.sts.length).flatMap fun k =>
      ifCan (canGraphNodeActivation s p.num r.id k) (.graphNodeActivation p.num r.id k)
        ++ ifCan (canGraphNodeCompletion s p.num r.id k) (.graphNodeCompletion p.num r.id k))
    ++ (match servedQueue s p.num with | some q => ifCan (canRecordStart s p.num q) (.recordStart p.num q) | none => [])
    ++ ifCan (haltedYet s p.num) (.contextWrite p.num)
    ++ (p.unreleased.flatMap fun c => ifCan (canRestoreCoreRelease s p.num c) (.restoreCoreRelease p.num c))

/-- Events of a grid: it completes, or a team is placed on the first core that takes it. -/
def gridEvents (s : State) (g : Grid) : List Instr :=
  let cores := (partClusters s g.part).flatMap clusterCores
  ifCan (canGridCompletion s g.id) (.gridCompletion g.id)
    ++ (match cores.find? fun c => canTeamPlacement s g.id c with | some c => [.teamPlacement g.id c] | none => [])

/-- Events of the fabric. -/
def fabricEvents (s : State) : List Instr :=
  ((List.range 17).flatMap fun k => ifCan (canFabricMessageReceive s k) (.fabricMessageReceive k)
      ++ ifCan (canXfredResend s k 0) (.xfredResend k 0))
    ++ (s.fabric.inbox.flatMap fun x =>
      ifCan (x.2.cls == .cmpl && canFabricCmplReceive s x.2.tag x.2.status) (.fabricCmplReceive x.2.tag x.2.status))
    ++ s.fabric.ops.flatMap fun o => ifCan (canFabricCmplTimeout s o.tag) (.fabricCmplTimeout o.tag)

/-- The device's events that can happen now (log entry 3). -/
def autoEvents (s : State) : List Instr :=
  (s.teams.flatMap (teamEvents s)) ++ s.clusters.flatMap (clusterEvents s) ++ s.parts.flatMap (partEvents s)
    ++ s.grids.flatMap (gridEvents s) ++ fabricEvents s
    ++ ((s.coreRegs.filter fun c => effUnits s 5 c.units != 0xffffffff && canMatrixBudgetPeriod s c.core).map fun c => .matrixBudgetPeriod c.core)
    ++ ifCan (canActivityBudgetPeriod s && (List.range 5).any fun k => (budgetRoom s k).isSome) .activityBudgetPeriod

/-- The clk after which the model writes every L1 back (R289, log entry 7), and the side logs are retried (R261). -/
def l1Period : Nat := 65536

/-- Copies of wider pages leave every L1, and what they wrote is performed at every scope (R289). -/
def l1Sweep (s : State) : State := guestsAcked (l1Drop s fun l => l.share != shTeam)
/-- The side logs' own passes, every 65,536 clk (R261). -/
def slogSweep (s : State) : State :=
  s.clusters.foldl (fun s c => if canSideLogRetryPass s c.ref then slogPass s c.ref else s) s

/-- One step without an agenda: an event on even clk, each that can happen in its turn, and an issue of the next busy core on odd clk;
either when the other has nothing to do. -/
def autoStep (s : State) : Out :=
  let cores := busyCores s
  let issueNext : Out := issueCore { s with turn := s.turn + 1 } (cores.getD (s.turn % cores.length) 0)
  if s.clk % l1Period = 0 then next s (slogSweep (l1Sweep s))
  else if s.clk % 2 = 1 && !cores.isEmpty then issueNext
  else
    let evs := autoEvents s
    match evs[s.clk / 2 % evs.length]? with
    | some e => exec e s
    | none => if cores.isEmpty then .next s else issueNext

/-- One choice of the agenda. -/
def chooseStep (s : State) (c : Choice) : Out :=
  match c with
  | .issue core => issueCore s core
  | .event i => exec i s
  | .wait n => .next (countWaits (countStalls { s with clk := s.clk + n } n) n)
  | .arrive port m => .next { s with fabric := { s.fabric with inbox := s.fabric.inbox ++ [(port, m)] } }
  | .evict line => next s (evictLine s line)
  | .hostStore addr data => next s (hostWrites s addr data)
  | .msixWrite k v => .next (msixWrite s k v)
  | .hostRead off n => .next (logHost s (.regData off (hostRegisterRead s off n)))
  | .guestAck line => .next { s with guests := s.guests.filter fun g => g.pline != line }
  | .guestFill line =>
    if s.guests.any fun g => g.pline == line then .next s
    else .next { s with guests := ⟨line, (List.range 128).map (fun k => rdHome s (128 * line + k)), false⟩ :: s.guests }

/-- One step: the head of the agenda, or the default choice. Time advances by one clk. -/
def stepBody (s : State) : Out :=
  if !s.boot.powered then
    match s.agenda with
    | .event .powerOn :: rest => exec .powerOn { s with agenda := rest, clk := s.clk + 1 }
    | _ => .fault .powerOff
  else
    let s := countDrains (countStalls { s with clk := s.clk + 1 } 1)
    match s.agenda with
    | c :: rest => chooseStep { s with agenda := rest } c
    | [] => autoStep s

/-- Where `placeWord` puts the code: virtual and physical address of its line. -/
def placeVa : Nat := 0x10000
@[inherit_doc placeVa] def placePa : Nat := 0x50000

/-- A launch record for one team of 32 threads that may name every register (R374). -/
def placeRecord : List Byte :=
  toBytes 4 1 ++ toBytes 4 (32 + 8 * 64 + 4 * 1024 + 4 * 32768 + 15 * 2 ^ 20) ++ toBytes 8 placeVa
    ++ toBytes 4 1 ++ toBytes 4 1 ++ toBytes 4 1 ++ toBytes 4 (32 + 2 ^ 11) ++ toBytes 4 1 ++ toBytes 4 0xffffffff
    ++ zeroBytes 88

/-- One page of code behind four table levels (R291 to R294) and one line: the word in slot 0, NOPs behind it. -/
def placeMemory (m : Memory) (w : Nat) : Memory :=
  let put (m : Memory) (a n v : Nat) : Memory :=
    (List.range n).foldl (fun m k => m.write (a + k) (BitVec.ofNat 8 (byteOf v k))) m
  let m := put m 0x10000 8 0x20001
  let m := put m 0x20000 8 0x40001
  let m := put m 0x40000 8 0x41001
  let m := put m 0x41008 8 (placePa + 0x60 + 0x17)
  ((lineBytes [w, nopSlot, nopSlot, nopSlot, nopSlot] 1 0).zipIdx).foldl (fun m x => m.write (placePa + x.2) x.1) m

/-- The state in which core 0 next issues the word `w`: a page table, a one-core cluster of partition 0, a grid of one team
placed on core 0 with its group at the line (log entry 1). -/
def placeWord (s : State) (w : Nat) : State :=
  let m := placeMemory s.mem w
  let s := { s with mem := m, clusters := [mapCluster 0 0 1], agenda := [.issue 0] }
  let s := updPart s 0 fun p => { p with ptroot := 0x8000000000010000 }
  let g := startGrid s.nextGrid 0 0 0 0 none placeRecord [] m 1 s.clk
  { s with
    grids := [{ g with nextL := 1 }], nextGrid := s.nextGrid + 1, teams := [startTeam g 0 0 0 [0] 0] }

end Sys2Proof.Machine
end

