-- ==== Sys2Proof/Safety.lean ====
section
/-! DEFINITION. What every step keeps: the memory's canonical form and an empty write buffer between steps. -/

namespace Sys2Proof.Machine

/-- The memory is in canonical form and no write of a step is left over. -/
def State.Inv (s : State) : Prop := Memory.wf s.mem ∧ s.wbuf = []

end Sys2Proof.Machine
end

