-- ==== Sys2Proof/Certificates/Slice0/Obligations.lean ====
section
/-! DEFINITION. The statements for the provers. The names before the obligations say in short what they repeat: an instruction
issues at the cursor and its common checks pass (`Issues`), and then takes effect (`Retires` and the forms with a result). -/

namespace Sys2Proof.Machine

/-- `i` issues at the cursor of `s` with the context `c`, and checks 6, 7 and 9 of R79 and those of check 10 that instructions share
(UWRITE, NOUNIT) pass: nothing waits, and nothing traps. -/
def Issues (i : Instr) (s : State) (c : Ctx) : Prop := ctxOf i s = some c ∧ readyOf c = .run

/-- `i` completes with the effect `d`: `exec` answers the next state in which its operands are consumed, its results written, its
threads moved on and `d.post` applied. -/
def Retires (i : Instr) (s : State) (c : Ctx) (d : Done) : Prop := exec i s = .next (commit s (retire c d))

/-- `i` completes, and its only effects are a 32-bit vector result `w` in the active lanes and the flags `fl`. -/
def GivesWords (i : Instr) (s : State) (c : Ctx) (fl : Flags) (w : Nat → Word) : Prop :=
  ∃ v : Nat → LaneVal, Retires i s c { vec := some v, flags := fl } ∧ ∀ l, c.act.getLsbD l = true → (v l).setWidth 32 = w l
/-- The same with a 64-bit result. -/
def GivesDWords (i : Instr) (s : State) (c : Ctx) (fl : Flags) (w : Nat → DWord) : Prop :=
  ∃ v : Nat → LaneVal, Retires i s c { vec := some v, flags := fl } ∧ ∀ l, c.act.getLsbD l = true → (v l).setWidth 64 = w l
/-- `i` completes, and its only effects are a predicate result `b` in the active lanes and the flags `fl`. -/
def GivesPreds (i : Instr) (s : State) (c : Ctx) (fl : Flags) (b : Nat → Bool) : Prop :=
  ∃ p : Nat → Bool, Retires i s c { prd := some p, flags := fl } ∧ ∀ l, c.act.getLsbD l = true → p l = b l
/-- `i` completes, and with an active lane its only effect is the value `v` of its uniform destination. -/
def GivesUni (i : Instr) (s : State) (c : Ctx) (v : DWord) : Prop := c.act ≠ 0 → Retires i s c { uni := some v }
/-- `i` completes, and with an active lane its only effect beside its operands and program counters is `f`. -/
def Acts (i : Instr) (s : State) (c : Ctx) (f : State → State) : Prop := c.act ≠ 0 → Retires i s c { post := f }
/-- `i` takes a trap at its issue. -/
def Traps (i : Instr) (s : State) (c : Ctx) (e : Cause) : Prop := exec i s = .next (commit s (issueTrap c e))
/-- The event `i` happens: the next state is `t` with the end of a step. -/
def Happens (i : Instr) (s t : State) : Prop := exec i s = .next (commit s t)

/-! Operands of a lane as words. -/

def Ctx.a32 (c : Ctx) (l : Nat) : Word := (Lanes.at c.a l 0).setWidth 32
def Ctx.b32 (c : Ctx) (l : Nat) : Word := (Lanes.at c.b l 0).setWidth 32
def Ctx.c32 (c : Ctx) (l : Nat) : Word := (Lanes.at c.c l 0).setWidth 32
def Ctx.a64 (c : Ctx) (l : Nat) : DWord := (Lanes.at c.a l 0).setWidth 64
def Ctx.b64 (c : Ctx) (l : Nat) : DWord := (Lanes.at c.b l 0).setWidth 64
def Ctx.c64 (c : Ctx) (l : Nat) : DWord := (Lanes.at c.c l 0).setWidth 64
/-- The lowest active lane; 0 without one. -/
def Ctx.low (c : Ctx) : Nat := (lowLane c.act).getD 0

/-- A 32-bit operand as a number of type .I32 or .N32. -/
def numOf (sg : Bool) (x : Word) : Int := if sg then x.toInt else x.toNat
/-- The 32-bit value nearest to a number. -/
def nearest32 (sg : Bool) (x : Int) : Int :=
  max (if sg then -2147483648 else 0) (min (if sg then 2147483647 else 4294967295) x)
/-- An integer result: wrapped, or under .SAT clamped with IS where it was out of range (R109). -/
def GivesInt (i : Instr) (s : State) (c : Ctx) (sg sat : Bool) (x : Nat → Int) : Prop :=
  if sat then
    GivesWords i s c (laneFlags c.act fun l => if nearest32 sg (x l) = x l then 0 else flIS)
      fun l => BitVec.ofInt 32 (nearest32 sg (x l))
  else GivesWords i s c 0 fun l => BitVec.ofInt 32 (x l)
/-- The type field says .I32 or .I64 (or .I8). -/
def tySigned {n : Nat} (m : BitVec n) : Bool := (modTy m).isSigned
/-- Bit `i` of a logic function: LUT[7 − (4a + 2b + c)] (R110). -/
def lutBit (lut : Nat) (a b c : Bool) : Bool := lut.testBit (7 - (4 * a.toNat + 2 * b.toNat + c.toNat))
/-- R111 on words. -/
def shiftWord {w : Nat} (k : ShiftKind) (a : BitVec w) (n : Nat) : BitVec w :=
  match k with
  | .l => a <<< n
  | .r => a >>> n
  | .ra => a.sshiftRight n
  | .rot => a.rotateRight n
/-- The field of a control word (R112): its effective length. -/
def fieldLen (ctl : Word) : Nat := min (ctl.toNat / 256 % 256) (32 - ctl.toNat % 256)
/-- A condition on numbers (R96). -/
def holds (k : Cc) (a b : Int) : Bool :=
  match k with
  | .eq => a = b
  | .ne => a ≠ b
  | .lt => a < b
  | .le => a ≤ b
  | .gt => b < a
  | .ge => b ≤ a
/-- A compare's result combined with CP under COMB (R107): MOD[6:5] and MOD[10:7]. -/
def combined {n : Nat} (m : BitVec n) (t : Thread) (r : Bool) : Bool :=
  let p := (t.preds.getLsbD (m.toNat / 128 % 8) || m.toNat / 128 % 8 == 7) != m.toNat.testBit 10
  match m.toNat / 32 % 4 with
  | 0 => r
  | 1 => r && p
  | 2 => r || p
  | _ => r ^^ p
/-- Byte `k` of a word. -/
def byteAt (x : Word) (k : Nat) : BitVec 8 := (x >>> (8 * k)).setWidth 8

/-- `i` completes with a lane result and its flags. -/
def GivesLanes (i : Instr) (s : State) (c : Ctx) (f : Nat → Nat × Flags) : Prop :=
  Retires i s c { vec := some fun l => BitVec.ofNat 128 (f l).1, flags := laneFlags c.act fun l => (f l).2 }
/-- `i` completes as a transfer: every active lane's next program counter is `pcs`, the landing slot of those that do not just go on is
to be checked (R52), and beside it the effect is `f`. -/
def Jumps (i : Instr) (s : State) (c : Ctx) (pcs : Nat → DWord) (f : State → State) : Prop :=
  ∃ (p : Nat → DWord) (m : BitVec 32), Retires i s c { pcs := some p, jump := m, post := f } ∧
    ∀ l, c.act.getLsbD l = true → p l = pcs l ∧ (pcs l ≠ pcNext c.pc → m.getLsbD l = true)
/-- The target of a B-format instruction (R58): the line of the slot plus 64 · LINE, and SLOT. -/
def targetOf (c : Ctx) (f : BF) : DWord := ((c.pc >>> 6) <<< 6) + (f.line.signExtend 64 <<< 6) + f.slot.setWidth 64
/-- A uniform result at the type's width (R196). -/
def uniOut {n : Nat} (m : BitVec n) (x32 : Word) (x64 : DWord) : DWord :=
  if tyWide (modTy m) then x64 else if tySigned m then x32.signExtend 64 else x32.setWidth 64
/-- The second operand of a uniform RI instruction (R196): sB, or IMM sign- or zero-extended. -/
def uniSecond (c : Ctx) (f : RI) : DWord :=
  if f.mod.toNat.testBit 5 then c.b64 0 else if tySigned f.mod then f.imm.signExtend 64 else f.imm.setWidth 64
/-- A threads' mask of a group pushes the successor of the slot on its return stacks (R140). -/
def pushReturn (c : Ctx) (s : State) : State :=
  updGroup s c.r fun g => updThreads g c.act fun _ th => { th with stack := (some (pcNext c.pc) :: th.stack).take 8, depth := th.depth + 1 }
/-- The active threads drop their newest return entry; deeper than 8 the oldest of the eight is awaited (R140). -/
def popReturn (c : Ctx) (s : State) : State :=
  updGroup s c.r fun g => updThreads g c.act fun l th =>
    { th with stack := th.stack.drop 1 ++ (if 8 < (threadAt c.g l).depth then [none] else []), depth := th.depth - 1 }
/-- Active lanes whose return stack is deeper than `n`. -/
def deeperThan (c : Ctx) (n : Nat) : BitVec 32 := laneMask fun l => c.act.getLsbD l && decide (n < (threadAt c.g l).depth)

/-- The address of a lane of an M-format instruction (R150), modulo 2^64: A, an index scaled, and OFF. -/
def laneAddr (c : Ctx) (f : MF) (l : Nat) : DWord :=
  c.a64 l + (if f.mod.toNat.testBit 10 then (c.b32 l).signExtend 64 <<< (f.mod.toNat / 256 % 4) else 0) + f.off.signExtend 64
/-- The access of an M-format instruction in the lanes `m`: its identity, and its captured address and data (R162); a window address
has 32 bits. -/
def IsAccess (i : Instr) (s : State) (c : Ctx) (f : MF) (m : BitVec 32) (win : Bool) (data : Nat → LaneVal) (a : Access) : Prop :=
  a.opc = i.opc ∧ a.sub = i.sub ∧ a.mod = f.mod.toNat ∧ a.lanes = m ∧ a.all = (if isFenceOp i.opc then c.act else m) ∧ a.pc = c.pc ∧ a.slot2 = c.slot2 ∧ a.tok = c.g.tok
    ∧ a.born = stamp s ∧ a.fault = none ∧ a.stage = 0 ∧ a.dst = BitVec.ofNat 13 f.dst.toBits ∧
  ∀ l, m.getLsbD l = true →
    Lanes.at a.addr l 0 = (if win then ((laneAddr c f l).setWidth 32).setWidth 64 else laneAddr c f l) ∧ Lanes.at a.data l 0 = data l
/-- `i` issues the access `a`: with no lane it has no effect; else, with room in the queue, it enters the queue, tried at once if `now`;
in a deterministic launch a write to memory is tried at its issue (R317, R323). -/
def IssuesAccess (i : Instr) (s : State) (c : Ctx) (dest now : Bool) (a : Access) : Prop :=
  let vec : Option (Nat → LaneVal) := if dest then some fun _ => 0 else none
  let plain := lrDet c.gr.lr = false ∨ isReadOp a.opc = true ∨ isFenceOp a.opc = true ∨ isWindowOp a.opc = true
  (a.lanes = 0 → Retires i s c { vec := vec }) ∧
  (a.lanes ≠ 0 → queueFull c.g = false → plain → Retires i s c
    { vec := vec, lazy := true, post := fun s => if now then runTok (pushAccess c.r a s) c.r a.tok else pushAccess c.r a s }) ∧
  (a.lanes ≠ 0 → queueFull c.g = false → ¬plain → ∀ u, tryAccess (pushAccess c.r a c.s) c.r c.g.queue.length false = .done u →
    Retires i s c { vec := vec, lazy := true, post := fun s => runTok (pushAccess c.r a s) c.r a.tok })
/-- `i` is a group wait with the entry `a`: with no active lane a switch point that changes the states of its registers only (R56; log
entry 129), else the wait is entered, and `f` follows. -/
def EntersWait (i : Instr) (s : State) (c : Ctx) (a : Access) (f : State → State) : Prop :=
  (c.act = 0 → Retires i s c { vec := some fun _ => 0 }) ∧
  (c.act ≠ 0 → queueFull c.g = false →
    Retires i s c { vec := some fun _ => 0, lazy := true, post := fun s => f (pushAccess c.r a s) })
/-- `i` sends a Milliner request: a long-latency result, EMPTY until the request is performed; a mutating one of a deterministic launch
waits for its turn. -/
def SendsRequest (i : Instr) (s : State) (c : Ctx) (f : RRR) : Prop :=
  (c.act = 0 → Retires i s c {}) ∧
  (c.act ≠ 0 → queueFull c.g = false → ∃ a : Access, a.opc = i.opc ∧ a.sub = i.sub ∧ a.mod = f.mod.toNat ∧ a.lanes = c.act ∧
    (a.stage = if isMutating i.opc && lrDet c.gr.lr && ticketBuffers c.gr c.t && !c.t.tk.abortMark then 2 else 0) ∧
    (∀ l, c.act.getLsbD l = true →
      (Lanes.at a.addr l 0).setWidth 32 = c.a32 l ∧ (Lanes.at a.data l 0).setWidth 32 = c.b32 l) ∧
    Retires i s c { vec := some fun _ => 0, lazy := true, post := pushAccess c.r a })
/-- `i` reads its 64-byte descriptor, whose fields pass their checks, and enters the queue. -/
def SendsMessage (i : Instr) (s : State) (c : Ctx) (f : MF) : Prop :=
  let vec : Option (Nat → LaneVal) := if i.opc = 0xfb then some fun _ => 0 else none
  (c.act = 0 → Retires i s c { vec := vec }) ∧
  ∀ d load, c.act ≠ 0 → lineLoad c true 6 ((laneAddr c f c.low).toNat % 2 ^ 32) 0 = .got d load →
    lowestCode (xdCodes c (fabClass i.opc) d) = none → queueFull c.g = false → ∃ a : Access, a.opc = i.opc ∧ a.lanes = c.act ∧
      (a.stage = if lrDet c.gr.lr && ticketBuffers c.gr c.t && !c.t.tk.abortMark then 2 else 0) ∧
      (∀ k, k < 4 → (Lanes.at a.data k 0).toNat = dNat d (16 * k) 16) ∧
      Retires i s c { vec := vec, lazy := true, post := fun s => pushAccess c.r a (load s) }

/-- An instruction that only computes: its one result, flags and program counters are its whole effect. -/
def onlyComputes : Instr → Bool
  | .nop _ | .iadd _ | .iaddi _ | .isub _ | .imul _ | .imulh _ | .imad _ | .idiv _ | .imin _ | .imax _ | .iabs _ | .icmp _ _ | .icmpi _ _
  | .lop3 _ | .lopi _ | .shf _ _ | .shfi _ _ | .bfe _ | .bfi _ | .popc _ | .clz _ | .brev _ | .sel _ | .mov _ | .movi _ | .movsr _
  | .add64 _ | .add64i _ | .mad64 _ | .lea _ | .cmp64 _ _ | .pset _ | .idot4 _ | .prmt _ | .fadd _ | .fmul _ | .ffma _ | .fmin _
  | .fmax _ | .fcmp _ _ | .fclass _ | .fscale _ | .frnd _ | .fdiv _ | .fsqrt _ | .frcp _ | .frsq _ | .fexp2 _ | .flog2 _ | .fsin _
  | .fcos _ | .ftanh _ | .cvt _ | .cvti _ | .cvtsr _ | .bxpack _ | .bxunp _ | .faddi _ | .fmuli _ | .rngskip _ | .csrr _ | .shfl _ _
  | .vote _ _ | .scan _ _ | .gred _ | .fmaxi _ | .fmini _ | .sample _ | .matchLanes _ _ | .umov _ | .uadd _ | .umad _ | .ulop3 _
  | .ushf _ | .ucmp _ | .slogctlQuery _ => true
  | _ => false
/-- A file register is one that the destination of an instruction names, or lies in a loop queue's run. -/
def destReg (c : Ctx) (n : Nat) : Bool :=
  (decide (c.h.dst.index.toNat ≤ n) && decide (n < c.h.dst.index.toNat + c.h.kd.regs c.h.dst)) || (runOf c.g n).isSome
/-- The parts of a state outside teams and time are the same. -/
def SameRest (s t : State) : Prop :=
  t.grids = s.grids ∧ t.parked = s.parked ∧ t.saves = s.saves ∧ t.nextGrid = s.nextGrid ∧ t.clusters = s.clusters
    ∧ t.coreRegs = s.coreRegs ∧ t.l1 = s.l1 ∧ t.guests = s.guests ∧ t.records = s.records ∧ t.monitors = s.monitors ∧ t.parts = s.parts
    ∧ t.queues = s.queues ∧ t.pkg = s.pkg ∧ t.budgets = s.budgets ∧ t.fabric = s.fabric ∧ t.host = s.host ∧ t.boot = s.boot
/-- What of a team no computing instruction changes. -/
def SameTeam (t u : Team) : Prop :=
  u.ref = t.ref ∧ u.part = t.part ∧ u.core = t.core ∧ u.slot = t.slot ∧ u.banks = t.banks ∧ u.accN = t.accN ∧ u.acc = t.acc
    ∧ u.stream = t.stream ∧ u.eops = t.eops ∧ u.tk = t.tk ∧ u.regs.owner = t.regs.owner ∧ u.regs.xfer = t.regs.xfer
    ∧ u.regs.maps = t.regs.maps ∧ u.regs.bars = t.regs.bars ∧ u.regs.bartmo = t.regs.bartmo ∧ u.regs.mstat = t.regs.mstat
/-- What of a group no computing instruction changes. -/
def SameGroup (g u : Group) : Prop :=
  u.queue = g.queue ∧ u.pending = g.pending ∧ u.cause = g.cause ∧ u.saved = g.saved ∧ u.lfsr = g.lfsr ∧ u.ser = g.ser
    ∧ u.role = g.role ∧ u.side = g.side ∧ u.joins = g.joins ∧ u.watch = g.watch ∧ u.barts = g.barts ∧ u.outRel = g.outRel
    ∧ u.copyCancelled = g.copyCancelled ∧ u.copyRange = g.copyRange ∧ u.csrw = g.csrw ∧ u.lines = g.lines
/-- What of a thread no computing instruction changes. -/
def SameThread (x y : Thread) : Prop :=
  y.present = x.present ∧ y.tid = x.tid ∧ y.stack = x.stack ∧ y.depth = x.depth ∧ y.mark = x.mark ∧ y.park = x.park ∧ y.rel = x.rel
    ∧ y.post = x.post ∧ y.narrow = x.narrow
/-- A place covers a physical byte with the `n` bytes of an access. -/
def Place.coversByte (p : Place) (n pa : Nat) : Bool :=
  match p with
  | .virt _ a _ => decide (a ≤ pa) && decide (pa < a + n)
  | .bank .. => false
/-- A place covers a byte of a team's bank. -/
def Place.coversBank (p : Place) (n : Nat) (r : TeamRef) (b off : Nat) : Bool :=
  match p with
  | .virt .. => false
  | .bank q k o => q == r && k == b && decide (o ≤ off) && decide (off < o + n)
/-- CTXCTL.PART of a command. -/
def withCtxPart (s : State) (p : Nat) : State := { s with pkg := { s.pkg with ctxPart := p } }
/-- The control registers of which a write replaces some bits and every other reads as zero whatever is written (R40, R98, R142, R220,
R225, R292, R336, R362, R367, R369, R382, R388, R400): their numbers, with a mask of those bits. -/
def csrFields : List (Nat × Nat) :=
  let from' (lo hi : Nat) : Nat := 2 ^ (hi + 1) - 2 ^ lo
  [(0x010, 0x3f), (0x011, 0x3f), (0x100, from' 8 56 + 1), (0x110, from' 6 56), (0x120, from' 15 56), (0x150, from' 0 51 + 2 ^ 63),
    (0x170, from' 12 56), (0x171, from' 12 56), (0x1a0, from' 12 56), (0x1a1, from' 12 56), (0x1a3, from' 16 56), (0x1a6, from' 12 51),
    (0x1b9, from' 17 51), (0x1ba, from' 0 15 + from' 20 51)]
/-- The control registers that no write changes: DIEID, ds0 to ds15, the cause registers, the harvest map, HSUM and the identity. -/
def csrFixed (n : Nat) : Prop :=
  n = 0x021 ∨ (0x030 ≤ n ∧ n ≤ 0x03f) ∨ (0x130 ≤ n ∧ n ≤ 0x135) ∨ (0x180 ≤ n ∧ n ≤ 0x198) ∨ (0x1b0 ≤ n ∧ n ≤ 0x1b2)
/-- A context speaks of its group as it is in a state. -/
def Ctx.Of (c : Ctx) (s : State) : Prop :=
  c.s = s ∧ teamAt s c.r.team = some c.t ∧ groupAt s c.r = some c.g ∧ gridAt s c.r.team.grid = some c.gr

end Sys2Proof.Machine

open Sys2Proof Sys2Proof.Machine

/-! Integer instructions, opcodes 0x00 to 0x22. -/

/-- Integer arithmetic: the exact sum, difference, product or multiply-add wraps to 32 bits, or is clamped with IS under .SAT; the high
half of the product; minimum, maximum, absolute value (R109). -/
def Obligations.IntegerArithmetic : Prop :=
  ∀ (s : State) (c : Ctx),
    (∀ f : RRR, Issues (.iadd f) s c → GivesInt (.iadd f) s c (tySigned f.mod) (satBit f.mod)
      fun l => numOf (tySigned f.mod) (c.a32 l) + numOf (tySigned f.mod) (c.b32 l)) ∧
    (∀ f : RI, Issues (.iaddi f) s c → GivesInt (.iaddi f) s c (tySigned f.mod) (satBit f.mod)
      fun l => numOf (tySigned f.mod) (c.a32 l) + numOf (tySigned f.mod) f.imm) ∧
    (∀ f : RRR, Issues (.isub f) s c → GivesInt (.isub f) s c (tySigned f.mod) (satBit f.mod)
      fun l => numOf (tySigned f.mod) (c.a32 l) - numOf (tySigned f.mod) (c.b32 l)) ∧
    (∀ f : RRR, Issues (.imul f) s c → GivesInt (.imul f) s c (tySigned f.mod) (satBit f.mod)
      fun l => numOf (tySigned f.mod) (c.a32 l) * numOf (tySigned f.mod) (c.b32 l)) ∧
    (∀ f : RRR, Issues (.imad f) s c → GivesInt (.imad f) s c (tySigned f.mod) (satBit f.mod)
      fun l => numOf (tySigned f.mod) (c.a32 l) * numOf (tySigned f.mod) (c.b32 l) + numOf (tySigned f.mod) (c.c32 l)) ∧
    (∀ f : RRR, Issues (.imulh f) s c → GivesWords (.imulh f) s c 0
      fun l => BitVec.ofInt 32 (numOf (tySigned f.mod) (c.a32 l) * numOf (tySigned f.mod) (c.b32 l) / 4294967296)) ∧
    (∀ f : RRR, Issues (.imin f) s c → GivesWords (.imin f) s c 0
      fun l => if numOf (tySigned f.mod) (c.a32 l) ≤ numOf (tySigned f.mod) (c.b32 l) then c.a32 l else c.b32 l) ∧
    (∀ f : RRR, Issues (.imax f) s c → GivesWords (.imax f) s c 0
      fun l => if numOf (tySigned f.mod) (c.a32 l) ≤ numOf (tySigned f.mod) (c.b32 l) then c.b32 l else c.a32 l) ∧
    (∀ f : RRR, Issues (.iabs f) s c → GivesInt (.iabs f) s c true (satBit f.mod) fun l => ((c.a32 l).toInt.natAbs : Int))

/-- IDIV (R113): quotient and remainder towards zero; by zero all ones and A; of −2^31 by −1 the quotient −2^31 and the remainder 0. -/
def Obligations.IntegerDivision : Prop :=
  ∀ (s : State) (c : Ctx) (f : RRR), Issues (.idiv f) s c →
    GivesWords (.idiv f) s c 0 fun l =>
      let a := c.a32 l
      let b := c.b32 l
      if f.mod.toNat.testBit 5 then (if b = 0 then a else if tySigned f.mod then a.srem b else a.umod b)
      else if b = 0 then 0xffffffff
      else if tySigned f.mod then a.sdiv b else a.udiv b

/-- LOP3 and LOPI (R110): every result bit is LUT[7 − j] with j = 4·A[i] + 2·B[i] + C[i]; LOPI takes IMM as C. -/
def Obligations.LogicFunctions : Prop :=
  ∀ (s : State) (c : Ctx),
    (∀ f : RRR, Issues (.lop3 f) s c → ∃ w, GivesWords (.lop3 f) s c 0 w ∧ ∀ l i, i < 32 →
      (w l).getLsbD i = lutBit (f.mod.toNat % 256) ((c.a32 l).getLsbD i) ((c.b32 l).getLsbD i) ((c.c32 l).getLsbD i)) ∧
    (∀ f : RI, Issues (.lopi f) s c → ∃ w, GivesWords (.lopi f) s c 0 w ∧ ∀ l i, i < 32 →
      (w l).getLsbD i = lutBit (f.mod.toNat % 256) ((c.a32 l).getLsbD i) ((c.b32 l).getLsbD i) (f.imm.getLsbD i))

/-- SHF and SHFI (R111): a shift by the width or more gives 0 or copies of the top bit, a rotation counts modulo the width. -/
def Obligations.Shifts : Prop :=
  ∀ (s : State) (c : Ctx) (k : ShiftKind),
    (∀ f : RRR, Issues (.shf k f) s c →
      if modTy f.mod = .n64 then GivesDWords (.shf k f) s c 0 fun l => shiftWord k (c.a64 l) (c.b32 l).toNat
      else GivesWords (.shf k f) s c 0 fun l => shiftWord k (c.a32 l) (c.b32 l).toNat) ∧
    (∀ f : RI, Issues (.shfi k f) s c →
      if modTy f.mod = .n64 then GivesDWords (.shfi k f) s c 0 fun l => shiftWord k (c.a64 l) (f.imm.toNat % 128)
      else GivesWords (.shfi k f) s c 0 fun l => shiftWord k (c.a32 l) (f.imm.toNat % 128))

/-- BFE and BFI (R112): the field of len′ = min(len, 32 − pos) bits at pos; it is empty when pos ≥ 32 or len = 0, and then BFE gives 0
and BFI gives B. -/
def Obligations.BitFields : Prop :=
  ∀ (s : State) (c : Ctx),
    (∀ f : RRR, Issues (.bfe f) s c → ∃ w, GivesWords (.bfe f) s c 0 w ∧ ∀ l i, i < 32 →
      (w l).getLsbD i =
        let pos := (c.b32 l).toNat % 256
        let len := fieldLen (c.b32 l)
        if len = 0 then false
        else if i < len then (c.a32 l).getLsbD (pos + i)
        else tySigned f.mod && (c.a32 l).getLsbD (pos + len - 1)) ∧
    (∀ f : RRR, Issues (.bfi f) s c → ∃ w, GivesWords (.bfi f) s c 0 w ∧ ∀ l i, i < 32 →
      (w l).getLsbD i =
        let pos := (c.c32 l).toNat % 256
        if pos ≤ i ∧ i < pos + fieldLen (c.c32 l) then (c.a32 l).getLsbD (i - pos) else (c.b32 l).getLsbD i)

/-- POPC, CLZ and BREV, SEL, MOV, MOVI and NOP, and ADD64, ADD64I, MAD64 and LEA, whose sums are modulo 2^64 (R109). -/
def Obligations.CountsMovesAndWideArithmetic : Prop :=
  (∀ (s : State) (c : Ctx),
    (∀ f : RRR, Issues (.nop f) s c → Retires (.nop f) s c {}) ∧
    (∀ f : RRR, Issues (.popc f) s c → GivesWords (.popc f) s c 0 fun l =>
      BitVec.ofNat 32 ((List.range 64).countP fun i => (c.a64 l).getLsbD i)) ∧
    (∀ f : RRR, Issues (.clz f) s c → GivesWords (.clz f) s c 0 fun l =>
      if modTy f.mod = .n64 then BitVec.ofNat 32 (64 - ((List.range 64).filter fun i => (c.a64 l).getLsbD i).foldl (fun _ i => i + 1) 0)
      else BitVec.ofNat 32 (32 - ((List.range 64).filter fun i => (c.a64 l).getLsbD i).foldl (fun _ i => i + 1) 0)) ∧
    (∀ f : RRR, Issues (.brev f) s c →
      if modTy f.mod = .n64 then GivesDWords (.brev f) s c 0 fun l => (c.a64 l).reverse
      else GivesWords (.brev f) s c 0 fun l => (c.a32 l).reverse) ∧
    (∀ f : RRR, Issues (.sel f) s c → GivesDWords (.sel f) s c 0 fun l =>
      let n := f.mod.toNat / 32 % 8
      if (n == 7 || (threadAt c.g l).preds.getLsbD n) != f.mod.toNat.testBit 8 then c.a64 l else c.b64 l) ∧
    (∀ f : RRR, Issues (.mov f) s c → GivesDWords (.mov f) s c 0 fun l => c.a64 l) ∧
    (∀ f : RI, Issues (.movi f) s c → GivesDWords (.movi f) s c 0 fun _ =>
      if modTy f.mod = .i64 then f.imm.signExtend 64 else f.imm.setWidth 64)) ∧
  (∀ (s : State) (c : Ctx),
    (∀ f : RRR, Issues (.add64 f) s c → GivesDWords (.add64 f) s c 0 fun l => c.a64 l + c.b64 l) ∧
    (∀ f : RI, Issues (.add64i f) s c → GivesDWords (.add64i f) s c 0 fun l => c.a64 l + f.imm.signExtend 64) ∧
    (∀ f : RRR, Issues (.mad64 f) s c → GivesDWords (.mad64 f) s c 0 fun l =>
      (if tySigned f.mod then (c.a32 l).signExtend 64 * (c.b32 l).signExtend 64
        else (c.a32 l).setWidth 64 * (c.b32 l).setWidth 64) + c.c64 l) ∧
    (∀ f : RRR, Issues (.lea f) s c → GivesDWords (.lea f) s c 0 fun l =>
      c.a64 l + (if tySigned f.mod then (c.b32 l).signExtend 64 else (c.b32 l).setWidth 64) <<< (f.mod.toNat / 32 % 8)))

/-- ICMP, ICMPI and CMP64 (R109) with the combination of R107, and PSET (R114). -/
def Obligations.ComparesAndPredicates : Prop :=
  ∀ (s : State) (c : Ctx),
    (∀ (k : Cc) (f : RRR), Issues (.icmp k f) s c → GivesPreds (.icmp k f) s c 0 fun l =>
      combined f.mod (threadAt c.g l) (holds k (numOf (tySigned f.mod) (c.a32 l)) (numOf (tySigned f.mod) (c.b32 l)))) ∧
    (∀ (k : Cc) (f : RI), Issues (.icmpi k f) s c → GivesPreds (.icmpi k f) s c 0 fun l =>
      combined f.mod (threadAt c.g l) (holds k (numOf (tySigned f.mod) (c.a32 l)) (numOf (tySigned f.mod) f.imm))) ∧
    (∀ (k : Cc) (f : RRR), Issues (.cmp64 k f) s c → GivesPreds (.cmp64 k f) s c 0 fun l =>
      combined f.mod (threadAt c.g l)
        (if tySigned f.mod then holds k (c.a64 l).toInt (c.b64 l).toInt else holds k (c.a64 l).toNat (c.b64 l).toNat)) ∧
    (∀ f : RRR, Issues (.pset f) s c → GivesPreds (.pset f) s c 0 fun l =>
      let p (k : Nat) : Bool :=
        let n := f.mod.toNat / 2 ^ (8 + 4 * k) % 8
        (n == 7 || (threadAt c.g l).preds.getLsbD n) != f.mod.toNat.testBit (11 + 4 * k)
      lutBit (f.mod.toNat % 256) (p 0) (p 1) (p 2))

/-- IDOT4 and PRMT (R115). -/
def Obligations.ByteOperations : Prop :=
  ∀ (s : State) (c : Ctx),
    (∀ f : RRR, Issues (.idot4 f) s c → GivesInt (.idot4 f) s c (tySigned f.mod) (satBit f.mod) fun l =>
      let x (w : Word) (q : Nat) : Int := if tySigned f.mod then (byteAt w q).toInt else (byteAt w q).toNat
      numOf (tySigned f.mod) (c.c32 l) + x (c.a32 l) 0 * x (c.b32 l) 0 + x (c.a32 l) 1 * x (c.b32 l) 1
        + x (c.a32 l) 2 * x (c.b32 l) 2 + x (c.a32 l) 3 * x (c.b32 l) 3) ∧
    (∀ f : RRR, Issues (.prmt f) s c → ∃ w, GivesWords (.prmt f) s c 0 w ∧ ∀ l k, k < 4 →
      byteAt (w l) k =
        let sel := (byteAt (c.c32 l) k).toNat
        let x := if sel % 8 < 4 then byteAt (c.a32 l) (sel % 8) else byteAt (c.b32 l) (sel % 8 - 4)
        match sel / 16 % 4 with
        | 0 => x
        | 1 => 0
        | 2 => if x.getLsbD 7 then 0xff else 0
        | _ => ~~~x)

/-! Floating point, conversions and random numbers, opcodes 0x30 to 0x4a; special registers. -/

/-- The floating-point arithmetic, comparison and rounding instructions complete with the result and the flags of their operation on
each element of each active lane, after ABS and NEG of the operands (R117 to R121). -/
def Obligations.FloatArithmetic : Prop :=
  ∀ (s : State) (c : Ctx),
    (∀ f : RRR, Issues (.fadd f) s c → GivesLanes (.fadd f) s c fun l =>
      byElem2 (modTy f.mod) (fun t => fpAdd t (fpMod f.mod)) (opndSign f.mod 0 (c.av l)) (opndSign f.mod 1 (c.bv l))) ∧
    (∀ f : RRR, Issues (.fmul f) s c → GivesLanes (.fmul f) s c fun l =>
      byElem2 (modTy f.mod) (fun t => fpMul t (fpMod f.mod)) (opndSign f.mod 0 (c.av l)) (opndSign f.mod 1 (c.bv l))) ∧
    (∀ f : RRR, Issues (.ffma f) s c → GivesLanes (.ffma f) s c fun l =>
      byElem3 (modTy f.mod) (fun t => fpFma t (fpMod f.mod)) (opndSign f.mod 0 (c.av l)) (opndSign f.mod 1 (c.bv l))
        (opndSign f.mod 2 (c.cv l))) ∧
    (∀ f : RI, Issues (.faddi f) s c → GivesLanes (.faddi f) s c fun l =>
      byElem2 (modTy f.mod) (fun t => fpAdd t (fpMod f.mod))
        (byElem1 (modTy f.mod) (fun t x => (absNeg t false (f.mod.toNat.testBit 10) x, 0)) (c.av l)).1 f.imm.toNat) ∧
    (∀ f : RI, Issues (.fmuli f) s c → GivesLanes (.fmuli f) s c fun l =>
      byElem2 (modTy f.mod) (fun t => fpMul t (fpMod f.mod))
        (byElem1 (modTy f.mod) (fun t x => (absNeg t false (f.mod.toNat.testBit 10) x, 0)) (c.av l)).1 f.imm.toNat) ∧
    (∀ f : RRR, Issues (.fmin f) s c → GivesLanes (.fmin f) s c fun l =>
      byElem2 (modTy f.mod) (fun t => fpMinMax t false (f.mod.toNat.testBit 8)) (c.av l) (c.bv l)) ∧
    (∀ f : RRR, Issues (.fmax f) s c → GivesLanes (.fmax f) s c fun l =>
      byElem2 (modTy f.mod) (fun t => fpMinMax t true (f.mod.toNat.testBit 8)) (c.av l) (c.bv l)) ∧
    (∀ f : RRR, Issues (.fclass f) s c → GivesLanes (.fclass f) s c fun l => (fpClass (Ty.fmt (modTy f.mod)) (c.av l), 0)) ∧
    (∀ f : RRR, Issues (.fscale f) s c → GivesLanes (.fscale f) s c fun l =>
      fpScale (Ty.fmt (modTy f.mod)) (fpModNoSat f.mod) (c.av l) (c.bv l)) ∧
    (∀ f : RRR, Issues (.frnd f) s c → GivesLanes (.frnd f) s c fun l =>
      fpRound (Ty.fmt (modTy f.mod)) (RM.get (modBits f.mod 5 3)) (c.av l)) ∧
    (∀ f : RRR, Issues (.fdiv f) s c → GivesLanes (.fdiv f) s c fun l =>
      fpDiv (Ty.fmt (modTy f.mod)) (fpModNoSat f.mod) (c.av l) (c.bv l)) ∧
    (∀ f : RRR, Issues (.fsqrt f) s c → GivesLanes (.fsqrt f) s c fun l =>
      fpSqrt (Ty.fmt (modTy f.mod)) (fpModNoSat f.mod) (c.av l)) ∧
    (∀ (k : Fcc) (f : RRR), Issues (.fcmp k f) s c →
      GivesPreds (.fcmp k f) s c (laneFlags c.act fun l => (fpCmp (Ty.fmt (modTy f.mod)) k (f.mod.toNat.testBit 11) (c.av l) (c.bv l)).2)
        fun l => combined f.mod (threadAt c.g l) (fpCmp (Ty.fmt (modTy f.mod)) k (f.mod.toNat.testBit 11) (c.av l) (c.bv l)).1)

/-- The special functions, the conversions and the block packings complete with the result and the flags of their function in each active
lane (R121 to R130). -/
def Obligations.SpecialFunctionsAndConversions : Prop :=
  ∀ (s : State) (c : Ctx),
    (∀ f : RRR, Issues (.frcp f) s c → GivesLanes (.frcp f) s c fun l => specialLane .rcp (f.mod.toNat.testBit 8) (c.av l)) ∧
    (∀ f : RRR, Issues (.frsq f) s c → GivesLanes (.frsq f) s c fun l => specialLane .rsq (f.mod.toNat.testBit 8) (c.av l)) ∧
    (∀ f : RRR, Issues (.fexp2 f) s c → GivesLanes (.fexp2 f) s c fun l => specialLane .exp2 (f.mod.toNat.testBit 8) (c.av l)) ∧
    (∀ f : RRR, Issues (.flog2 f) s c → GivesLanes (.flog2 f) s c fun l => specialLane .log2 (f.mod.toNat.testBit 8) (c.av l)) ∧
    (∀ f : RRR, Issues (.fsin f) s c → GivesLanes (.fsin f) s c fun l => specialLane .sin (f.mod.toNat.testBit 8) (c.av l)) ∧
    (∀ f : RRR, Issues (.fcos f) s c → GivesLanes (.fcos f) s c fun l => specialLane .cos (f.mod.toNat.testBit 8) (c.av l)) ∧
    (∀ f : RRR, Issues (.ftanh f) s c → GivesLanes (.ftanh f) s c fun l => specialLane .tanh (f.mod.toNat.testBit 8) (c.av l)) ∧
    (∀ f : RRR, Issues (.cvt f) s c → GivesLanes (.cvt f) s c fun l =>
      cvtLane f.mod (cvtCode (modTy f.mod) (modSty f.mod) (RM.get (modBits f.mod 10 3)) (f.mod.toNat.testBit 13)) (c.av l) (c.bv l)) ∧
    (∀ f : RRR, Issues (.cvti f) s c → GivesLanes (.cvti f) s c fun l =>
      cvtLane f.mod (cvtInt (modTy f.mod) (modSty f.mod) (f.mod.toNat.testBit 13)) (c.av l) (c.bv l)) ∧
    (∀ f : RRR, Issues (.cvtsr f) s c → GivesLanes (.cvtsr f) s c fun l =>
      cvtLane f.mod (fun x => cvtStoch (modTy f.mod) (modSty f.mod) (f.mod.toNat.testBit 13) x (c.bv l)) (c.av l) (c.cv l)) ∧
    (∀ f : RRR, Issues (.bxpack f) s c → GivesLanes (.bxpack f) s c fun l =>
      bxPackLane (modTy f.mod) (modSty f.mod) (f.mod.toNat.testBit 10) (c.av l) (c.bv l)) ∧
    (∀ f : RRR, Issues (.bxunp f) s c → GivesLanes (.bxunp f) s c fun l =>
      bxUnpLane (modTy f.mod) (modSty f.mod) (modBits f.mod 10 2) (RM.get (modBits f.mod 12 3)) (c.av l) (c.bv l))

/-- RNGDRAW (R132): D is RNG_BLOCK of the key and the counter, and the counter quad B goes up by one modulo 2^128 in the active lanes.
RNGSKIP (R133): D is A + B modulo 2^128. -/
def Obligations.RandomNumbers : Prop :=
  ∀ (s : State) (c : Ctx),
    (∀ (f : RRR) (n : BitVec 8) (fe dead : Bool), f.sb = .file n fe dead → Issues (.rngdraw f) s c → c.act ≠ 0 →
      Retires (.rngdraw f) s c
        { vec := some fun l => BitVec.ofNat 128 (rngBlock (c.av l) (c.bv l))
          post := fun s => updGroup s c.r fun g =>
            writeVec g ⟨n, false, false, 0⟩ 4 true false c.act fun l => Lanes.at c.b l 0 + 1 }) ∧
    (∀ f : RRR, Issues (.rngskip f) s c → ∃ v : Nat → LaneVal,
      Retires (.rngskip f) s c { vec := some v } ∧ ∀ l, v l = Lanes.at c.a l 0 + Lanes.at c.b l 0)

/-- RNG_BLOCK (R131) is ten rounds of the stated multiplications and exclusive ORs: one round from its words, and the whole from rounds. -/
def Obligations.RandomBlockRounds : Prop :=
  ∃ round : List Word → List Word,
    (∀ k0 k1 c0 c1 c2 c3 : Word, round [k0, k1, c0, c1, c2, c3] =
      let q0 := c0.setWidth 64 * (0xc2b2ae3d : DWord)
      let q1 := c2.setWidth 64 * (0x9e6c63d1 : DWord)
      [k0 + 0x9b05688d, k1 + 0x5be0cd1b, (q1 >>> 32).setWidth 32 ^^^ c1 ^^^ k0, q1.setWidth 32,
        (q0 >>> 32).setWidth 32 ^^^ c3 ^^^ k1, q0.setWidth 32]) ∧
    ∀ k0 k1 c0 c1 c2 c3 : Word,
      rngBlock (k0.toNat + 2 ^ 32 * k1.toNat) (c0.toNat + 2 ^ 32 * c1.toNat + 2 ^ 64 * c2.toNat + 2 ^ 96 * c3.toNat) =
        match Nat.repeat round 10 [k0, k1, c0, c1, c2, c3] with
        | [_, _, x0, x1, x2, x3] => x0.toNat + 2 ^ 32 * x1.toNat + 2 ^ 64 * x2.toNat + 2 ^ 96 * x3.toNat
        | _ => 0

/-- MOVSR gives each active lane the special register IMM names (R116); PMOV moves the predicates between the file and a vector register
(R114). -/
def Obligations.SpecialRegistersAndPredicates : Prop :=
  ∀ (s : State) (c : Ctx),
    (∀ f : RI, Issues (.movsr f) s c → GivesDWords (.movsr f) s c 0 fun l => BitVec.ofNat 64 (specialVal c f.imm.toNat l)) ∧
    (∀ l, specialVal c 0x00 l = (threadAt c.g l).tid ∧ specialVal c 0x04 l = l ∧ specialVal c 0x05 l = c.r.grp
      ∧ specialVal c 0x12 l = c.t.core / 48 ∧ specialVal c 0x13 l = coreClass c.s c.t.core ∧ specialVal c 0x14 l = c.t.part
      ∧ specialVal c 0x18 l = c.r.team.lin ∧ specialVal c 0x19 l = lrBranch c.gr.lr) ∧
    (∀ f : RRR, Issues (.pmov f) s c → f.mod.toNat.testBit 0 = false → ∃ w, GivesWords (.pmov f) s c 0 w ∧ ∀ l i, i < 32 →
      (w l).getLsbD i = ((threadAt c.g l).preds.getLsbD i || i == 7)) ∧
    (∀ f : RRR, Issues (.pmov f) s c → f.mod.toNat.testBit 0 = true → ∃ p : Nat → Thread → BitVec 7,
      Retires (.pmov f) s c { post := fun s => updGroup s c.r fun g => updThreads g c.act fun l t => { t with preds := p l t } } ∧
      ∀ l t i, i < 7 → (p l t).getLsbD i = if f.mod.toNat.testBit (1 + i) then (c.a32 l).getLsbD i else t.preds.getLsbD i)

/-! Control, opcodes 0x60 to 0x6d. -/

/-- BRA, BRAU, BRX and LOOPU whose targets pass R53 and R52 (R136 to R139): BRA goes to its target, BRAU where all 64 bits of the uniform
register are zero or are not, BRX to each lane's own target; LOOPU counts down, wrapping, and goes to its target where the counter is
not zero. A transfer, of calls and RET too, with a target that breaks R53 or is not marked (R52) traps BADTGT in those lanes, with the
target of the lowest (R219), and takes effect in no lane (R137); a BRAU or LOOPU that transfers no lane looks at no target. -/
def Obligations.Branches : Prop :=
  (∀ (s : State) (c : Ctx) (f : BF),
    (Issues (.bra f) s c → badTargets c c.act (fun _ => targetOf c f) = 0 → Jumps (.bra f) s c (fun _ => targetOf c f) id) ∧
    (∀ k, Issues (.brau k f) s c → badTargets c c.act (fun _ => targetOf c f) = 0 →
      Jumps (.brau k f) s c (fun _ => if (c.a64 c.low = 0 ↔ k = .z) then targetOf c f else pcNext c.pc) id) ∧
    (Issues (.brx f) s c → badTargets c c.act (fun l => c.a64 l) = 0 → Jumps (.brx f) s c (fun l => c.a64 l) id) ∧
    (Issues (.loopu f) s c → badTargets c (laneMask fun l => c.act.getLsbD l && c.a32 l != 1) (fun _ => targetOf c f) = 0 →
      ∃ (v : Nat → LaneVal) (p : Nat → DWord) (m : BitVec 32), Retires (.loopu f) s c { vec := some v, pcs := some p, jump := m, post := id } ∧
        ∀ l, c.act.getLsbD l = true →
          (v l).setWidth 32 = c.a32 l - 1 ∧ m.getLsbD l = (c.a32 l - 1 != 0)
            ∧ p l = if c.a32 l - 1 = 0 then pcNext c.pc else targetOf c f)) ∧
  (∀ (s : State) (c : Ctx) (f : BF),
    let refuses (i : Instr) (m : BitVec 32) (tg : Nat → DWord) : Prop := Issues i s c → badTargets c m tg ≠ 0 →
      ∃ l, lowLane (badTargets c m tg) = some l ∧ Traps i s c ⟨tcBadtgt, 0, 0, badTargets c m tg, tg l⟩
    let there (_ : Nat) : DWord := targetOf c f
    refuses (.bra f) c.act there ∧ refuses (.call f) c.act there ∧ refuses (.brx f) c.act (fun l => c.a64 l) ∧
    refuses (.callx f) c.act (fun l => c.a64 l) ∧
    (∀ k, ((c.a64 c.low = 0 ↔ k = .z) → refuses (.brau k f) c.act there) ∧
      (¬(c.a64 c.low = 0 ↔ k = .z) → Issues (.brau k f) s c → Jumps (.brau k f) s c (fun _ => pcNext c.pc) id)) ∧
    refuses (.loopu f) (laneMask fun l => c.act.getLsbD l && c.a32 l != 1) there ∧
    refuses (.ret f) (laneMask fun l => c.act.getLsbD l && (threadAt c.g l).depth != 0) (fun l => ((threadAt c.g l).stack.headD none).getD 0)) ∧
  (∀ (c : Ctx) (m : BitVec 32) (tg : Nat → DWord) (l : Nat), l < 32 → ((badTargets c m tg).getLsbD l = true ↔ m.getLsbD l = true ∧
    (((tg l).extractLsb' 3 3 ≠ 0 ∨ 4 < (tg l).extractLsb' 0 3 ∨ (tg l).extractLsb' 57 7 ≠ if (tg l).getLsbD 56 then 127 else 0) ∨
      landingMarked c.s c.gr c.t.core (tg l) = some false)))

/-- CALL, CALLX and RET (R140): CALL and CALLX push the successor, and spill the oldest entry
where the depth was 8 or more and a held reload does not still owe it, in a deterministic launch with the translation of a write at its
issue (R323); RET goes to the newest entry and drops it, and reloads one where the depth was above 8. Above the limit, and at depth 0,
they trap STKOVF. The model's choice: RET transfers at once while its reload is outstanding, so that an entry whose reload is held is
not spilled again (log entry 21), and STKOVF names its lanes and no address (log entry 23). -/
def Obligations.CallsAndReturns : Prop :=
  ∀ (s : State) (c : Ctx) (f : BF),
    let deep := laneMask fun l => c.act.getLsbD l && decide (stackLimit c < (threadAt c.g l).depth + 1)
    let under := laneMask fun l => c.act.getLsbD l && (threadAt c.g l).depth == 0
    let top (l : Nat) : DWord := ((threadAt c.g l).stack.headD none).getD 0
    let full := laneMask fun l => c.act.getLsbD l && decide (8 ≤ (threadAt c.g l).depth) && ((threadAt c.g l).stack.getLastD none).isSome
    let spill := accessOf c full .unused 3 (fun l => spillAddr c l ((threadAt c.g l).depth - 8))
      fun l => (((threadAt c.g l).stack.getLastD none).getD 0).toNat
    let reload := accessOf c (deeperThan c 8) .unused 3 (fun l => spillAddr c l ((threadAt c.g l).depth - 9)) fun _ => 0
    (Issues (.call f) s c → badTargets c c.act (fun _ => targetOf c f) = 0 → deep = 0 → full = 0 →
      Jumps (.call f) s c (fun _ => targetOf c f) (pushReturn c)) ∧
    (Issues (.callx f) s c → badTargets c c.act (fun l => c.a64 l) = 0 → deep = 0 → full = 0 →
      Jumps (.callx f) s c (fun l => c.a64 l) (pushReturn c)) ∧
    (∀ tg : Nat → DWord, badTargets c c.act tg = 0 →
      let spills (i : Instr) : Prop := Issues i s c → deep = 0 → full ≠ 0 → queueFull c.g = false →
        (lrDet c.gr.lr = false → Jumps i s c tg fun s => pushAccess c.r spill (pushReturn c s)) ∧
        (lrDet c.gr.lr = true → ∀ u, tryAccess (pushAccess c.r spill c.s) c.r c.g.queue.length false = .done u →
          Jumps i s c tg fun s => runTok (pushAccess c.r spill (pushReturn c s)) c.r spill.tok)
      let overflows (i : Instr) : Prop := Issues i s c → deep ≠ 0 → Traps i s c ⟨tcStkovf, 0, 0, deep, 0⟩
      ((tg = fun _ => targetOf c f) → spills (.call f) ∧ overflows (.call f)) ∧
      ((tg = fun l => c.a64 l) → spills (.callx f) ∧ overflows (.callx f))) ∧
    (Issues (.ret f) s c → badTargets c (c.act &&& ~~~under) top = 0 → under = 0 → deeperThan c 8 = 0 →
      Jumps (.ret f) s c top (popReturn c)) ∧
    (Issues (.ret f) s c → badTargets c (c.act &&& ~~~under) top = 0 → under = 0 → deeperThan c 8 ≠ 0 → queueFull c.g = false →
      Jumps (.ret f) s c top fun s => pushAccess c.r reload (popReturn c s)) ∧
    (Issues (.ret f) s c → badTargets c (c.act &&& ~~~under) top = 0 → under ≠ 0 → Traps (.ret f) s c ⟨tcStkovf, 1, 0, under, 0⟩)

/-- EXIT ends its active threads, in a handler of a deterministic launch with an abort mark (R144, R315); YIELD lets other groups go
first (R143, R199, R200). TRAP and BKPT trap with their code as INFO where a lane is active, and have no effect where none is (R145, R56).
The model's choice: TLANES of that trap is the mask of the active lanes (log entry 23). -/
def Obligations.ExitYieldAndTraps : Prop :=
  (∀ (s : State) (c : Ctx) (f : RRR),
    (Issues (.exit f) s c → Acts (.exit f) s c fun s =>
      settleTickets (endThreads (if c.g.status == .handler then markAborted s c.r.team else s) c.r c.act) c.gr.id) ∧
    (Issues (.yield f) s c → lrDetPolicy c.gr.lr = false → Acts (.yield f) s c fun s =>
      updGroup s c.r fun g => { g with yielded := true }) ∧
    (Issues (.yield f) s c → lrDetPolicy c.gr.lr = true → Acts (.yield f) s c fun s =>
      updTeam (updGroup s c.r fun g => { g with yielded := true }) c.r.team fun t => { t with curG := some (afterYield c.t c.r.grp) })) ∧
  (∀ (s : State) (c : Ctx) (f : RI),
    (Issues (.trap f) s c → c.act ≠ 0 → Traps (.trap f) s c ⟨tcSwtrap, f.imm.toNat % 65536, 0, c.act, 0⟩) ∧
    (Issues (.trap f) s c → c.act = 0 → Retires (.trap f) s c {}) ∧
    (Issues (.bkpt f) s c → c.act ≠ 0 → Traps (.bkpt f) s c ⟨tcBkpt, f.imm.toNat % 65536, 0, c.act, 0⟩) ∧
    (Issues (.bkpt f) s c → c.act = 0 → Retires (.bkpt f) s c {}))

/-- CSRR gives every active lane the register's value; CSRW writes A of the lowest active lane, the OR, or the AND NOT (R147). What CSRR
gives after a CSRW of the same register: the bits written, where the register takes them; read-only registers and fields keep their
values and reserved bits read as zero; BARTMO is at least 1,024 (R206), TLSSIZE takes no more than 1,024 (R142), counters that a write
clears are zero (R244, R320, R415), UNITS of the Milliner, the copy engines and scrub is at least 1 (R415), and commands with OP 0 change
the partition's number alone (R336, R367, R388). -/
def Obligations.ControlRegisters : Prop :=
  (∀ (c c' : Ctx) (n v : Nat), let t := csrWrite c.s c.r c.t.part c.t.core n v
    c.Of c.s → c'.r = c.r → c'.Of t → (c.s.parts.any fun x => x.num == c.t.part) = true →
    (∀ m, (n, m) ∈ csrFields → csrRead c' n = v &&& m) ∧
    (csrFixed n → t = c.s) ∧
    (n = 0x020 → csrRead c' n = max 1024 (v % 2 ^ 32)) ∧
    (n = 0x111 → csrRead c' n = if 1024 < v % 2 ^ 11 then csrRead c n else v % 2 ^ 11) ∧
    (n = 0x140 → csrRead c' n = v % 2 ^ 32) ∧ (n = 0x160 → csrRead c' n % 2 ^ 32 = 0) ∧
    (0x1c0 ≤ n → n ≤ 0x1c4 → n - 0x1c0 < c.s.budgets.length →
      csrRead c' n = if v % 2 ^ 32 = 0 ∧ 0x1c2 ≤ n then 1 else v % 2 ^ 32) ∧
    (n = 0x1a4 → csrRead c' n = v % 64 + 2 ^ 8 * queueOcc c.s (v % 64)) ∧
    (n = 0x1b8 → v < 2 ^ 48 → ∃ k, csrRead c n = c.s.fabric.pkg + 2 ^ 16 * c.s.fabric.accept.toNat + 2 ^ 32 * k ∧
      csrRead c' n = v % 2 ^ 32 + 2 ^ 32 * k) ∧
    (bitsOf v 5 4 = 0 → (n = 0x172 → t = c.s) ∧
      (n = 0x1a5 → ∃ k, csrRead c n = c.s.pkg.partPart + 2 ^ 7 * k ∧ csrRead c' n = v % 16 + 2 ^ 7 * k) ∧
      (n = 0x1a2 → c.s.pkg.ctxBusy = false → ∃ k, csrRead c n = c.s.pkg.ctxPart + 2 ^ 6 * k ∧ csrRead c' n = v % 16 + 2 ^ 6 * k))) ∧
  ∀ (s : State) (c : Ctx),
    (∀ f : RI, Issues (.csrr f) s c → GivesDWords (.csrr f) s c 0 fun _ => BitVec.ofNat 64 (csrRead c f.imm.toNat)) ∧
    (∀ (k : CsrOp) (f : RI), Issues (.csrw k f) s c → Acts (.csrw k f) s c fun s =>
      let w := (csrWidth f.imm.toNat).getD 32
      let a := c.av c.low % 2 ^ w
      let old := csrRead c f.imm.toNat
      csrWrite s c.r c.t.part c.t.core f.imm.toNat (match k with | .write => a | .set => old ||| a | .clr => old &&& (2 ^ w - 1 - a)))

/-! Cross-lane instructions, opcodes 0xa0 to 0xab. -/

/-- SHFL copies between lanes of a segment (R179); VOTE and MATCH read the active lanes only (R180, R184). -/
def Obligations.LaneExchange : Prop :=
  ∀ (s : State) (c : Ctx),
    (∀ (k : ShflKind) (f : RRR), Issues (.shfl k f) s c → GivesDWords (.shfl k f) s c 0 fun l =>
      let w := 32 / 2 ^ (f.mod.toNat / 32 % 8)
      let base := l - l % w
      let b := (c.b32 l).toNat
      c.a64 (match k with
        | .idx => base + b % w
        | .up => if l - base < b then l else l - b
        | .down => if base + w - l ≤ b then l else l + b
        | .xor => base + ((l - base) ^^^ (b % w)))) ∧
    (∀ f : RRR, Issues (.vote .all f) s c → ∃ p : Nat → Bool, GivesPreds (.vote .all f) s c 0 p ∧
      ∀ l, p l = true ↔ ∀ j, c.act.getLsbD j = true → predOf (threadAt c.g j) (modPred f.mod 0) = true) ∧
    (∀ f : RRR, Issues (.vote .any f) s c → ∃ p : Nat → Bool, GivesPreds (.vote .any f) s c 0 p ∧
      ∀ l, p l = true ↔ ∃ j, c.act.getLsbD j = true ∧ predOf (threadAt c.g j) (modPred f.mod 0) = true) ∧
    (∀ f : RRR, Issues (.vote .bal f) s c → ∃ w, GivesWords (.vote .bal f) s c 0 w ∧
      ∀ l j, j < 32 → (w l).getLsbD j = (c.act.getLsbD j && predOf (threadAt c.g j) (modPred f.mod 0))) ∧
    (∀ f : RRR, Issues (.matchLanes .any f) s c → ∃ w, GivesWords (.matchLanes .any f) s c 0 w ∧ ∀ l j, j < 32 → (w l).getLsbD j =
      (c.act.getLsbD j && if modTy f.mod = .n64 then c.a64 j == c.a64 l else c.a32 j == c.a32 l)) ∧
    (∀ f : RRR, Issues (.matchLanes .all f) s c → ∃ w, GivesWords (.matchLanes .all f) s c 0 w ∧ ∀ l,
      ((∀ i j, c.act.getLsbD i = true → c.act.getLsbD j = true →
        if modTy f.mod = .n64 then c.a64 i = c.a64 j else c.a32 i = c.a32 j) → w l = c.act) ∧
      (¬(∀ i j, c.act.getLsbD i = true → c.act.getLsbD j = true →
        if modTy f.mod = .n64 then c.a64 i = c.a64 j else c.a32 i = c.a32 j) → w l = 0))

/-- SCAN and GRED combine along the tree of R46 (R181), FMAXI and FMINI pick a value with its index (R182), SAMPLE draws a lane by
weight (R183). -/
def Obligations.LaneTrees : Prop :=
  ∀ (s : State) (c : Ctx),
    (∀ f : RRR, Issues (.scan .inc f) s c → GivesLanes (.scan .inc f) s c fun l =>
      let r := prefixVal (scanOpOf f.mod) c.act (laneIn c f.mod) l
      (r.1.getD (scanIdentity (modTy f.mod) (modBits f.mod 5 3)), r.2)) ∧
    (∀ f : RRR, Issues (.scan .exc f) s c → GivesLanes (.scan .exc f) s c fun l =>
      let r := if l = 0 then (none, 0) else prefixVal (scanOpOf f.mod) c.act (laneIn c f.mod) (l - 1)
      (r.1.getD (scanIdentity (modTy f.mod) (modBits f.mod 5 3)), r.2)) ∧
    (∀ f : RRR, Issues (.gred f) s c → GivesLanes (.gred f) s c fun _ =>
      let r := treeVal (scanOpOf f.mod) c.act (laneIn c f.mod) 5 0
      (r.1.getD 0, r.2)) ∧
    (∀ f : RRR, Issues (.fmaxi f) s c → ∃ v, GivesLanes (.fmaxi f) s c v ∧ pickAct c f.mod true = vecAct c v) ∧
    (∀ f : RRR, Issues (.fmini f) s c → ∃ v, GivesLanes (.fmini f) s c v ∧ pickAct c f.mod false = vecAct c v) ∧
    (∀ f : RRR, Issues (.sample f) s c → GivesLanes (.sample f) s c fun l =>
      let a (l : Nat) : Nat := c.av l % 2 ^ 32
      let r := sampleVal c.act a (c.bv c.low % 2 ^ 32)
      (r.1, r.2 ||| (weightOf (a l)).2))

/-- LSER and LSEND (R185), REHOME (R187), LFSRSET (R188) and GJOIN (R189). -/
def Obligations.SerialRegionsAndJoins : Prop :=
  ∀ (s : State) (c : Ctx),
    (∀ f : RRR, Issues (.lser f) s c → Acts (.lser f) s c fun s => updGroup s c.r fun g =>
      if g.ser.opened then holdAt g (c.act &&& ~~~(laneMask fun l => l == g.ser.cur)) c.pc
      else { (holdAt g (c.act &&& ~~~(laneMask fun l => l == c.low)) (pcNext c.pc)) with ser := ⟨true, c.act, 0, c.low, pcNext c.pc⟩ }) ∧
    (∀ f : RRR, Issues (.lsend f) s c → Acts (.lsend f) s c fun s => updGroup s c.r fun g =>
      let m := laneMask fun l => l == g.ser.cur
      if g.ser.opened && c.act.getLsbD g.ser.cur then
        serialNext { (holdAt g m (pcNext c.pc)) with ser := { g.ser with done := g.ser.done ||| m } }
      else g) ∧
    (∀ f : RRR, Issues (.rehome f) s c → anyEmpty c.g = false → Acts (.rehome f) s c fun s => updGroup s c.r fun g =>
      if g.ser.opened then g
      else (lanesOf c.act).foldl (fun g l =>
        let t := c.av l % 32
        if t == l || (threadAt g t).present then g else moveLane g l t) g) ∧
    (∀ f : RI, Issues (.lfsrset f) s c → Acts (.lfsrset f) s c fun s => updGroup s c.r fun g =>
      { g with lfsr := if f.mod.toNat.testBit 0 then (Lanes.at c.a c.low 0).setWidth 16 else f.imm.setWidth 16 }) ∧
    (∀ f : RRR, Issues (.gjoin f) s c → Acts (.gjoin f) s c fun s => updGroup s c.r fun g =>
      joinCheck { (updThreads g c.act fun _ t => { t with mark := .joined, pc := c.pc, land := false }) with
        sel := true, joins := if g.joins.any fun j => j.pc == c.pc then g.joins else g.joins ++ [⟨c.pc, c.s.clk, false⟩] })

/-! Uniform instructions, opcodes 0xb0 to 0xb6. -/

/-- UMOV, UADD, UMAD, ULOP3, USHF and UCMP at the type's width, a 32-bit result sign- or zero-extended (R196); UOWN records a pending
transfer (R194). -/
def Obligations.UniformInstructions : Prop :=
  ∀ (s : State) (c : Ctx),
    (∀ f : RI, Issues (.umov f) s c → GivesUni (.umov f) s c
      (let x := if f.mod.toNat.testBit 5 then c.a64 0 else if tySigned f.mod then f.imm.signExtend 64 else f.imm.setWidth 64
       uniOut f.mod (x.setWidth 32) x)) ∧
    (∀ f : RI, Issues (.uadd f) s c → GivesUni (.uadd f) s c
      (uniOut f.mod (c.a32 0 + (uniSecond c f).setWidth 32) (c.a64 0 + uniSecond c f))) ∧
    (∀ f : RRR, Issues (.umad f) s c → GivesUni (.umad f) s c
      (uniOut f.mod (c.a32 0 * c.b32 0 + c.c32 0) (c.a64 0 * c.b64 0 + c.c64 0))) ∧
    (∀ f : RRR, Issues (.ulop3 f) s c → ∃ v : DWord, GivesUni (.ulop3 f) s c v ∧ ∀ i, i < 64 →
      v.getLsbD i = lutBit (f.mod.toNat % 256) ((c.a64 0).getLsbD i) ((c.b64 0).getLsbD i) ((c.c64 0).getLsbD i)) ∧
    (∀ f : RI, Issues (.ushf f) s c → GivesUni (.ushf f) s c
      (let n := if f.mod.toNat.testBit 5 then (c.b32 0).toNat else f.imm.toNat % 128
       let k : ShiftKind := match f.mod.toNat / 64 % 4 with | 0 => .l | 1 => .r | 2 => .ra | _ => .rot
       uniOut f.mod (shiftWord k (c.a32 0) n) (shiftWord k (c.a64 0) n))) ∧
    (∀ f : RI, Issues (.ucmp f) s c → GivesUni (.ucmp f) s c
      (let k : Cc := match f.mod.toNat / 64 % 8 with | 0 => .eq | 1 => .ne | 2 => .lt | 3 => .le | 4 => .gt | _ => .ge
       let b := uniSecond c f
       let r := if tyWide (modTy f.mod) then (if tySigned f.mod then holds k (c.a64 0).toInt b.toInt else holds k (c.a64 0).toNat b.toNat)
         else holds k (numOf (tySigned f.mod) (c.a32 0)) (numOf (tySigned f.mod) (b.setWidth 32))
       if r then 1 else 0)) ∧
    (∀ f : RI, Issues (.uown f) s c → Acts (.uown f) s c fun s => updRegs s c.r.team fun r =>
      { r with xfer := r.xfer.set (f.imm.toNat % 64) (some (f.imm.toNat / 64 % 32, f.imm.toNat / 2048 % 16)) })

/-! Encoding. -/

/-- Every well-formed instruction that has an encoding decodes to itself, at every value of every operand field. Conversions to or from
block types where there are none are ILLOP (R128, R130). -/
def Obligations.DecodeOfEncode : Prop :=
  ∀ i : Instr, i.code.isSome = true → i.wf = true → bxTypeIllop i = false → decode (encode i) = .ok i

/-- A slot that decodes is the encoding of its instruction, so no bit of it is dropped; and the instruction is well-formed. -/
def Obligations.EncodeOfDecode : Prop :=
  ∀ (w : Slot) (i : Instr), decode w = .ok i → encode i = w ∧ i.wf = true ∧ i.code.isSome = true

/-- Slots that the spec writes out decode to their instructions. -/
def Obligations.WorkedSlotsDecode : Prop :=
  decode 0x000000110000000000000760 = .ok (.bra ⟨⟨false, 7⟩, .unused, .unused, 1, 2⟩) ∧
  decode 0x000000144164074000100732 =
    .ok (.ffma ⟨⟨false, 7⟩, ⟨16, false, false, 0⟩, .brim false true, .file 3 true false, .file 11 true false, 10⟩) ∧
  decode 0x000000400040004080080780 =
    .ok (.ld ⟨⟨false, 7⟩, ⟨8, false, false, 0⟩, .file 4 true false, .unused, 2, 0x40⟩) ∧
  decode 0x0000000e00188041000937a0 =
    .ok (.shfl .xor ⟨⟨false, 7⟩, ⟨9, false, false, 0⟩, .file 8 true false, .const 0, .unused, 7⟩) ∧
  decode 0x0000000300000000000007b7 = .ok (.barSync ⟨⟨false, 7⟩, .unused, .unused, .unused, 0, 3⟩) ∧
  decode 0x0000000000000041800007d2 = .ok (.mqma ⟨⟨false, 7⟩, .unused, .file 12 true false, .unused, .unused, 0⟩) ∧
  decode 0x0000002600040440200607f1 =
    .ok (.ttappend ⟨⟨false, 7⟩, ⟨6, false, false, 0⟩, .file 1 true false, .file 2 true false, .unused, 0x13⟩) ∧
  decode 0x0000004000000180400007f9 = .ok (.xfput ⟨⟨false, 7⟩, .unused, .uni 2, .unused, 0, 0x40⟩)

/-- The assigned opcodes with their assigned SUB codes as bits (R90, R96); every other pair of OPC and SUB is ILLOP, and none of these,
but for the block types of R128 and R130. -/
def Obligations.UnassignedOpcodesAreIllop : Prop :=
  ∀ w : Slot,
    let opc := w.toNat % 256
    let sub := w.toNat / 4096 % 16
    let assigned : Bool := [(0x00, 0x0a, 0x1), (0x0b, 0x0c, 0x3f), (0x0d, 0x0e, 0x1), (0x0f, 0x10, 0xf), (0x11, 0x1d, 0x1), (0x1e, 0x1e, 0x3f),
      (0x1f, 0x22, 0x1), (0x30, 0x34, 0x1), (0x35, 0x35, 0xff), (0x36, 0x4a, 0x1), (0x60, 0x60, 0x1), (0x61, 0x61, 0x3), (0x62, 0x6b, 0x1),
      (0x6c, 0x6c, 0x7), (0x6d, 0x6d, 0x1), (0x80, 0x84, 0x1), (0x85, 0x85, 0x3ff), (0x86, 0x86, 0x3bf), (0x87, 0x87, 0x3ff),
      (0x88, 0x88, 0x1), (0x89, 0x89, 0x3), (0x8a, 0x8a, 0xf), (0x8b, 0x8b, 0x1), (0x8c, 0x8c, 0x3), (0xa0, 0xa0, 0xf), (0xa1, 0xa1, 0x7),
      (0xa2, 0xa2, 0x3), (0xa3, 0xa3, 0x1), (0xa4, 0xa4, 0x3), (0xa5, 0xa5, 0x1), (0xa6, 0xa6, 0x3), (0xa7, 0xab, 0x1), (0xb0, 0xb6, 0x1),
      (0xb7, 0xb7, 0x3), (0xb8, 0xba, 0x1), (0xbb, 0xbb, 0x3), (0xbc, 0xc7, 0x1), (0xd0, 0xd5, 0x1), (0xd6, 0xd6, 0x3), (0xd7, 0xd7, 0x1),
      (0xd8, 0xd8, 0x7), (0xd9, 0xd9, 0x1), (0xda, 0xda, 0x7), (0xdb, 0xdb, 0x1), (0xe0, 0xe0, 0x7), (0xe1, 0xe3, 0x1), (0xe4, 0xe4, 0x7),
      (0xe5, 0xe5, 0x3), (0xe8, 0xea, 0x1), (0xeb, 0xeb, 0x3), (0xec, 0xed, 0x1), (0xf0, 0xf4, 0x1), (0xf5, 0xf5, 0x1f), (0xf6, 0xf6, 0x7),
      (0xf7, 0xfe, 0x1)].any fun x => decide (x.1 ≤ opc) && decide (opc ≤ x.2.1) && x.2.2.testBit sub
    (assigned = false → decode w = .illop) ∧
    (assigned = true → decode w = .illop → opc = 0x42 ∨ opc = 0x43 ∨ opc = 0x44 ∨ opc = 0x46)

/-! Steps. -/

/-- A step runs the decoded instruction. The head of the agenda decides: a core issues from its one team's first
candidate, or of two teams' from the one with the smaller issue count (R198), and a YIELD no longer holds back a group that is found to be
its team's only eligible one (R200); that group's slot is fetched at its program counter (R48 to R54) and its instruction runs alone, or with the next slot's in a pair (R78); an event
runs as such. The model's choices: the agenda says what happens next, and each step counts one clk (log entry 3); a group is eligible
where its issue, tried, issues (log entry 83); the second instruction of a pair makes its check 9 in the state the first one leaves (log
entry 80). -/
def Obligations.StepRunsDecoded : Prop :=
  (∀ (s : State) (core : Nat) (rest : List Choice), s.boot.powered = true → s.agenda = .issue core :: rest →
    step s = issueCore { countDrains (countStalls { s with clk := s.clk + 1 } 1) with agenda := rest } core) ∧
  (∀ (s : State) (e : Instr) (rest : List Choice), s.boot.powered = true → s.agenda = .event e :: rest →
    step s = exec e { countDrains (countStalls { s with clk := s.clk + 1 } 1) with agenda := rest }) ∧
  (∀ (s : State) (core : Nat) (r : GroupRef) (l : List GroupRef) (g : Group) (t : State),
    coreNominees s core = [r :: l] → groupAt s r = some g →
    issuable g = true → readyMask g ≠ 0 → issueGroup s r = .next t → issued t r = true → issueCore s core = issueGroup (nominated s r l) r) ∧
  (∀ (s : State) (core : Nat) (r q : GroupRef) (l m : List GroupRef) (g h : Group) (t u : State),
    coreNominees s core = [r :: l, q :: m] → groupAt s r = some g → issuable g = true → readyMask g ≠ 0 →
    issueGroup s r = .next t → issued t r = true →
    let s1 := nominated s r l
    groupAt s1 q = some h → issuable h = true → readyMask h ≠ 0 → issueGroup s1 q = .next u → issued u q = true →
    issueCore s core = issueGroup (nominated s1 q m) (if h.issues < g.issues then q else r)) ∧
  (∀ (s : State) (r : GroupRef) (l : List GroupRef) (g : Group), groupAt s r = some g →
    (groupAt (nominated s r l) r).map (·.yielded) = some (g.yielded && (nominate s l).2.isSome) ∧
    ((nominate s l).2.isSome = true → nominated s r l = s)) ∧
  (∀ (s : State) (r : GroupRef) (t : Team) (g : Group) (gr : Grid) (l : Line) (i : Instr),
    teamAt s r.team = some t → groupAt s r = some g → gridAt s r.team.grid = some gr → issuable g = true → readyMask g ≠ 0 →
    let g' := refillLines s t gr (prepare s t gr g)
    let s' := updGroup s r fun _ => g'
    let pc := g'.gpc
    let land := (lanesOf (readyMask g')).any fun l => (threadAt g' l).pc == pc && (threadAt g' l).land
    enterLine s' t gr g' pc land = .inl l → decode (l.slots.getD (pc.toNat % 8) 0) = .ok i →
    (l.word.pair.getLsbD (pc.toNat % 8) = false ∨ 4 ≤ pc.toNat % 8 →
      issueGroup s r = Out.mapNext (exec i { s' with cur := some ⟨r, pc, false⟩ }) fun x =>
        let x := { x with cur := none }
        if issued x r then countIssue x r else x) ∧
    (∀ j : Instr, l.word.pair.getLsbD (pc.toNat % 8) = true → pc.toNat % 8 < 4 → decode (l.slots.getD (pc.toNat % 8 + 1) 0) = .ok j →
      earlyTrap i (atSlot s' r pc false) = none → earlyTrap j (atSlot s' r (pcNext pc) true) = none →
      i.pairable = true → j.pairable = true → lateCheck i (atSlot s' r pc false) = .run → ∀ a x : State, exec i (atSlot s' r pc false) = .next a → issued a r = true →
      let b := atSlot { a with cur := none } r (pcNext pc) true
      lateCheck j b = .run → exec j b = .next x → issued x r = true →
      issueGroup s r = .next (countIssue { x with cur := none } r)))

/-- The package steps whenever it has power, and it never refuses; without power only POWER_ON goes on (R411, R418). The model's choice (log
entry 76): every instruction and every event answers a next state in every state, one that must wait or cannot happen its own. -/
def Obligations.StopsOnlyWithoutPower : Prop :=
  ((∀ s : State, s.boot.powered = true → ∃ t, step s = .next t) ∧
  (∀ (s : State) (rest : List Choice), s.boot.powered = false → s.agenda = .event .powerOn :: rest → ∃ t, step s = .next t ∧ t.boot.powered = true) ∧
  (∀ s : State, s.boot.powered = false → (∀ rest, s.agenda ≠ .event .powerOn :: rest) → step s = .fault .powerOff) ∧
  (∀ (s : State) (e : Refusal), step s ≠ .refused e)) ∧
  (∀ (i : Instr) (s : State), ∃ t, exec i s = .next t)

/-- Every step keeps the model's own invariant: the memory is in canonical form (rising addresses, no byte that equals what an unlisted
address reads as), and no write is pending. -/
def Obligations.StepKeepsInvariant : Prop := ∀ s t : State, s.Inv → step s = .next t → t.Inv

/-- The state after reset has the invariant. -/
def Obligations.ResetHasInvariant : Prop := State.reset.Inv

/-- What reset leaves in the registers whose reset value the spec states. That no team, grid, cluster, L1 line, monitor or pool exists is
said in fields of the model, which name no register (log entry 2). -/
def Obligations.ResetValues : Prop :=
  let s := State.reset
  s.teams = [] ∧ s.grids = [] ∧ s.clusters = [] ∧ s.l1 = [] ∧ s.monitors = [] ∧
  (∀ p ∈ s.parts, p.tvbase = 0 ∧ p.tlsbase = 0 ∧ p.tlssize = 0 ∧ p.tfbase = 0 ∧ p.ptroot = 0 ∧ p.poolbase = 0 ∧ p.graphbase = 0
    ∧ p.vocbase = 0 ∧ p.pools = []) ∧ s.parts.length = 16 ∧
  (∀ k, k < 5 → (budgetAt s k).units = 0xffffffff ∧ (budgetAt s k).waits = 0) ∧ s.fabric.pkg = 0xffff ∧ s.fabric.accept = 0 ∧ s.fabric.up = 0 ∧
  s.host.presp1 = 0 ∧ s.host.prqhead = 0 ∧ s.host.mgstat = 0 ∧ s.boot.mbst = .idle ∧ s.boot.mberr = 0 ∧ s.pkg.ctxBusy = false

/-! Checks before an instruction takes effect. -/

/-- A privileged instruction traps PRIV (0x03) in program code, before any operand is read (R94). On a core of class V or W the opcodes 0xd0
to 0xdb trap NOUNIT (0x0b) at check 10 (R95). The model's choice: TLANES and TADDR of these traps, found in no lane, are 0 (log entry 23). -/
def Obligations.PrivilegeAndAbsentUnits : Prop :=
  (∀ (i : Instr) (s : State) (c : Ctx), ctxOf i s = some c → issuable c.g = true → i.wf = true → boundsOk c = true →
    c.g.status ≠ .handler →
    (match i with
      | .trapret _ | .tlbinvPage _ | .tlbinvAsid _ | .tlbinvAll _ | .slogctlDrain _ => true
      | .csrr f => decide (0x100 ≤ f.imm.toNat)
      | .csrw _ f => decide (0x100 ≤ f.imm.toNat)
      | _ => false) = true →
    Traps i s c ⟨0x03, 0, 0, 0, 0⟩) ∧
  (∀ (i : Instr) (s : State) (c : Ctx), ctxOf i s = some c → issuable c.g = true → staticTrap c = none → i.shape.pred.never = false →
    srcChecks c.t c.r.grp c.g (srcList c.t c.g c.act c.h) = .go → dstCheck c.t c.r.grp c.g c.h.kd c.h.dst = .go →
    0xd0 ≤ i.opc → i.opc ≤ 0xdb → 2 ≤ coreClass s c.t.core → Traps i s c ⟨0x0b, 0, 0, 0, 0⟩)

/-- The states of a source (R62), for an instruction that reads one: DEAD traps DEADREAD (0x07) whatever OPND.FE, an invalid Cuff slot or
latch traps STALE (0x08), EMPTY waits with OPND.FE and traps EMPTYREAD (0x06) without. The model's choice: TLANES and TADDR of these
traps, found in no lane, are 0 (log entry 23). -/
def Obligations.SourceStates : Prop :=
  ∀ (i : Instr) (s : State) (c : Ctx), ctxOf i s = some c → issuable c.g = true → staticTrap c = none → i.shape.pred.never = false →
    let l := srcList c.t c.g c.act c.h
    (∀ n fe d, l = [(.file n fe d, 1)] → runOf c.g n.toNat = none →
      ((regAt c.g n.toNat).st = .dead → Traps i s c ⟨0x07, 0, 0, 0, 0⟩) ∧
      ((regAt c.g n.toNat).st = .empty → fe = false → Traps i s c ⟨0x06, 0, 0, 0, 0⟩) ∧
      ((regAt c.g n.toNat).st = .empty → fe = true → exec i s = .next s)) ∧
    (∀ k fe d, l = [(.cuff k fe d, 1)] →
      ((cuffAt c.g k.toNat).valid = false → Traps i s c ⟨0x08, 0, 0, 0, 0⟩) ∧
      ((cuffAt c.g k.toNat).valid = true → (cuffAt c.g k.toNat).await.isSome = true → fe = false → Traps i s c ⟨0x06, 0, 0, 0, 0⟩) ∧
      ((cuffAt c.g k.toNat).valid = true → (cuffAt c.g k.toNat).await.isSome = true → fe = true → exec i s = .next s)) ∧
    (∀ y fe w, l = [(.brim y fe, w)] →
      ((latchOf c.g y).valid = false → Traps i s c ⟨0x08, 0, 0, 0, 0⟩) ∧
      ((latchOf c.g y).valid = true → (latchOf c.g y).await.isSome = true → fe = false → Traps i s c ⟨0x06, 0, 0, 0, 0⟩) ∧
      ((latchOf c.g y).valid = true → (latchOf c.g y).await.isSome = true → fe = true → exec i s = .next s))

/-- A "never"-predicated instruction that passes ILLFMT and PRIV reads no operand, changes no register state and writes nothing: the
ready threads at its slot go on, and that is all (R56). -/
def Obligations.NeverPredicated : Prop :=
  ∀ (i : Instr) (s : State) (c : Ctx), ctxOf i s = some c → issuable c.g = true → staticTrap c = none → i.shape.pred.never = true →
    exec i s = .next (commit s (skipIssue c)) ∧ SameRest s (skipIssue c) ∧ (skipIssue c).wbuf = s.wbuf ∧
    ∃ g, groupAt (skipIssue c) c.r = some g ∧ SameGroup c.g g ∧ g.regs = c.g.regs ∧ g.cuffs = c.g.cuffs ∧ g.lx = c.g.lx ∧ g.ly = c.g.ly
      ∧ g.fpstat = c.g.fpstat ∧ g.loopqs = c.g.loopqs ∧
      ∀ l, l < 32 → SameThread (threadAt c.g l) (threadAt g l) ∧ (threadAt g l).preds = (threadAt c.g l).preds ∧
        (threadAt g l).pc = if (readyMask c.g).getLsbD l && (threadAt c.g l).pc == c.pc then pcNext c.pc else (threadAt c.g l).pc

/-! What every issue does with its results, and what it leaves alone. -/

/-- What the results of an instruction do: a vector result lands in the destination registers, the Cuff slot and the latch of
its pipe in the active lanes (R63, R65, R67), a predicate result in the active lanes (R107), a uniform result in its register (R193,
R196); active lanes take the program counter a transfer gives them, marked as landing where it is not the successor, and the other ready
threads at the slot go on (R135, R136); the flags gather (R40). The model's choice: the inactive lanes of a destination that is also a
dead source become 0 (log entry 20). -/
def Obligations.RetireWritesResults : Prop :=
  (∀ (i : Instr) (s : State) (c : Ctx) (v : Nat → LaneVal) (fl : Flags), Issues i s c → readyMask c.g ≠ 0 → i.switches = false →
    (∀ k, k < dstWords c.h → runOf c.g (c.h.dst.index.toNat + k) = none) → c.h.dst.index.toNat + dstWords c.h ≤ c.g.regs.length →
    ∃ g, groupAt (retire c { vec := some v, flags := fl }) c.r = some g ∧ g.fpstat = c.g.fpstat ||| fl ∧
      (c.h.dst.nf = false → ∀ k l, k < dstWords c.h → l < 32 →
        let r := regAt g (c.h.dst.index.toNat + k)
        let old := regAt c.g (c.h.dst.index.toNat + k)
        r.st = .full ∧ Lanes.at r.vals l 0 = if c.act.getLsbD l then ((v l) >>> (32 * k)).setWidth 32
          else if old.st = .dead ∨ (regAt (consume c.g (srcList c.t c.g c.act c.h)) (c.h.dst.index.toNat + k)).st = .dead then 0
          else Lanes.at old.vals l 0) ∧
      (c.h.dst.cw = true → ∀ l, c.act.getLsbD l = true →
        (cuffAt g c.h.dst.cslot.toNat).valid = true ∧ Lanes.at (cuffAt g c.h.dst.cslot.toNat).vals l 0 = (v l).setWidth 32) ∧
      ((latchOf g (i.pipe == .y)).valid = true ∧ ∀ l, l < 32 → Lanes.at (latchOf g (i.pipe == .y)).vals l 0 =
        if c.act.getLsbD l then (if dstWords c.h = 1 then ((v l).setWidth 32 : Word).setWidth 64 else (v l).setWidth 64) else 0) ∧
      ∀ l, l < 32 → (threadAt g l).pc =
        if (readyMask c.g).getLsbD l && (threadAt c.g l).pc == c.pc then pcNext c.pc else (threadAt c.g l).pc) ∧
  (∀ (i : Instr) (s : State) (c : Ctx) (p : Nat → Bool) (fl : Flags), Issues i s c → readyMask c.g ≠ 0 →
    ∃ g, groupAt (retire c { prd := some p, flags := fl }) c.r = some g ∧ g.fpstat = c.g.fpstat ||| fl ∧
      ∀ l, l < 32 → ∀ k, k < 7 → (threadAt g l).preds.getLsbD k =
        if k = c.h.dst.index.toNat ∧ c.act.getLsbD l = true then p l else (threadAt c.g l).preds.getLsbD k) ∧
  (∀ (i : Instr) (s : State) (c : Ctx) (v : DWord), Issues i s c → c.h.dst.index.toNat < c.t.regs.sregs.length →
    ∃ t, teamAt (retire c { uni := some v }) c.r.team = some t ∧
      ∀ n, sregOf t n = if n = c.h.dst.index.toNat then v else sregOf c.t n) ∧
  (∀ (i : Instr) (s : State) (c : Ctx) (d : Done) (p : Nat → DWord), Issues i s c → readyMask c.g ≠ 0 → d.pcs = some p →
    (∀ x, d.post x = x) →
    ∃ g, groupAt (retire c d) c.r = some g ∧ ∀ l, l < 32 →
      if (readyMask c.g).getLsbD l && (threadAt c.g l).pc == c.pc then
        let goal := if c.act.getLsbD l then p l else pcNext c.pc
        (threadAt g l).pc = goal ∧ (threadAt g l).land = (goal != pcNext c.pc)
      else (threadAt g l).pc = (threadAt c.g l).pc)

/-- The frame of the instructions that only compute: no byte of memory, nothing outside their team, no other group of it, no file register
but the destination's and those of a loop queue's run, no predicate but the destination in the active lanes, no uniform register but the
destination, and none of the group's other state changes; FPSTAT only gains flags, and no register of the file loses its value. The
premise that no monitor has been hit or taken away holds at the end of every step (`commit` wakes such a monitor's MWAIT). -/
def Obligations.FrameOfComputation : Prop :=
  ∀ (i : Instr) (s t : State) (c : Ctx), onlyComputes i = true → Issues i s c → readyMask c.g ≠ 0 → s.wbuf = [] → Memory.wf s.mem →
    (∀ m ∈ s.monitors, m.hit = false ∧ m.gone = false) →
    exec i s = .next t →
    (∀ a, Memory.read t.mem a = Memory.read s.mem a) ∧ SameRest s t ∧
    (∀ r, r ≠ c.r.team → teamAt t r = (teamAt s r).map settleCurrent) ∧
    (∃ u, teamAt t c.r.team = some u ∧ SameTeam c.t u ∧ (∀ k, k ≠ c.r.grp → u.groups[k]? = c.t.groups[k]?) ∧
      ∀ n, c.h.kd ≠ .uni ∨ n ≠ c.h.dst.index.toNat → u.regs.sregs[n]? = c.t.regs.sregs[n]?) ∧
    ∃ g, groupAt t c.r = some g ∧ SameGroup c.g g ∧ g.fpstat &&& c.g.fpstat = c.g.fpstat ∧
      (∀ n, destReg c n = false → (regAt g n).vals = (regAt c.g n).vals) ∧
      ∀ l, l < 32 → SameThread (threadAt c.g l) (threadAt g l) ∧
        ∀ k, k < 7 → c.h.kd ≠ .pred ∨ k ≠ c.h.dst.index.toNat ∨ c.act.getLsbD l = false →
          (threadAt g l).preds.getLsbD k = (threadAt c.g l).preds.getLsbD k

/-- The frame of a store (R153) and of a reduction or atomic (R155) where they are performed: every byte of memory and of every bank
outside the bytes at the translated addresses of its lanes reads as before, and no L1 holds a dirty byte but those. Stated from
empty L1s and no held host line, for lanes that agree on the line a virtual line is mapped to. -/
def Obligations.FrameOfStores : Prop :=
  ∀ (s : State) (t : Team) (gr : Grid) (r : GroupRef) (a : Access) (ok : List (Nat × Place)),
    (a.opc = 0x81 ∨ a.opc = 0x83 ∨ a.opc = 0x85 ∨ a.opc = 0x86 ∨ a.opc = 0x87 ∨ a.opc = 0x88) → isScaledAdd gr a = false →
    s.l1 = [] → s.host.lines = [] → (∀ x ∈ s.teams, x.eops = []) →
    (∀ x ∈ ok, ∀ y ∈ ok, ∀ va pa sh va' pa' sh', x.2 = .virt va pa sh → y.2 = .virt va' pa' sh' → va / 128 = va' / 128 → pa / 128 = pa' / 128) →
    let u := performDirect s t gr r a ok
    (∀ pa, (ok.all fun x => !(x.2.coversByte a.width pa)) = true → rdHome u pa = rdHome s pa) ∧
    (∀ q b off, (ok.all fun x => !(x.2.coversBank a.width q b off)) = true → bankGet u q b off 1 = bankGet s q b off 1) ∧
    ∀ l ∈ u.l1, ∀ k, l.dirty.getD k false = true → (ok.any fun x => x.2.coversByte a.width (128 * l.pline + k)) = true

/-- A store by a core that its L1 does not hold puts its bytes at their home at once, and no other byte (R287, R289), or, for host memory
that the L2 does not own, among the writes that wait for its ownership (R435); a store that the L1 holds reaches no home yet, and a load
of the same core reads it (the model's choices: which stores the L1 takes, log entry 7; that a write to host memory waits apart, log
entry 49). A load that performs gives its lane the bytes at its address,
extended as its type says (R153): one lane of an LD from a page of memory through the home. -/
def Obligations.StoresAndLoadsReachTheirBytes : Prop :=
  (∀ (s : State) (t : Team) (va pa share ord cpol : Nat) (narrow : Bool) (b : List Byte),
    s.l1 = [] → s.host.lines = [] →
    let u := placeWrite s t (.virt va pa share) ord cpol narrow b
    ((share ≠ shTeam → ord ≠ 0 ∨ cpol = 2 → (∀ k, k < b.length → region (pa + k) ≠ some 2) →
      ∀ a, rdHome u a = if pa ≤ a ∧ a < pa + b.length then b.getD (a - pa) 0 else rdHome s a) ∧
    (share ≠ shTeam → region pa = some 2 → (∀ k, k < b.length → region (pa + k) = some 2) →
      u.host.posted = s.host.posted ++ b.zipIdx.map (fun x => (pa + x.2, x.1)) ∧ ∀ a, rdHome u a = rdHome s a) ∧
    (share ≠ shTeam → ord = 0 → cpol ≠ 2 → region pa ≠ some 2 → pa % 128 + b.length ≤ 128 →
      (∀ a, rdHome u a = rdHome s a) ∧
      (lrDet (match gridAt s t.ref.grid with | some g => g.lr | none => []) = false →
        (placeRead u t (.virt va pa share) 0 0 b.length).2 = b)))) ∧
  (∀ (s : State) (t : Team) (gr : Grid) (a : Access) (l va pa share : Nat), gridAt s t.ref.grid = some gr → lrDet gr.lr = false →
    s.l1 = [] → s.guests = [] → a.opc = 0x80 → share ≠ shTeam →
    (2 ≤ a.ord ∨ a.cpol = 2 ∨ region pa = some 2) →
    let n := 2 ^ (a.mod % 8)
    let v := ofBytes ((List.range n).map fun k => rdHome s (pa + k))
    a.mod % 8 < 5 →
    (performLane s t gr a l (.virt va pa share)).2 =
      if a.mod.testBit 3 ∧ a.mod % 8 = 0 then (((BitVec.ofNat 8 v).signExtend 32 : Word)).toNat
      else if a.mod.testBit 3 ∧ a.mod % 8 = 1 then (((BitVec.ofNat 16 v).signExtend 32 : Word)).toNat
      else v)

/-- Taking a trap at an issue (R218, R219): the cause registers hold the code, slot, level, kind and INFO, the trap point, the lanes, the
address and the frame; every present thread stands at the vector entry without a wait mark, the group is in HANDLER, its Cuff slots and
latches are invalid, its accesses go on, and its registers and FPSTAT are as before. -/
def Obligations.TrapEntryState : Prop :=
  ∀ (i : Instr) (s : State) (c : Ctx) (e : Cause) (entry : DWord) (u : State), ctxOf i s = some c →
    vectorEntry { c.s with cur := none } c.t c.gr e.code = some entry → c.g.saved.length < 2 →
    let va := frameAddr { c.s with cur := none } c.t.part c.t.core c.g.gslot (c.g.saved.length + 1)
    let regs : CauseRegs :=
      { tcause := BitVec.ofNat 64 (e.code + 2 ^ 5 * c.slot2.toNat + 2 ^ 6 * (c.g.saved.length + 1) + 2 ^ 8 * e.kind + 2 ^ 32 * e.info)
        tpoint := if c.slot2 then c.pc - 1 else c.pc, tresume := if c.slot2 then c.pc - 1 else c.pc
        tlanes := e.lanes, taddr := e.addr, tframe := BitVec.ofNat 64 va }
    frameWrite { c.s with cur := none } c.t.part c.t.core va (frameBytes c.g regs []) = some u →
    groupAt u c.r = some c.g →
    ∃ g, groupAt (issueTrap c e) c.r = some g ∧ g.status = .handler ∧ g.cause = regs ∧ g.saved.length = c.g.saved.length + 1 ∧
      (∀ sv ∈ g.saved.head?, sv.outer = c.g.cause ∧ sv.held = []) ∧ g.queue = c.g.queue ∧ g.regs = c.g.regs ∧ g.fpstat = c.g.fpstat ∧
      g.lfsr = c.g.lfsr ∧ (∀ k, k < 8 → (cuffAt g k).valid = false) ∧ g.lx.valid = false ∧ g.ly.valid = false ∧
      ∀ l, l < 32 → (threadAt g l).present = (threadAt c.g l).present ∧ (threadAt g l).preds = (threadAt c.g l).preds ∧
        ((threadAt c.g l).present = true → (threadAt g l).pc = entry ∧ (threadAt g l).mark = .none)

/-- TRAPRET (R221). It follows the handler's own accesses to the frame (R159). Where the frame can be read and names legal targets the
instruction completes: the cause registers and the level are those of the outer level, threads without a wait mark stand at the frame's
resume points, and the group, its waits and the engines go on as `resumeGroup` says; a bad target traps BADTGT; a frame that cannot be
read is a machine check (R99); with no active lane it resumes nothing. -/
def Obligations.TrapReturns : Prop :=
  ∀ (s : State) (c : Ctx) (f : RRR), Issues (.trapret f) s c →
    (c.act = 0 → exec (.trapret f) s = .next (commit s (retire c {}))) ∧
    (c.act ≠ 0 → framePending c = true → exec (.trapret f) s = .next s) ∧
    (c.act ≠ 0 → framePending c = false →
      (∀ g uni, trapReturn c.s c.t c.gr c.g = .group g uni →
        exec (.trapret f) s = .next (commit s (retire c { post := resumeGroup c g uni })) ∧
        ∀ sv rest img, c.g.saved = sv :: rest → frameRead c.s c.t c.g.cause.tframe.toNat = some img → presentMask c.g ≠ 0 →
          g.cause = sv.outer ∧ g.saved = rest ∧ g.status ≠ .done ∧
          (frameNat img 0x140 8 = 0 → (frameNat img 0x148 8).testBit 10 = false → ∀ l, (presentMask c.g).getLsbD l = true →
            (threadAt g l).pc = BitVec.ofNat 64 (frameNat img (0x40 + 8 * l) 8))) ∧
      (∀ m pc, trapReturn c.s c.t c.gr c.g = .badTarget m pc → Traps (.trapret f) s c ⟨0x04, 0, 0, m, pc⟩) ∧
      (trapReturn c.s c.t c.gr c.g = .unreadable →
        exec (.trapret f) s = .next (commit s (retire c { post := fun s => mcheck s c.t.part }))))

/-! Memory instructions, waits and barriers. -/

/-- Memory instructions enter their group's queue with the addresses of R150 and their data (R153 to R158, R208); LDU acts once, for the
lowest active lane (R154); PREF changes nothing (R158). -/
def Obligations.MemoryInstructionsIssue : Prop :=
  ∀ (s : State) (c : Ctx) (f : MF),
    let zero (_ : Nat) : LaneVal := 0
    let b (l : Nat) : LaneVal := Lanes.at c.b l 0
    (Issues (.ld f) s c → ∃ a, IsAccess (.ld f) s c f c.act false zero a ∧ IssuesAccess (.ld f) s c true false a) ∧
    (Issues (.st f) s c → ∃ a, IsAccess (.st f) s c f c.act false b a ∧ IssuesAccess (.st f) s c false false a) ∧
    (Issues (.lds f) s c → ∃ a, IsAccess (.lds f) s c f c.act true zero a ∧ IssuesAccess (.lds f) s c true false a) ∧
    (Issues (.sts f) s c → ∃ a, IsAccess (.sts f) s c f c.act true b a ∧ IssuesAccess (.sts f) s c false false a) ∧
    (Issues (.ldu f) s c → ∃ a, IsAccess (.ldu f) s c f (oneLane c.act) false zero a ∧ IssuesAccess (.ldu f) s c false false a) ∧
    (∀ k, Issues (.atom k f) s c → ∃ a, IsAccess (.atom k f) s c f c.act false b a ∧ IssuesAccess (.atom k f) s c true false a) ∧
    (∀ k, Issues (.red k f) s c → ∃ a, IsAccess (.red k f) s c f c.act false b a ∧ IssuesAccess (.red k f) s c false false a) ∧
    (∀ k, Issues (.atoms k f) s c → ∃ a, IsAccess (.atoms k f) s c f c.act true b a ∧ IssuesAccess (.atoms k f) s c true false a) ∧
    (Issues (.cas f) s c → ∃ a, IsAccess (.cas f) s c f c.act false b a ∧ IssuesAccess (.cas f) s c true false a) ∧
    (Issues (.arrinit f) s c → ∃ a, IsAccess (.arrinit f) s c f c.act true b a ∧ IssuesAccess (.arrinit f) s c false false a) ∧
    (Issues (.arradd f) s c → ∃ a, IsAccess (.arradd f) s c f c.act true b a ∧ IssuesAccess (.arradd f) s c false false a) ∧
    (∀ k, Issues (.pref k f) s c → Retires (.pref k f) s c {})

/-- FENCE and RACQ act once and are tried at once (R305, R306); MWAIT, ARRWAIT and TKWAIT are group waits, with a timeout in their timed
forms (R208, R209, R308, R330). The model's choices: a group wait is an entry of the group's access queue and needs room there (log entry
27), and one without an active lane changes the states of its registers (log entry 129). -/
def Obligations.WaitingInstructionsIssue : Prop :=
  ∀ (s : State) (c : Ctx) (f : MF),
    (∀ k, Issues (.fence k f) s c → ∃ a, IsAccess (.fence k f) s c f (oneLane c.act) false (fun _ => 0) a ∧
      IssuesAccess (.fence k f) s c false true a) ∧
    (Issues (.racq f) s c → ∃ a, IsAccess (.racq f) s c f (oneLane c.act) false (fun _ => 0) a ∧ IssuesAccess (.racq f) s c false true a) ∧
    (∀ k, Issues (.mwait k f) s c → ∃ a : Access, a.opc = 0x8c ∧ a.lanes = c.act ∧ a.tok = c.g.tok ∧
      a.wait = ⟨if k = .timed then some (c.b64 c.low).toNat else none, s.clk⟩ ∧
      (∀ l, c.act.getLsbD l = true → Lanes.at a.addr l 0 = laneAddr c f c.low) ∧
      EntersWait (.mwait k f) s c a fun s => endAtOnce (runTok s c.r a.tok) c.r a.tok) ∧
    (∀ k, Issues (.arrwait k f) s c → ∃ a : Access, a.opc = 0xbb ∧ a.lanes = c.act ∧ a.tok = c.g.tok ∧
      a.wait = ⟨if k = .timed then some ((c.b64 c.low) >>> 32).toNat else none, s.clk⟩ ∧
      (∀ l, c.act.getLsbD l = true → Lanes.at a.addr l 0 = ((laneAddr c f c.low).setWidth 32).setWidth 64 ∧
        (Lanes.at a.data l 0).toNat = (c.b32 c.low).toNat) ∧
      EntersWait (.arrwait k f) s c a fun s => endAtOnce (runTok s c.r a.tok) c.r a.tok) ∧
    (∀ i : RI, Issues (.tkwait i) s c → ∃ a : Access, a.opc = 0xe9 ∧ a.lanes = c.act ∧ a.tok = c.g.tok ∧ a.wait = ⟨none, s.clk⟩ ∧
      EntersWait (.tkwait i) s c a fun s => tkwaitTeam s c.r.team)

/-- BAR.SYNC, BAR.ARV, CBAR, DBAR and GRIDBAR complete by arriving at their barrier, at once when the group's accesses are performed and
no side log holds an entry of it (R203, R204, R273, R283, R300, R379); BART waits there with a timeout, and D is EMPTY until its
status comes (R204). With no active lane nothing arrives (R56). DBAR outside a cooperative grid with bound dies, and GRIDBAR outside a
cooperative grid, trap GRIDBAR. The model's choices: that check does not depend on a lane and is made with no active lane too (log
entry 113), and its TLANES and TADDR are 0 (log entry 23). -/
def Obligations.BarriersArrive : Prop :=
  ∀ (s : State) (c : Ctx) (f : RI),
    (c.act ≠ 0 → unperformed c = false →
      (Issues (.barSync f) s c →
        exec (.barSync f) s = .next (commit s (retire c { post := barEffect c (.team (f.imm.toNat % 16)) true }))) ∧
      (Issues (.barArv f) s c →
        exec (.barArv f) s = .next (commit s (retire c { post := barEffect c (.team (f.imm.toNat % 16)) false }))) ∧
      (Issues (.bart f) s c →
        exec (.bart f) s = .next (commit s (retire c { vec := some fun _ => 0, lazy := true, post := bartArrive c f }))) ∧
      (slogHolds c.s c.r c.t.core = false →
        (Issues (.cbar f) s c →
          exec (.cbar f) s = .next (commit s (retire c { post := barEffect c (.inst (f.imm.toNat % 4)) true }))) ∧
        (Issues (.dbar f) s c → lrNdie c.gr.lr ≠ 0 → lrCoop c.gr.lr = true →
          exec (.dbar f) s = .next (commit s (retire c { post := barEffect c (.die (f.imm.toNat % 4)) true }))) ∧
        (Issues (.gridbar f) s c → lrCoop c.gr.lr = true →
          exec (.gridbar f) s = .next (commit s (retire c { post := barEffect c (.grid (f.imm.toNat % 4)) true }))))) ∧
    (c.act = 0 →
      (Issues (.barSync f) s c → Retires (.barSync f) s c {}) ∧ (Issues (.barArv f) s c → Retires (.barArv f) s c {}) ∧
      (Issues (.cbar f) s c → Retires (.cbar f) s c {}) ∧ (Issues (.bart f) s c → Retires (.bart f) s c { vec := some fun _ => 0 }) ∧
      (Issues (.dbar f) s c → lrNdie c.gr.lr ≠ 0 → lrCoop c.gr.lr = true → Retires (.dbar f) s c {}) ∧
      (Issues (.gridbar f) s c → lrCoop c.gr.lr = true → Retires (.gridbar f) s c {})) ∧
    (Issues (.gridbar f) s c → lrCoop c.gr.lr = false → Traps (.gridbar f) s c ⟨0x17, 0, 0, 0, 0⟩) ∧
    (Issues (.dbar f) s c → (lrNdie c.gr.lr = 0 ∨ lrCoop c.gr.lr = false) → Traps (.dbar f) s c ⟨0x17, 1, 0, 0, 0⟩)

/-- A team barrier completes when every present thread of the team has arrived: the phase flips, nothing has arrived in the new one, and
no thread is parked at it (R203). For a team of one group whose ready threads all arrive at an idle barrier. -/
def Obligations.TeamBarrierCompletes : Prop :=
  ∀ (s : State) (c : Ctx) (k : Nat), teamAt s c.r.team = some c.t → gridAt s c.r.team.grid = some c.gr → c.s = s → c.r.grp = 0 →
    c.t.groups = [c.g] → c.g.status = .ready → c.act ≠ 0 → c.act = presentMask c.g →
    (∀ l, l < 32 → (threadAt c.g l).mark = .none ∧ (threadAt c.g l).park = none) → c.gr.released = [] →
    k < 16 → c.t.regs.bars.length = 16 → (barGet s c.r.team (.team k)).arrived = [] →
    let u := barEffect c (.team k) true s
    (barGet u c.r.team (.team k)).phase = !(barGet s c.r.team (.team k)).phase ∧ (barGet u c.r.team (.team k)).arrived = [] ∧
    ∃ g, groupAt u c.r = some g ∧ ∀ l, l < 32 → (threadAt g l).mark = .parked → (threadAt g l).rel = true

/-! Team resources, opcodes 0xbc to 0xc7. -/

/-- Hardware queues (R211, R212): HQINIT makes an empty queue without allowance in a bank in FIFO mode; HQPUSH uses one allowance and
appends, or waits for one; HQPOP takes the oldest entry, or waits behind others; HQALLOW adds to the allowance, at most 2^20. The model's choices:
a wait is an entry of the access queue (log entry 27), HQINIT keeps the pops that wait at the queue it replaces (log entry 124), and TLANES
and TADDR of QUEUEERR are 0 (log entry 23). -/
def Obligations.HardwareQueues : Prop :=
  ∀ (s : State) (c : Ctx), c.act ≠ 0 →
    (∀ (f : RI) (k : Bank) (cl : Cluster),
      let n := f.imm.toNat % 16
      let b := f.imm.toNat / 16 % 16
      let cap := f.imm.toNat / 256 % 16384 + 1
      let old := cl.hqs.find? fun q => q.num == n
      Issues (.hqinit f) s c → c.t.banks[b]? = some k → k.mode = .fifo → clusterOfCore c.s c.t.core = some cl →
      (∀ q, old = some q → q.entries = []) →
      ((cl.hqs.filter fun q => q.num != n && q.home == c.r.team && q.bank == b).map (·.cap)).sum + cap ≤ 16384 →
      Acts (.hqinit f) s c fun s => updCluster s cl.ref fun cl =>
        { cl with hqs := ⟨n, c.r.team, b, cap, [], 0, match old with | some q => q.waiters | none => []⟩
          :: cl.hqs.filter fun x => x.num != n }) ∧
    (∀ (f : RRR) (cl : ClusterRef) (q : HwQueue), Issues (.hqpush f) s c → hqAt c.s c.t.core (f.mod.toNat % 16) = some (cl, q) →
      unreleased c = false → queueFull c.g = false →
      (q.allow ≠ 0 → (q.waiters ≠ [] ∨ q.entries.length < q.cap) → Acts (.hqpush f) s c fun s =>
        hqAppend (updHq (pushRelease c s) cl (f.mod.toNat % 16) fun q => { q with allow := q.allow - 1 }) cl
          (f.mod.toNat % 16) (c.a32 c.low)) ∧
      (q.allow = 0 → ∃ a : Access, a.opc = 0xbd ∧ a.lanes = c.act ∧ Retires (.hqpush f) s c
        { drop := true, post := fun s => pushAccess c.r a (pushRelease c s) })) ∧
    (∀ (f : RRR) (cl : ClusterRef) (q : HwQueue), Issues (.hqpop f) s c → hqAt c.s c.t.core (f.mod.toNat % 16) = some (cl, q) →
      (∀ v rest, q.entries = v :: rest → q.waiters = [] → Retires (.hqpop f) s c
        { vec := some fun _ => v.setWidth 128
          post := fun s => acquireAt (updHq s cl (f.mod.toNat % 16) fun q => { q with entries := rest }) c.t.core shCluster }) ∧
      ((q.entries = [] ∨ q.waiters ≠ []) → queueFull c.g = false → ∃ a : Access, a.opc = 0xbe ∧ a.lanes = c.act ∧ Retires (.hqpop f) s c
        { vec := some fun _ => 0, lazy := true, drop := true, post := fun s => pushAccess c.r a
            (updHq s cl (f.mod.toNat % 16) fun q => { q with waiters := q.waiters ++ [(c.r.team, c.r.grp, a.tok)] }) })) ∧
    (∀ (f : RI) (cl : ClusterRef) (q : HwQueue), Issues (.hqallow f) s c → hqAt c.s c.t.core (f.imm.toNat % 16) = some (cl, q) →
      (q.allow + f.imm.toNat / 65536 ≤ 1048576 → Acts (.hqallow f) s c fun s =>
        hqRelease (updHq s cl (f.imm.toNat % 16) fun q => { q with allow := q.allow + f.imm.toNat / 65536 }) cl (f.imm.toNat % 16)) ∧
      (1048576 < q.allow + f.imm.toNat / 65536 → Traps (.hqallow f) s c ⟨0x18, 0, 0, 0, 0⟩))

/-- ACCALLOC and ACCFREE (R217), BANKMODE (R202), ROLE (R201), LQCFG (R213) and the address engine's AECFG, AEGO and AESTOP (R215); AEGO
follows the group's accesses (R216). The model's choice: TLANES and TADDR of ACCNA are 0 (log entry 23). -/
def Obligations.TeamResources : Prop :=
  ∀ (s : State) (c : Ctx), c.act ≠ 0 →
    (∀ f : RI, Issues (.accalloc f) s c → 16 < c.t.accN + f.imm.toNat % 32 → Traps (.accalloc f) s c ⟨0x0a, 0, 0, 0, 0⟩) ∧
    (∀ f : RI, Issues (.accalloc f) s c → c.t.accN + f.imm.toNat % 32 ≤ 16 → accWaiting c.s c.t.core = [] →
      f.imm.toNat % 32 ≤ freeBanks c.s c.t.core → Retires (.accalloc f) s c
        { uni := some (BitVec.ofNat 64 (4 * c.t.accN)), post := fun s => grantBanks s c.r.team (f.imm.toNat % 32) }) ∧
    (∀ f : RI, Issues (.accfree f) s c → f.imm.toNat % 32 ≤ c.t.accN →
      (∀ o ∈ c.t.eops, ∀ k ∈ o.tiles, ¬(4 * (c.t.accN - f.imm.toNat % 32) ≤ k ∧ k < 4 * c.t.accN)) → Acts (.accfree f) s c fun s =>
        accGrant (updTeam s c.r.team fun t => { t with
          accN := c.t.accN - f.imm.toNat % 32, acc := t.acc.filter fun x => decide (x.1 < 4096 * (c.t.accN - f.imm.toNat % 32)) }) c.t.core) ∧
    (∀ (f : RI) (k : Bank), Issues (.bankmode f) s c → c.t.banks[f.imm.toNat % 16]? = some k →
      let new : BankMode := match f.imm.toNat / 16 % 4 with | 0 => .spad | 1 => .cache | _ => .fifo
      (k.mode = new → Retires (.bankmode f) s c {}) ∧
      (k.mode ≠ new → bankUsed c (f.imm.toNat % 16) = false →
        (k.mode = .fifo → ∀ q ∈ bankQueues c.s c.r.team (f.imm.toNat % 16), q.entries = []) →
        Retires (.bankmode f) s c { post := fun s => setBankMode s c.t (f.imm.toNat % 16) k.mode new })) ∧
    (∀ f : RI, Issues (.role f) s c → Acts (.role f) s c fun s => updGroup s c.r fun g =>
      { g with role := ⟨if f.imm.toNat.testBit 4 then some (f.imm.toNat % 16) else none,
        if f.imm.toNat.testBit 9 then some (f.imm.toNat / 32 % 16) else none⟩ }) ∧
    (∀ f : RI, Issues (.lqcfg f) s c → f.imm.toNat.testBit 3 = true →
      let base := f.imm.toNat / 16 % 256
      let len := f.imm.toNat / 4096 % 16 + 1
      (∀ k q, k < 8 → c.g.loopqs.toList.getD k none = some q →
        if k = f.imm.toNat % 8 then q.occ = 0 ∧ ∀ j, j < q.len → (regAt c.g (q.base + j)).st ≠ .empty
        else q.base + q.len ≤ base ∨ base + len ≤ q.base) →
      streamFeeds c.t c.r.grp (f.imm.toNat % 8) = false → (∀ j, j < len → (regAt c.g (base + j)).st ≠ .empty) →
      Acts (.lqcfg f) s c fun s => updGroup s c.r fun g =>
        let g := deadRun (deadQueue g (f.imm.toNat % 8)) base len
        { g with loopqs := g.loopqs.setIfInBounds (f.imm.toNat % 8) (some ⟨base, len, 0, 0, false⟩) }) ∧
    (∀ (f : RI) (q : LoopQ), Issues (.lqcfg f) s c → f.imm.toNat.testBit 3 = false →
      c.g.loopqs.toList.getD (f.imm.toNat % 8) none = some q → q.occ = 0 → streamFeeds c.t c.r.grp (f.imm.toNat % 8) = false →
      (∀ j, j < q.len → (regAt c.g (q.base + j)).st ≠ .empty) →
      Acts (.lqcfg f) s c fun s => updGroup s c.r fun g =>
        let g := deadQueue g (f.imm.toNat % 8)
        { g with loopqs := g.loopqs.setIfInBounds (f.imm.toNat % 8) none }) ∧
    (∀ (f : MF) (b : List Byte) (load : State → State), Issues (.aecfg f) s c → c.t.stream.st ≠ .running →
      lineLoad c false 7 (laneAddr c f c.low).toNat 2 = .got b load → streamOk c b = true → Retires (.aecfg f) s c
        { post := fun s => updStream (load s) c.r.team fun _ =>
            ⟨.configured, dNat b 0 8, dNat b 8 8, (List.range 8).map fun k => dInt b (0x10 + 8 * k),
              (List.range 8).map fun k => dNat b (0x50 + 4 * k) 4, 0, [], none⟩ }) ∧
    (∀ f : RI, Issues (.aego f) s c → c.t.stream.st ≠ .idle → progFed c.t = false → c.g.queue = [] →
      slogHolds c.s c.r c.t.core = false → Acts (.aego f) s c fun s => updStream s c.r.team fun x =>
        match x.st with
        | .running => x
        | .done => { x with st := .running, elem := 0, part := [], fault := none }
        | _ => { x with st := .running, fault := none }) ∧
    (∀ f : RI, Issues (.aestop f) s c → Acts (.aestop f) s c fun s => updStream s c.r.team fun x =>
      if x.st == .running then { x with st := .stopped } else x)

/-! The matrix engine and the Gauntlet, opcodes 0xd0 to 0xdb. -/

/-- TMAP and TMAPF write tile maps (R226, R227); an operation whose tiles and pool bytes the team owns is appended to the team's
operations, while its engine has room (R228 to R251, R438); MWAITA ends when no operation names its tiles (R233). The model's choice:
TLANES and TADDR of TMAP's ILLFMT are 0 (log entry 23). -/
def Obligations.EngineInstructionsIssue : Prop :=
  ∀ (s : State) (c : Ctx), c.act ≠ 0 →
    (∀ (f : RRR) (n : BitVec 6), f.sa = .uni n → Issues (.tmap f) s c →
      let m := (sregOf c.t n.toNat).toNat + (sregOf c.t (n.toNat + 1)).toNat * 2 ^ 64 + (sregOf c.t (n.toNat + 2)).toNat * 2 ^ 128
        + (sregOf c.t (n.toNat + 3)).toNat * 2 ^ 192
      (∀ k, k < 4 → uniBusy c.t (n.toNat + k) = false) →
      (mapReserved m = false → Acts (.tmap f) s c fun s => putMap s c.r.team (f.mod.toNat % 16) m) ∧
      (mapReserved m = true → Traps (.tmap f) s c ⟨0x02, 0, 0, 0, 0⟩)) ∧
    (∀ f : RI, Issues (.tmapf f) s c → Acts (.tmapf f) s c fun s =>
      let p := mapField (f.mod.toNat / 16 % 16)
      putMap s c.r.team (f.mod.toNat % 16) (setField (mapOf c.t (f.mod.toNat % 16)) p.1 p.2 f.imm.toNat)) ∧
    (∀ (f : RRR) (sparse : Bool), let i : Instr := if sparse then .mqmas f else .mqma f
      let qs := (List.range 4).filter fun q => (List.range 8).any fun k => c.act.getLsbD (8 * q + k)
      let ops := qs.map fun q => quarterOp c q sparse f.mod
      Issues i s c → lowestCode (ops.flatMap (·.1)) = none → (∀ q ∈ qs, sliceQueue c.s c.t.core q < 8) →
      Retires i s c { post := fun s => updOps s c.r.team fun x => x ++ withPass (ops.map (·.2)) }) ∧
    (∀ f : RI, Issues (.mzero f) s c → lowestCode (tileCodes c.t (tileRange f.imm)) = none → transferFull c.s c.t.core = false →
      Retires (.mzero f) s c
        { post := fun s => updOps s c.r.team fun x => x ++ [newOp c 0 .zero (tileRange f.imm) [] [] [] 0] }) ∧
    (∀ f : RI, Issues (.mwaita f) s c → lowestCode (tileCodes c.t (tileRange f.imm)) = none →
      (∀ o ∈ c.t.eops, ∀ k ∈ o.tiles, k ∉ tileRange f.imm) →
      Retires (.mwaita f) s c { post := fun s => acquireAt (guestsAcked s) c.t.core shSystem }) ∧
    (∀ f : MF, let x := Xc.of ((c.bv c.low) % 2 ^ 64) (c.bv c.low / 2 ^ 64)
      let base := (c.a64 c.low + f.off.signExtend 64).toNat
      let addr := if x.space then base % 2 ^ 32 else base
      let goes (i : Instr) (kind : EngKind) : Prop :=
        Issues i s c → lowestCode (xferCodes c kind x addr) = none → transferFull c.s c.t.core = false →
        ∃ o : EngOp, o.kind = kind ∧ o.tiles = x.tiles ∧ o.addr = addr ∧ o.started = false ∧ o.grp = c.r.grp ∧
          Retires i s c { post := fun s => updOps s c.r.team fun y => y ++ [o] }
      goes (.mload f) .load ∧ goes (.mdrain f) .drain ∧ goes (.mdrainAdd f) .drainAdd) ∧
    (∀ (k : AttnMask) (f : RRR), Issues (.attn k f) s c →
      let off := (c.a32 c.low).toNat
      let w := (List.range 32).map fun i => poolNat c.t (off + 4 * i) 4
      let a := Atd.of w
      let m := mapOf c.t a.qmap
      let rows := rowTable c.t a k
      off % 128 = 0 → lowestCode (poolCodes c.t [(off, 128)]) = none → poolLocked c.s c.t [(off, 128)] false = none →
      (k = .tree → poolLocked c.s c.t [(a.qtab, 8 * a.nq)] false = none) →
      (c.g.queue.any fun a => isWindowOp a.opc && !isReadOp a.opc) = false →
      (a.reserved || a.nq = 0 || decide (64 < a.nq) || a.klen = 0 || decide (65536 < a.klen) || a.kstart % 64 != 0
        || decide (3 < a.dlog) || !(attnMapOk m a)) = false →
      lowestCode (tileCodes c.t a.tiles ++ poolCodes c.t (attnRuns (TileMap.ofNat m) a.nq)
        ++ (if k == .tree then poolCodes c.t [(a.qtab, 8 * a.nq)] else [])
        ++ (match windowPlace c.s c.gr c.r.team.lin a.arrive 8 with | .inr e => [e] | .inl _ => [])) = none →
      lowestCode (attnBad c.s c.t.part a (TileMap.ofNat m) rows) = none → gauntletFull c.s c.t.core = false →
      Retires (.attn k f) s c { post := fun s => updOps s c.r.team fun x => x ++ [{ (newOp c 0 .attn a.tiles [] [maskCode k]
        (w ++ [m] ++ rows.flatMap fun r => [r.1, r.2]) 0) with cancelled := attnStale c.s c.t.part a rows }] }) ∧
    (∀ f : RI, Issues (.attnf f) s c →
      let nq := f.imm.toNat / 4096 % 64 + 1
      let d := 2 ^ (f.imm.toNat / 262144 % 4)
      let tiles := ((List.range ((nq + 31) / 32 * d)).map fun k => f.imm.toNat % 64 + k) ++ [f.imm.toNat / 64 % 64]
      lowestCode (tileCodes c.t tiles) = none → gauntletFull c.s c.t.core = false → Retires (.attnf f) s c
        { post := fun s => updOps s c.r.team fun x => x ++ [newOp c 0 .attnf tiles [] [nq, d, f.imm.toNat / 64 % 64] [] 0] }) ∧
    (∀ f : RI, let row := heaprdRow f.imm.toNat
      let waits (i : Instr) (sub : Nat) : Prop := queueFull c.g = false → ∃ a : Access, a.opc = 0xda ∧ a.sub = sub ∧ a.lanes = c.act ∧
        Retires i s c { vec := some fun _ => 0, lazy := true, post := pushAccess c.r a }
      let mine := poolCodes c.t [(65536 * row.1 + 2048 * row.2, 2048)]
      (Issues (.heaprd f) s c → lowestCode mine = none → waits (.heaprd f) 0) ∧
      (Issues (.heaprdTopk f) s c → lowestCode mine = none → waits (.heaprdTopk f) 1) ∧
      (Issues (.heaprdTopp f) s c → lowestCode (mine ++ tileCodes c.t [f.imm.toNat / 8192 % 64]) = none → waits (.heaprdTopp f) 2)) ∧
    (∀ f : RI, Issues (.heapclr f) s c →
      let rows := clrRows f.imm.toNat
      let tiles := if f.imm.toNat.testBit 23 then [f.imm.toNat / 131072 % 64] else []
      lowestCode (tileCodes c.t tiles ++ poolCodes c.t (rows.map fun k => (65536 * k.1 + 2048 * k.2, 2048))) = none →
      transferFull c.s c.t.core = false → Retires (.heapclr f) s c
        { post := fun s => updOps s c.r.team fun x => x ++ [newOp c 0 .heapclr tiles rows
            [f.imm.toNat % 64, f.imm.toNat / 64 % 128, if f.imm.toNat.testBit 23 then 1 else 0] [] 0] })

/-! The cluster, tickets, launches, the Milliner and the fabric, opcodes 0xe0 to 0xfe. -/

/-- COPY and GATHER enter the cluster's engine with the descriptor read, and wait for the ranges of earlier operations (R264, R265, R268,
R269); in a deterministic launch a virtual destination is checked at the issue (R317, R323). COPYST reports and acquires (R270); TLBINV
drops translations and cached lines, and a non-canonical address is PROT (R219, R259); SLOGCTL reports the side log, or retries it with
FULL cleared (R263). The model's choices: that PROT names the lowest active lane, with KIND 0 (log entry 23), and a fault of a COPY's
destination has KIND 3 (log entry 70). -/
def Obligations.ClusterInstructions : Prop :=
  ∀ (s : State) (c : Ctx), c.act ≠ 0 →
    (∀ (f : MF) (dims : Option CopyDims) (d : List Byte) (load : State → State) (cl : Cluster),
      let i : Instr := match dims with | some k => .copy k f | none => .gather f
      Issues i s c → lineLoad c true 7 ((laneAddr c f c.low).toNat % 2 ^ 32) 0 = .got d load → copyBadShape dims d = false →
      lowestCode (copyCodes c dims.isNone d) = none → clusterOfCore c.s c.t.core = some cl →
      (cl.copies.filter fun o => o.run.isNone).length < 32 → locksUsed c.s cl + (if dims.isNone then 3 else 2) ≤ 64 →
      let goes (waiting follows withdrawn : Bool) : Prop :=
        let o : CopyOp :=
          { id := 4096 * stamp c.s, team := c.r.team, grp := c.r.grp, core := c.t.core, gather := dims.isNone, desc := d, started := false, prog := 0
            off := 0, follows := follows, held := false, fault := none, takenBy := none, waiting := waiting
            cancelled := (dTagv d && tagStale c.s c.t.part (dTag d)) || withdrawn, outOfRange := false, run := none
            pc := c.pc, born := stamp c.s, root := (partOf c.s c.t.part).ptroot }
        exec i s = .next (commit s (retire c { post := fun s => updCluster (load s) cl.ref fun x =>
          { x with copies := x.copies ++ [{ o with held := copyBlocked c.s x o }] } }))
      (lrDet c.gr.lr = false ∨ dDsp d = true → goes false false false) ∧
      (lrDet c.gr.lr = true → dDsp d = false →
        (∀ wide, copyDestination c dims.isNone d = .inr wide →
          goes (wide && ticketBuffers c.gr c.t && !c.t.tk.abortMark)
            (wide && !(ticketBuffers c.gr c.t) && c.g.status != .handler) (wide && c.t.tk.abortMark)) ∧
        ∀ code info va, copyDestination c dims.isNone d = .inl (code, info, va) →
          Traps i s c ⟨code, info, 3, oneLane c.act, BitVec.ofNat 64 va⟩)) ∧
    (∀ f : MF, let n := copiesOf c.s c.r
      Issues (.copyst f) s c → n ≤ f.mod.toNat % 64 → Retires (.copyst f) s c
        { vec := some fun _ => BitVec.ofNat 128 (n + (if c.g.copyCancelled then 65536 else 0) + (if c.g.copyRange then 131072 else 0))
          post := fun s => acquireAt (updGroup s c.r fun g => { g with copyCancelled := false, copyRange := false }) c.t.core shSystem }) ∧
    (∀ f : MF, let va := (laneAddr c f c.low).toNat
      let asid := (c.b32 c.low).toNat % 65536
      Issues (.tlbinvPage f) s c →
      (canonical va = true → Acts (.tlbinvPage f) s c fun s => tlbInvalidate s c.t.part (fun e => e.asid == asid && e.vpage == va / 2 ^ e.size)
        fun x => x.asid == asid && 128 * x.vline / 2 ^ x.size == va / 2 ^ x.size) ∧
      (canonical va = false → Traps (.tlbinvPage f) s c ⟨0x11, 0, 0, oneLane c.act, BitVec.ofNat 64 va⟩)) ∧
    (∀ f : MF, Issues (.tlbinvAsid f) s c → Acts (.tlbinvAsid f) s c fun s =>
      tlbInvalidate s c.t.part (fun e => e.asid == (c.b32 c.low).toNat % 65536) fun x => x.asid == (c.b32 c.low).toNat % 65536) ∧
    (∀ f : MF, Issues (.tlbinvAll f) s c → Acts (.tlbinvAll f) s c fun s => tlbInvalidate s c.t.part (fun _ => true) fun _ => true) ∧
    (∀ f : RI, Issues (.slogctlQuery f) s c → GivesWords (.slogctlQuery f) s c 0 fun _ =>
      BitVec.ofNat 32 ((slogOf c.s c.t.core).length + 512 * ((slogOf c.s c.t.core).countP fun e => e.team == c.r.team)
        + if (clusterOfCore c.s c.t.core).any (fun k => k.slogFull) then 262144 else 0)) ∧
    (∀ (f : RI) (cl : Cluster), Issues (.slogctlDrain f) s c → clusterOfCore c.s c.t.core = some cl →
      Acts (.slogctlDrain f) s c fun s => fullLog (slogPass (updCluster s cl.ref fun x => { x with slogFull := false }) cl.ref) cl.ref)

/-- TKCOMMIT marks its threads in a deterministic launch and has no effect outside (R331); DSCALE writes a scale register at once
outside a deterministic launch, behind the additions of its team that have not used it yet, and as a buffered operation inside (R317,
R329); it traps DETRACE in a team that is not aborted where a lane is post-commit (R314), and is discarded of an aborted one (R315); LNCH
and LNCH.LAST enter the queue (R380). The model's choices: that DETRACE names the post-commit lanes in TLANES, with TADDR 0 (log entry
23), and which additions a DSCALE waits for (log entry 145). -/
def Obligations.TicketsAndLaunches : Prop :=
  ∀ (s : State) (c : Ctx), c.act ≠ 0 →
    (∀ f : RI, Issues (.tkcommit f) s c → slogHolds c.s c.r c.t.core = false →
      (lrDet c.gr.lr = false → Retires (.tkcommit f) s c {}) ∧
      (lrDet c.gr.lr = true → Acts (.tkcommit f) s c fun s =>
        settleTickets (updGroup s c.r fun g => updThreads g c.act fun _ t => { t with post := true }) c.r.team.grid)) ∧
    (∀ f : RI, let e := if f.mod.toNat.testBit 0 then (c.a32 c.low).toNat % 4096 else f.imm.toNat / 16 % 4096
      Issues (.dscale f) s c →
      (lrDet c.gr.lr = false → scaleOwed c.s c.gr c.t = false → Acts (.dscale f) s c fun s => putScale s c.gr.id (f.imm.toNat % 16) e) ∧
      (lrDet c.gr.lr = true → (∀ l, c.act.getLsbD l = true → (threadAt c.g l).post = false) → c.t.tk.abortMark = false →
        (ticketBuffers c.gr c.t = true → ∀ u, addEntries c.s c.t c.gr [newEntry 0 (.scale (f.imm.toNat % 16) e) (stamp c.s)] = some u →
          Retires (.dscale f) s c { post := fun s => (addEntries s c.t c.gr [newEntry 0 (.scale (f.imm.toNat % 16) e) (stamp c.s)]).getD s }) ∧
        (ticketBuffers c.gr c.t = false → waitingBorn c.s c.t = [] → scaleOwed c.s c.gr c.t = false →
          Acts (.dscale f) s c fun s => putScale s c.gr.id (f.imm.toNat % 16) e)) ∧
      (lrDet c.gr.lr = true → c.t.tk.abortMark = true → Retires (.dscale f) s c {}) ∧
      (lrDet c.gr.lr = true → c.t.tk.abortMark = false → (∃ l, c.act.getLsbD l = true ∧ (threadAt c.g l).post = true) →
        Traps (.dscale f) s c ⟨0x14, 1, 0, laneMask fun l => c.act.getLsbD l && (threadAt c.g l).post, 0⟩)) ∧
    (∀ (f : MF) (last : Bool), let i : Instr := if last then .lnchLast f else .lnch f
      Issues i s c → queueFull c.g = false → ∃ a : Access, a.opc = 0xeb ∧ a.sub = (if last then 1 else 0) ∧ a.mod = f.mod.toNat ∧ a.lanes = c.act ∧
        (∀ l, c.act.getLsbD l = true → Lanes.at a.addr l 0 = laneAddr c f c.low) ∧
        (a.stage = if lrDet c.gr.lr && ticketBuffers c.gr c.t && !c.t.tk.abortMark then 2 else 0) ∧
        Retires i s c { vec := some fun _ => 0, lazy := true, post := pushAccess c.r a })

/-- The Milliner's instructions send their request with the operands of their active lanes (R345 to R362). The model's choice: operand A
stands in the address field of the request's record and B in its data field (log entry 46). -/
def Obligations.MillinerRequestsIssue : Prop :=
  ∀ (s : State) (c : Ctx) (f : RRR),
    (Issues (.ttfork f) s c → SendsRequest (.ttfork f) s c f) ∧ (Issues (.ttappend f) s c → SendsRequest (.ttappend f) s c f) ∧
    (Issues (.ttprune f) s c → SendsRequest (.ttprune f) s c f) ∧ (Issues (.ttcommit f) s c → SendsRequest (.ttcommit f) s c f) ∧
    (Issues (.ttwalk f) s c → SendsRequest (.ttwalk f) s c f) ∧ (Issues (.ttrefAttach f) s c → SendsRequest (.ttrefAttach f) s c f) ∧
    (Issues (.ttrefDetach f) s c → SendsRequest (.ttrefDetach f) s c f) ∧ (Issues (.ttrefPin f) s c → SendsRequest (.ttrefPin f) s c f) ∧
    (Issues (.ttrefUnpin f) s c → SendsRequest (.ttrefUnpin f) s c f) ∧ (Issues (.ttrefEvict f) s c → SendsRequest (.ttrefEvict f) s c f) ∧
    (Issues (.ttqueryFree f) s c → SendsRequest (.ttqueryFree f) s c f) ∧
    (Issues (.ttqueryReserve f) s c → SendsRequest (.ttqueryReserve f) s c f) ∧
    (Issues (.ttqueryState f) s c → SendsRequest (.ttqueryState f) s c f) ∧
    (Issues (.detok f) s c → SendsRequest (.detok f) s c f) ∧ (Issues (.tokstep f) s c → SendsRequest (.tokstep f) s c f)

/-- The fabric instructions read their descriptor and enter the queue (R402); XFFENCE waits until no operation of its active lanes is
outstanding, and is an acquire at PACKAGE scope (R404). -/
def Obligations.FabricInstructionsIssue : Prop :=
  ∀ (s : State) (c : Ctx) (f : MF),
    (Issues (.xfput f) s c → SendsMessage (.xfput f) s c f) ∧ (Issues (.xfget f) s c → SendsMessage (.xfget f) s c f) ∧
    (Issues (.xfwork f) s c → SendsMessage (.xfwork f) s c f) ∧ (Issues (.xfred f) s c → SendsMessage (.xfred f) s c f) ∧
    (Issues (.xfsred f) s c → SendsMessage (.xfsred f) s c f) ∧
    (∀ g : RI, Issues (.xffence g) s c → (∀ a ∈ c.g.queue, isFabric a.opc = true → a.all &&& c.act = 0) →
      (∀ o ∈ c.s.fabric.ops, o.grp = c.r → o.acc.all &&& c.act = 0) →
      Acts (.xffence g) s c fun s => acquireAt s c.t.core shPackage)

/-! Events. Each happens where its conditions hold, outside recovery (R410), and its next state is the named effect with the end of a
step. -/

/-- Accesses perform and retire, and a waiting operation performs at its turn (R153, R161, R162, R317); traps are taken (R100, R164,
R218); barriers and waits time out (R204, R206, R208, R209, R212, R217). The model's choices: the untimed ARRWAIT's BARHANG has KIND 8 and
no lanes (log entries 23 and 26), and a push, pop or accumulator request whose time passes is withdrawn (log entry 25). -/
def Obligations.GroupEventsHappen : Prop :=
  ∀ (s u : State) (r : GroupRef) (k : Nat) (a : Access), s.boot.recovery = false →
    (entryAt s r k = some a → givesResult a = true → entryGoes s r k = true → entryTry s r k false = some u →
      Happens (.loadCompletion r k) s u) ∧
    (entryAt s r k = some a → givesResult a = false → isRequest a.opc = false → entryGoes s r k = true → entryTry s r k false = some u →
      Happens (.accessRetirement r k) s u) ∧
    (waitingTurn s r = some u → Happens (.waitingOpPerform r) s u) ∧
    (trapEntry s r = some u → Happens (.trapEntry r) s u) ∧
    (∀ w, barrierTimeout s w = some u → Happens (.barrierTimeout w) s u) ∧
    (lateArrwait s r = some a → Happens (.arrwaitTimeout r) s
      (updGroup s r fun g => { g with pending := g.pending ++ [⟨0x16, 17, 8, 0, 0⟩] })) ∧
    (∀ x, lateBart s r k = some x → Happens (.bartTimeout r k) s
      (updGroup s r fun g => bartOver g (laneMask fun l => l == k) x.bar)) ∧
    (lateWait s r = some a → Happens (.groupWaitTimeout r) s
      (if a.stage = 1 then endTimed s r a else endAtOnce (runTok s r a.tok) r a.tok)) ∧
    (lateQueue s r = some a → Happens (.hqWaitTimeout r) s (withdrawTrap s r a 0x18)) ∧
    (∀ t, lateAlloc s r = some a → teamAt s r.team = some t → Happens (.accallocTimeout r) s
      (accGrant (withdrawTrap s r a 0x0a) t.core))

/-- The address engine's elements (R214), the engines' operations (R223, R243, R438) and their faults (R224), the drain of commit buffers
(R319), CANCEL (R360) and the release of a slot (R222). The matrix budget's period (R243): once a multiple of 2,400 clk from the partition's
start has passed, the core's units are there again. -/
def Obligations.TeamEventsHappen : Prop :=
  (∀ (s u : State) (r : TeamRef) (t : Team), s.boot.recovery = false →
    (streamStep s r = some u → Happens (.aeStreamElement r) s u) ∧
    (∀ l n, teamAt s r = some t → coreHeld s t = false → nextPass s t = some (l, n) → Happens (.quarterOpStart r) s
      (updCoreRegs (l.foldl (fun s o => updOp s r o.id fun o => { o with started := true }) s) t.core fun c => { c with remaining := n })) ∧
    (∀ o, teamAt s r = some t → nextTransfer s t.core = some o → coreHeld s t = false → (t.eops.any fun x => x.id == o.id) = true →
      opFree t o = true → Happens (.tileTransferStart r) s (updOp s r o.id fun o => { o with started := true })) ∧
    (progressOf s r false = some u → Happens (.engineOpCompletion r) s u) ∧
    (progressOf s r true = some u → Happens (.attnCompletion r) s u) ∧
    (∀ x o c, faulting s r = some (x, o, c) → Happens (.engineFault r) s
      (postCause (updOp (withRoot (opProgress (withRoot s x.part o.root) x o) x.part (partOf s x.part).ptroot) r o.id
        fun o => { o with fault := some c, takenBy := none }) r o.grp c)) ∧
    (drainStep s r = some u → Happens (.commitDrainEntry r) s u) ∧
    (canTeamSlotRelease s r = true → Happens (.teamSlotRelease r) s (releaseSlot s r)) ∧
    (∀ gr, teamAt s r = some t → gridAt s r.grid = some gr → t.cancelled = false → t.pruned = true →
      Happens (.cancelDelivery r) s (updTeam s r cancelTeam))) ∧
  (∀ (s : State) (core : Nat), s.boot.recovery = false → (coreRegsOf s core).periodAt < periodStart s core →
    ∃ u, Happens (.matrixBudgetPeriod core) s u ∧ (coreRegsOf u core).remaining = effUnits s 5 (coreRegsOf s core).units ∧
      (coreRegsOf u core).periodAt = periodStart s core ∧ (coreRegsOf u core).stalls = (coreRegsOf s core).stalls)

/-- Copies start, move their rows and meet their faults (R264 to R271), a graph's run ends with the fault of its COPY node (R385), a copy's
start charges the copy engines' budget (R415), and the side log is retried (R261). The model's choices: the run ends with reason 0 (log
entry 63), and a copy is charged its bytes at its start (log entry 104). -/
def Obligations.ClusterEventsHappen : Prop :=
  ∀ (s u v : State) (c : ClusterRef) (k : Nat) (o : CopyOp) (e : Cause), s.boot.recovery = false →
    (copyStartable s c k = true → copyAt s c k = some o → Happens (.copyOpStart c k) s
      (updCopy (charge s 3 (dTotal o.gather o.desc)) c o.id fun o => { o with started := true })) ∧
    (copyProgress s c k = some u → Happens (.copyCompletion c k) s u) ∧
    (copyFaulting s c k = some (v, o, e) →
      (o.run = none → Happens (.copyFault c k) s
        (postCause (updCopy v c o.id fun _ => { o with fault := some e, takenBy := none }) o.team o.grp e)) ∧
      ∀ r n, o.run = some (r, n) → Happens (.copyFault c k) s
        (endRun (updCluster v c fun x => { x with copies := x.copies.filter fun y => y.id != o.id }) c.part r 2 0 n)) ∧
    ((partOf s c.part).life ≠ .halted → (clusterAt s c).any (fun x => !x.slog.isEmpty) = true →
      Happens (.sideLogRetryPass c) s (slogPass s c))

/-- A record rings in (R370, R395), starts (R372, R374, R385), its teams are placed on the cores of their unit, each new one joining the
teams there (R253, R279, R378), it completes (R377); a graph's nodes start and finish (R385). What is read of memory meanwhile must be there: a
line that the host may hold changed is asked for first (R394, R435). -/
def Obligations.LaunchEventsHappen : Prop :=
  ∀ (s u : State) (p q : Nat), s.boot.recovery = false →
    (∀ words : List DWord, q < 64 → qdPart (qdBytes s q) = p →
      let b := (words.take 16).flatMap fun w => toBytes 8 w.toNat
      let s1 := updWindow s q fun w => { w with bytes := b ++ w.bytes.drop b.length }
      let d := qdBytes s1 q
      virtLacks s1 (qdPart d) (enqReads s1 q (windowOf s1 q).bytes) = [] → recReason s1 (qdPart d) (windowOf s1 q).bytes .host = none → qdOn d = true → queueOcc s1 q < qdSlots d →
      Happens (.enqueueDoorbell p q words) s
        (updWindow (appendRec s1 q d (windowOf s1 q).bytes) q fun w => { w with status := 0, reason := 0 })) ∧
    (∀ r rest, servedQueue s p = some q → (queueOf s q).waiting = r :: rest → qdPart (qdBytes s q) = p → virtLacks s p (headReads s q) = [] →
      let prio := qdPrio (qdBytes s q)
      let s1 := updPart (updQueue s q fun x => { x with waiting := rest, running := x.running ++ [r.slot] }) p fun x =>
        { x with served := (prio, q) :: x.served.filter fun y => y.1 != prio }
      (dNat r.bytes 0 1 ≠ 2 → dNat r.bytes 0 1 ≠ 3 → beginGrid s1 p q r.slot prio none r.bytes r.outs r.code false = .inl u →
        Happens (.recordStart p q) s u) ∧
      (∀ b, dNat r.bytes 0 1 = 2 → workRecord s1 p r.slot (qdBytes s q) r.bytes = some b →
        beginGrid s1 p q r.slot prio none b [] r.code true = .inl u → Happens (.recordStart p q) s u) ∧
      (∀ ns, dNat r.bytes 0 1 = 3 → graphNodes s1 p (dNat r.bytes 0 4 / 256 % 64) = some ns → graphBad ns = none →
        Happens (.recordStart p q) s (updPart { s1 with nextGrid := s1.nextGrid + 1 } p fun x => { x with runs := x.runs ++
          [{ id := s1.nextGrid, graph := dNat r.bytes 0 4 / 256 % 64, queue := q, slot := r.slot, cmpl := (recCmpl r.bytes).1
             irq := (recCmpl r.bytes).2, nodes := ns, sts := ns.map freshNode, startClk := s1.clk, teams := 0, code := r.code }] }))) ∧
    (∀ (g : Grid) (core : Nat), gridAt s g.id = some g → canTeamPlacement s g.id core = true →
      ∃ (ls : List Nat) (l : List (Nat × Nat)), unitAt s g core = some ls ∧ unitCores s g ls core = some l ∧ l ≠ [] ∧
        let ld := logicalDie g (ls.headD 0)
        let s1 := if lrNdie g.lr = 0 ∨ (g.dmap.any fun x => x.1 == ld) = true then s
          else updGrid s g.id fun g => { g with dmap := (ld, core / 48) :: g.dmap }
        let u := l.foldl (fun s x => placeTeam s g.id x.1 x.2) s1
        Happens (.teamPlacement g.id core) s u ∧
        ((∀ x ∈ l, parkedOf s g.id x.1 = none) → ∃ new, u.teams = s.teams ++ new ∧
          new.map (fun t => (t.ref.grid, t.ref.lin, t.core)) = l.map fun x => (g.id, x.1, x.2))) ∧
    (∀ g : Grid, gridAt s g.id = some g → gridDone s g = true → (partOf s g.part).killing = false →
      Happens (.gridCompletion g.id) s (completeGrid s g)) ∧
    (∀ run node, nodeStarts s p run node = true → virtLacks s p (nodeReads s p run node) = [] → Happens (.graphNodeActivation p run node) s (startNode s p run node)) ∧
    (∀ run node, finishNode s p run node = some u → Happens (.graphNodeCompletion p run node) s u)

/-- A context is saved, written, restored and killed, SAVE and KILL after a halt (R388 to R391), and a cluster map applied or cleared (R367,
R368), where the command's checks pass; its status is then clear. The model's choices: the event that ends the halt of a SAVE also ends
that of a KILL or an MCHECK (log entry 101); what a partition is after a SAVE, and which cores a RESTORE holds back until when (log entry 65). -/
def Obligations.ContextAndMapEvents : Prop :=
  ∀ (s : State) (p : Nat) (addr : DWord), s.boot.recovery = false → p < 16 →
    (
      let s1 := withCtxPart (putCtxaddr s addr.toNat) p
      s.pkg.ctxBusy = false → (areaPa s1 p (ctxVa s1) (contextOf s1 p 0).size 2).isSome = true →
      Happens (.ctxctlSave p addr) s (updPart (ctxAccept s1 true) p fun x => { x with life := .halted, saveAddr := ctxVa s1 })) ∧
    (∀ c : SavedCtx, let s1 := withCtxPart (putCtxaddr s addr.toNat) p
      s.pkg.ctxBusy = false → partBusy s1 p = false → areaCtx s1 p (ctxVa s1) = some c →
      (c.grids.any fun g => lrCoop g.lr && decide (residency s1 p g.lr < g.teams)) = false →
      (s.parts.any fun x => x.num == p) = true →
      ∃ t, Happens (.ctxctlRestore p addr) s t ∧ t.pkg.ctxErr = false ∧ t.pkg.ctxReason = 0 ∧
        (partOf t p).unreleased = (partClusters s1 p).flatMap clusterCores ∧ (partOf t p).origin = c.part ∧
        ((partOf t p).life = if ((partClusters s1 p).flatMap clusterCores).isEmpty then .running else .restoring)) ∧
    (s.pkg.ctxBusy = false → Happens (.ctxctlKill p) s
      (updPart (ctxAccept (withCtxPart s p) true) p fun x => { x with life := .halted, killing := true })) ∧
    (haltedYet s p = true → (partOf s p).killing = false → Happens (.contextWrite p) s (ctxWrite s p)) ∧
    (haltedYet s p = true → (partOf s p).killing = true → Happens (.contextWrite p) s (killPartition s p)) ∧
    (∀ core, canRestoreCoreRelease s p core = true → ∃ t, Happens (.restoreCoreRelease p core) s t ∧
      ((partOf t p).unreleased = (partOf s p).unreleased.filter fun k => k != core)) ∧
    (
      let s1 := { s with pkg := { s.pkg with clmap := addr.toNat / 4096 % 2 ^ 40 * 4096, partPart := p } }
      mapReason s1 (readMap s1) = none → ((changing s.pkg.map (readMap s1)).any fun p => partBusy s1 p) = false →
      ∃ t, Happens (.partctlApply p addr) s t ∧ t.pkg.map = readMap s1 ∧ t.pkg.partErr = false ∧ t.pkg.partReason = 0 ∧
        t.clusters = (s.clusters.filter fun c => !((changing s.pkg.map (readMap s1)).contains c.ref.part))
          ++ (mapClusters (readMap s1)).filter fun c => (changing s.pkg.map (readMap s1)).contains c.ref.part) ∧
    (
      let m := s.pkg.map.map fun e => if abit e 0 == 1 && e / 65536 % 16 == p then 0 else e
      ((changing s.pkg.map m).any fun q => partBusy { s with pkg := { s.pkg with partPart := p } } q) = false →
      ∃ t, Happens (.partctlClear p) s t ∧ t.pkg.map = m ∧ t.pkg.partErr = false)

/-- The Milliner performs requests (R346 to R362), returns the pages a prune dropped (R359), and its pools are created, destroyed and
reserved (R336 to R341) where their checks pass; POOLCTL.ERR is then clear. DESTROY prunes every root, and the pool is removed once what
the prunes cancelled has ended and their pages have returned. The model's choices: a command of the agenda completes in its step, and
`gone` holds the destroys that wait (log entries 53 and 119). -/
def Obligations.MillinerEventsHappen : Prop :=
  ∀ (s u : State) (r : GroupRef) (k part pool : Nat) (p : Pool), s.boot.recovery = false →
    (∀ a, entryAt s r k = some a → partRuns s r.team = true → requestTry s r k false = some u →
      Happens (.millinerRequest r k) s u) ∧
    (pruneReturn s part pool = some u → Happens (.prunePageReturn part pool) s u) ∧
    (∀ b, pool < 16 → poolOf s part pool = none →
      virtRead s part (canon57 (bitsOf (partOf s part).poolbase.toNat 56 12 * 4096 + 128 * pool)) 128 = .inl b → poolOfDesc b = some p →
      engFault s part p.metaBase (p.nnode * 1024 + p.npage * 8) 3 = none →
      Happens (.poolctlCreate part pool) s
        (poolErr (updPart s part fun x => { x with pools := x.pools ++ [(pool, p)] }) part false)) ∧
    (pool < 16 → poolOf s part pool = some p →
      let out := pruneAll (sortAsc ((p.nodes.filter fun n => n.st != .dying && n.parent.isNone).map (·.idx))) p [] []
      let s1 := poolErr (cancelOps (updPool s part pool fun _ => out.1) part pool out.2.2) part false
      (poolQuiet s1 part pool = true → Happens (.poolctlDestroy part pool) s (poolRemove s1 part pool)) ∧
      (poolQuiet s1 part pool = false → Happens (.poolctlDestroy part pool) s
        (updPart s1 part fun x => { x with gone := x.gone ++ [(pool, ⟨[], none⟩)] }))) ∧
    (∀ v, pool < 16 → v < 2 ^ 32 → poolOf s part pool = some p → v ≤ p.npage →
      Happens (.poolctlReserve part pool v) s (poolErr (updPool s part pool fun p => { p with reserve := v }) part false))

/-- The fabric's messages arrive and perform (R403 to R408), completions come or do not (R405), flits are retried (R399), and ports train.
The model's choices: a message that is performed charges the fabric's budget (R415) the bytes received and those of its completion (log entry
104); the ninth failure in a row takes a port down, and TRAIN clears UP (log entry 59). -/
def Obligations.FabricEventsHappen : Prop :=
  ∀ (s u : State) (port k n : Nat), s.boot.recovery = false →
    (budgetOpen s 1 = true → fabStep s port = some (u, n) → Happens (.fabricMessageReceive port) s (charge u 1 n)) ∧
    (∀ x, (s.fabric.deferred.filter fun x => x.1 == port)[k]? = some x → Happens (.xfredResend port k) s
      { s with fabric := { s.fabric with deferred := s.fabric.deferred.erase x, inbox := s.fabric.inbox ++ [x] } }) ∧
    (∀ tag status, cmplRun s tag status = some u → Happens (.fabricCmplReceive tag status) s u) ∧
    (∀ tag o, (s.fabric.ops.find? fun o => o.tag == tag && o.done.isNone) = some o → o.sentAt + fabLimit ≤ s.clk →
      Happens (.fabricCmplTimeout tag) s (fabFinish s o (if o.cls = .work then workLost else 5) 0)) ∧
    (port < 16 → s.fabric.up.getLsbD port = true → Happens (.flitCrcFailure port) s
      (if portRetries s port < 8 then putRetries s port (portRetries s port + 1) else portDown s port)) ∧
    (port < 16 → Happens (.fxcfgTrain port) s (setUp (putRetries s port 0) port false)) ∧
    (port < 16 → s.fabric.up.getLsbD port = false → Happens (.fabricPortUp port) s (setUp (putRetries s port 0) port true))

/-- Snoops are answered and change the line's state (R393); the host's grants, pulls and memory requests act as R394 and R435 say,
a memory request once the host DMA budget has room (R415). The model's choices: the line of a BISnpData answer stays shared (log entry
49), and a memory request is charged to the host DMA budget (log entry 104). Host
register writes reach their register, the mailbox's also in recovery (R392, R395 to R398, R410); page answers, invalidations and the
ring's tail have events of their own. -/
def Obligations.HostEventsHappen : Prop :=
  (∀ (s : State) (line : Nat) (l : HostLine) (data : List Byte), s.boot.recovery = false →
    (hostAt s line = some l →
      Happens (.snpInv line) s (dropIdle (updHostLines (if l.st = .m then
          hostMem (logHost s (.rsp line (rspName .inv l.st) l.data)) line l.data else logHost s (.rsp line (rspName .inv l.st) []))
          (fun x => x.line == line) fun x => { x with st := .i })) ∧
      Happens (.snpData line) s (dropIdle (updHostLines (if l.st = .m then
          hostMem (logHost s (.rsp line (rspName .data l.st) l.data)) line l.data else logHost s (.rsp line (rspName .data l.st) []))
          (fun x => x.line == line) fun x => { x with st := if l.st = .i then .i else .s })) ∧
      Happens (.snpCur line) s (dropIdle (updHostLines (logHost s (.rsp line (rspName .cur l.st)
          (if l.st = .m then l.data else []))) (fun x => x.line == line) fun x => { x with st := l.st })) ∧
      (∀ st, l.req = some 1 ∨ l.req = some 3 → canGo s line st data = true → Happens (.go line st data) s
        (flushPosted (hostMem (updHostLines s (fun x => x.line == line) fun x => { x with st := st, data := data, req := none }) line data)
          line)) ∧
      (∀ st, l.req = some 2 → canGo s line st data = true → Happens (.go line st data) s
        (hostMem (updHostLines s (fun x => x.line == line) fun x => { x with data := data, req := some 8 }) line data)) ∧
      (∀ st, l.req = some 4 → l.st = .i → canGo s line st data = true → Happens (.go line st data) s
        (flushPosted (hostMem (updHostLines s (fun x => x.line == line) fun x => { x with st := st, data := data, req := none }) line data)
          line)) ∧
      (∀ st, l.req = some 6 → canGo s line st data = true → Happens (.go line st data) s
        (flushPosted (dropIdle (updHostLines s (fun x => x.line == line) fun x => { x with st := .i, req := none })) line)) ∧
      (∀ st, l.req = some 4 → l.st ≠ .i → canGo s line st data = true → Happens (.go line st data) s
        (flushPosted (updHostLines s (fun x => x.line == line) fun x => { x with st := st, req := none }) line)) ∧
      (∀ st, l.req = some 5 → canGo s line st data = true → Happens (.go line st data) s
        (dropIdle (retryWriters (flushPosted (updHostLines s (fun x => x.line == line) fun x => { x with req := some 9 }) line) line))) ∧
      (l.evicting = true → Happens (.goWritepull line) s
        (flushPosted (dropIdle (updHostLines (if l.st = .m then hostMem (logHost s (.writeData line false l.data)) line l.data
          else logHost s (.writeData line true l.data)) (fun x => x.line == line) fun x =>
            { x with st := .i, evicting := false, req := none })) line)) ∧
      (l.req = some 5 → l.writing = true → Happens (.writepull line) s
        (updHostLines (logHost s (.writeData line false l.data)) (fun x => x.line == line) fun x => { x with writing := false }))) ∧
    (∀ addr, (region (addr / 64 * 64) = some 0 ∨ region (addr / 64 * 64) = some 1) → budgetOpen s 0 = true → s.host.waiting = [] →
      (∃ t, Happens (.cxlMemRequest (.read addr)) s t ∧
        t.host.log = s.host.log ++ [.memData addr false ((List.range 64).map fun k => rdHome s (addr / 64 * 64 + k))] ∧
        t.host.held.contains (addr / 64) = true) ∧
      Happens (.cxlMemRequest (.write addr data)) s
        ((data.take 64).zipIdx.foldl (fun s x => putHome s none (addr / 64 * 64 + x.2) x.1) (charge s 0 64))) ∧
    (∀ q, budgetOpen s 0 = false ∨ s.host.waiting ≠ [] →
      Happens (.cxlMemRequest q) s { s with host := { s.host with waiting := s.host.waiting ++ [q] } }) ∧
    (∀ dirty, (s.host.snooping.any fun x => x.1 == line) = true → ∃ t, Happens (.bisnpResponse line dirty data) s t ∧
      (∀ x ∈ t.host.snooping, x.1 ≠ line) ∧
      ((line, true) ∈ s.host.snooping → t.host.held.contains line = false ∧ t.host.shared.contains line = false) ∧
      ((line, true) ∉ s.host.snooping → t.host.shared.contains line = true))) ∧
  (∀ (s : State) (v : DWord),
    (∀ off, off ≠ 0x2000 → Happens (.hostRegisterWrite off v) s (hostRegister s off v)) ∧
    hostRegister s 0x2008 v = { s with boot := { s.boot with mbaddr := v } } ∧
    hostRegister s 0x2010 v = { s with boot := { s.boot with mblen := v.setWidth 32 } } ∧
    (s.boot.recovery = false →
      hostRegister s 0x1010 v = prqtailWrite s v ∧ hostRegister s 0x1018 v = { s with host := { s.host with presp0 := v } } ∧
      hostRegister s 0x1020 v = prespWrite s v ∧ hostRegister s 0x1028 v = { s with host := { s.host with hinv0 := v } } ∧
      hostRegister s 0x1030 v = hinvWrite s v ∧ hostRegister s 0x1040 v = mgstatWrite s v.toNat ∧
      Happens (.prqtailWrite v) s (prqtailWrite s v) ∧ Happens (.prespWrite v) s (prespWrite s v) ∧ Happens (.hinvWrite v) s (hinvWrite s v)))

/-- Power, boot and the mailbox (R410 to R413): POWER_ON and RESET start the package again; UPDATE reads an aligned image that lies in
host memory, in one go where no host DMA budget limits it, and its end reports DONE or an error once the image is read; ABORT returns to
IDLE; PROGRESS counts what was read and written; without power no step is made but POWER_ON. The model's choices: the command reads the
image, and ABORT works at any time while BUSY (log entry 41); what a reboot keeps (log entry 84); what PROGRESS counts (log entry 141). -/
def Obligations.PowerAndMailbox : Prop :=
  ∀ s : State,
    (s.boot.powered = false → exec .powerOn s = .next (rebooted s) ∧
      ((∀ rest, s.agenda ≠ .event .powerOn :: rest) → step s = .fault .powerOff)) ∧
    (∀ addr len, s.boot.mbst ≠ .busy → budgetRoom s 0 = none → len % 4096 = 0 → len ≠ 0 → len ≤ 2 ^ 26 → addr % 4096 = 0 → addr + len ≤ 2 ^ 51 →
      ∃ t, Happens (.mailboxUpdate addr len) s t ∧ t.boot.mbst = .busy ∧ t.boot.mberr = 0 ∧ t.boot.mbfail = 0 ∧
        mbProgress t = (len + 65535) / 65536 ∧ t.boot.mbaddr.toNat = addr ∧ t.boot.mblen.toNat = len) ∧
    (s.boot.mbst = .busy → mbLeft s = 0 → ∃ t, Happens .mailboxUpdateEnd s t ∧ t.boot.mbimage = [] ∧ t.boot.mbread = s.boot.mbread ∧ t.host.mgstat.getLsbD 3 = true ∧
      (s.boot.mbfail ≠ 0 → t.boot.mbst = .error ∧ t.boot.mberr = s.boot.mbfail ∧ t.boot.flash = s.boot.flash) ∧
      (t.boot.mbst = .done ∧ t.boot.mberr = 0 ∧ t.boot.flash = s.boot.mbimage ∧ t.boot.mbwritten = s.boot.mbimage.length ∨
        t.boot.mbst = .error ∧ t.boot.mberr ≠ 0 ∧ t.boot.flash = s.boot.flash)) ∧
    (s.boot.mbst ≠ .busy → exec .mailboxReset s = .next (setMgstat (rebooted s) 3)) ∧
    (s.boot.mbst = .busy → ∃ t, Happens .mailboxAbort s t ∧ t.boot.mbst = .idle ∧ t.boot.mberr = 0 ∧ t.boot.mbimage = []) ∧
    (∃ t, Happens .powerLoss s t ∧ t.boot.powered = false) ∧
    (∀ die, die < 8 → ∃ t, Happens (.dieOvertempCutoff die) s t ∧ t.boot.powered = false ∧ (∀ p, p < 16 → p ∈ t.boot.mcheck) ∧
      t.host.log = (stopScope s .package).host.log)

/-- Housekeeping (R413 to R418, R289): attestation, machine checks, which halt a partition to be killed (R99), the watchdog,
activity budgets, thermal and power limits, the L1's own write-backs and scrubbing. The model's choices: errors may happen at any time, the thermal flag turns over, and a scrub corrects one
error (log entry 42); a write-back drops its line (log entry 43); a scrub waits for its budget (log entry 104), whose waits are counted
at a period's end (log entry 37). -/
def Obligations.HousekeepingEventsHappen : Prop :=
  ∀ s : State, s.boot.recovery = false →
    (∀ nonce : List Byte, nonce.length = 32 → Happens (.attestationRequest nonce) s (logHost s (.report (report s nonce)))) ∧
    (∀ p, p < 16 → Happens (.uncorrectableError (.part p)) s (mcheck s p) ∧
      (partWorks s p = true ∨ partWaits s p = false → Happens (.watchdogExpiry p) s (mcheck s p))) ∧
    Happens (.uncorrectableError .package) s ((List.range 16).foldl mcheck s) ∧
    (∀ p, (s.parts.any fun x => x.num == p) = true → (partOf (mcheck s p) p).life = .halted ∧ (partOf (mcheck s p) p).killing = true) ∧
    ((budgetAt s 0).periodAt + 24000 ≤ s.clk → ∃ t, Happens .activityBudgetPeriod s t ∧
      ∀ k, k < s.budgets.length → (budgetAt t k).units = (budgetAt s k).units ∧
        (k ≠ 0 ∨ s.host.waiting = [] ∧ mbLeft s = 0 → (budgetAt t k).used = 0)) ∧
    (∀ die, die < 8 → ∃ t, Happens (.thermalThreshold die) s t ∧ t.host.mgstat.getLsbD 0 = true ∧
      (t.boot.hot.contains die = !(s.boot.hot.contains die))) ∧
    (∀ mw, ∃ t, Happens (.budgetLowering mw) s t ∧ t.host.mgstat.getLsbD 1 = true ∧ t.boot.milliwatts = mw) ∧
    (∀ core k x, (dirtyLines s core)[k]? = some x → Happens (.dirtyL1LineWriteback core k) s
      (l1Drop s fun l => l.core == core && l.asid == x.asid && l.vline == x.vline)) ∧
    (∀ addr, (region addr = some 0 ∨ region addr = some 1) → budgetOpen s 4 = true → s.host.corrected + 1 < 65536 →
      ∃ t, Happens (.scrub addr) s t ∧ t.host.corrected = s.host.corrected + 1)
end

