-- ==== Sys2Proof/Laws/State.lean ====
section
/-! SUPPORT. One lemma per field and update: what an update of the state, of a team's part or of a group leaves in each field. -/

namespace Sys2Proof.Machine

/-! `updTeam`. -/

@[simp] theorem updTeam_clk (s : State) (t : TeamRef) (f : Team → Team) : (updTeam s t f).clk = s.clk := rfl
@[simp] theorem updTeam_mem (s : State) (t : TeamRef) (f : Team → Team) : (updTeam s t f).mem = s.mem := rfl
@[simp] theorem updTeam_wbuf (s : State) (t : TeamRef) (f : Team → Team) : (updTeam s t f).wbuf = s.wbuf := rfl
@[simp] theorem updTeam_cur (s : State) (t : TeamRef) (f : Team → Team) : (updTeam s t f).cur = s.cur := rfl
@[simp] theorem updTeam_agenda (s : State) (t : TeamRef) (f : Team → Team) : (updTeam s t f).agenda = s.agenda := rfl
@[simp] theorem updTeam_turn (s : State) (t : TeamRef) (f : Team → Team) : (updTeam s t f).turn = s.turn := rfl
@[simp] theorem updTeam_drawn (s : State) (t : TeamRef) (f : Team → Team) : (updTeam s t f).drawn = s.drawn := rfl
@[simp] theorem updTeam_teams (s : State) (t : TeamRef) (f : Team → Team) : (updTeam s t f).teams = s.teams.map fun x => if x.ref == t then f x else x := rfl
@[simp] theorem updTeam_grids (s : State) (t : TeamRef) (f : Team → Team) : (updTeam s t f).grids = s.grids := rfl
@[simp] theorem updTeam_parked (s : State) (t : TeamRef) (f : Team → Team) : (updTeam s t f).parked = s.parked := rfl
@[simp] theorem updTeam_saves (s : State) (t : TeamRef) (f : Team → Team) : (updTeam s t f).saves = s.saves := rfl
@[simp] theorem updTeam_nextGrid (s : State) (t : TeamRef) (f : Team → Team) : (updTeam s t f).nextGrid = s.nextGrid := rfl
@[simp] theorem updTeam_clusters (s : State) (t : TeamRef) (f : Team → Team) : (updTeam s t f).clusters = s.clusters := rfl
@[simp] theorem updTeam_coreRegs (s : State) (t : TeamRef) (f : Team → Team) : (updTeam s t f).coreRegs = s.coreRegs := rfl
@[simp] theorem updTeam_l1 (s : State) (t : TeamRef) (f : Team → Team) : (updTeam s t f).l1 = s.l1 := rfl
@[simp] theorem updTeam_guests (s : State) (t : TeamRef) (f : Team → Team) : (updTeam s t f).guests = s.guests := rfl
@[simp] theorem updTeam_monitors (s : State) (t : TeamRef) (f : Team → Team) : (updTeam s t f).monitors = s.monitors := rfl
@[simp] theorem updTeam_records (s : State) (t : TeamRef) (f : Team → Team) : (updTeam s t f).records = s.records := rfl
@[simp] theorem updTeam_parts (s : State) (t : TeamRef) (f : Team → Team) : (updTeam s t f).parts = s.parts := rfl
@[simp] theorem updTeam_queues (s : State) (t : TeamRef) (f : Team → Team) : (updTeam s t f).queues = s.queues := rfl
@[simp] theorem updTeam_pkg (s : State) (t : TeamRef) (f : Team → Team) : (updTeam s t f).pkg = s.pkg := rfl
@[simp] theorem updTeam_budgets (s : State) (t : TeamRef) (f : Team → Team) : (updTeam s t f).budgets = s.budgets := rfl
@[simp] theorem updTeam_fabric (s : State) (t : TeamRef) (f : Team → Team) : (updTeam s t f).fabric = s.fabric := rfl
@[simp] theorem updTeam_host (s : State) (t : TeamRef) (f : Team → Team) : (updTeam s t f).host = s.host := rfl
@[simp] theorem updTeam_boot (s : State) (t : TeamRef) (f : Team → Team) : (updTeam s t f).boot = s.boot := rfl

/-! `updGroup`. -/

@[simp] theorem updGroup_clk (s : State) (r : GroupRef) (f : Group → Group) : (updGroup s r f).clk = s.clk := rfl
@[simp] theorem updGroup_mem (s : State) (r : GroupRef) (f : Group → Group) : (updGroup s r f).mem = s.mem := rfl
@[simp] theorem updGroup_wbuf (s : State) (r : GroupRef) (f : Group → Group) : (updGroup s r f).wbuf = s.wbuf := rfl
@[simp] theorem updGroup_cur (s : State) (r : GroupRef) (f : Group → Group) : (updGroup s r f).cur = s.cur := rfl
@[simp] theorem updGroup_agenda (s : State) (r : GroupRef) (f : Group → Group) : (updGroup s r f).agenda = s.agenda := rfl
@[simp] theorem updGroup_turn (s : State) (r : GroupRef) (f : Group → Group) : (updGroup s r f).turn = s.turn := rfl
@[simp] theorem updGroup_drawn (s : State) (r : GroupRef) (f : Group → Group) : (updGroup s r f).drawn = s.drawn := rfl
@[simp] theorem updGroup_teams (s : State) (r : GroupRef) (f : Group → Group) : (updGroup s r f).teams = s.teams.map fun x => if x.ref == r.team then { x with groups := modAt x.groups r.grp f } else x := rfl
@[simp] theorem updGroup_grids (s : State) (r : GroupRef) (f : Group → Group) : (updGroup s r f).grids = s.grids := rfl
@[simp] theorem updGroup_parked (s : State) (r : GroupRef) (f : Group → Group) : (updGroup s r f).parked = s.parked := rfl
@[simp] theorem updGroup_saves (s : State) (r : GroupRef) (f : Group → Group) : (updGroup s r f).saves = s.saves := rfl
@[simp] theorem updGroup_nextGrid (s : State) (r : GroupRef) (f : Group → Group) : (updGroup s r f).nextGrid = s.nextGrid := rfl
@[simp] theorem updGroup_clusters (s : State) (r : GroupRef) (f : Group → Group) : (updGroup s r f).clusters = s.clusters := rfl
@[simp] theorem updGroup_coreRegs (s : State) (r : GroupRef) (f : Group → Group) : (updGroup s r f).coreRegs = s.coreRegs := rfl
@[simp] theorem updGroup_l1 (s : State) (r : GroupRef) (f : Group → Group) : (updGroup s r f).l1 = s.l1 := rfl
@[simp] theorem updGroup_guests (s : State) (r : GroupRef) (f : Group → Group) : (updGroup s r f).guests = s.guests := rfl
@[simp] theorem updGroup_monitors (s : State) (r : GroupRef) (f : Group → Group) : (updGroup s r f).monitors = s.monitors := rfl
@[simp] theorem updGroup_records (s : State) (r : GroupRef) (f : Group → Group) : (updGroup s r f).records = s.records := rfl
@[simp] theorem updGroup_parts (s : State) (r : GroupRef) (f : Group → Group) : (updGroup s r f).parts = s.parts := rfl
@[simp] theorem updGroup_queues (s : State) (r : GroupRef) (f : Group → Group) : (updGroup s r f).queues = s.queues := rfl
@[simp] theorem updGroup_pkg (s : State) (r : GroupRef) (f : Group → Group) : (updGroup s r f).pkg = s.pkg := rfl
@[simp] theorem updGroup_budgets (s : State) (r : GroupRef) (f : Group → Group) : (updGroup s r f).budgets = s.budgets := rfl
@[simp] theorem updGroup_fabric (s : State) (r : GroupRef) (f : Group → Group) : (updGroup s r f).fabric = s.fabric := rfl
@[simp] theorem updGroup_host (s : State) (r : GroupRef) (f : Group → Group) : (updGroup s r f).host = s.host := rfl
@[simp] theorem updGroup_boot (s : State) (r : GroupRef) (f : Group → Group) : (updGroup s r f).boot = s.boot := rfl

/-! `updRegs`. -/

@[simp] theorem updRegs_clk (s : State) (t : TeamRef) (f : TeamRegs → TeamRegs) : (updRegs s t f).clk = s.clk := rfl
@[simp] theorem updRegs_mem (s : State) (t : TeamRef) (f : TeamRegs → TeamRegs) : (updRegs s t f).mem = s.mem := rfl
@[simp] theorem updRegs_wbuf (s : State) (t : TeamRef) (f : TeamRegs → TeamRegs) : (updRegs s t f).wbuf = s.wbuf := rfl
@[simp] theorem updRegs_cur (s : State) (t : TeamRef) (f : TeamRegs → TeamRegs) : (updRegs s t f).cur = s.cur := rfl
@[simp] theorem updRegs_agenda (s : State) (t : TeamRef) (f : TeamRegs → TeamRegs) : (updRegs s t f).agenda = s.agenda := rfl
@[simp] theorem updRegs_turn (s : State) (t : TeamRef) (f : TeamRegs → TeamRegs) : (updRegs s t f).turn = s.turn := rfl
@[simp] theorem updRegs_drawn (s : State) (t : TeamRef) (f : TeamRegs → TeamRegs) : (updRegs s t f).drawn = s.drawn := rfl
@[simp] theorem updRegs_teams (s : State) (t : TeamRef) (f : TeamRegs → TeamRegs) : (updRegs s t f).teams = s.teams.map fun x => if x.ref == t then { x with regs := f x.regs } else x := rfl
@[simp] theorem updRegs_grids (s : State) (t : TeamRef) (f : TeamRegs → TeamRegs) : (updRegs s t f).grids = s.grids := rfl
@[simp] theorem updRegs_parked (s : State) (t : TeamRef) (f : TeamRegs → TeamRegs) : (updRegs s t f).parked = s.parked := rfl
@[simp] theorem updRegs_saves (s : State) (t : TeamRef) (f : TeamRegs → TeamRegs) : (updRegs s t f).saves = s.saves := rfl
@[simp] theorem updRegs_nextGrid (s : State) (t : TeamRef) (f : TeamRegs → TeamRegs) : (updRegs s t f).nextGrid = s.nextGrid := rfl
@[simp] theorem updRegs_clusters (s : State) (t : TeamRef) (f : TeamRegs → TeamRegs) : (updRegs s t f).clusters = s.clusters := rfl
@[simp] theorem updRegs_coreRegs (s : State) (t : TeamRef) (f : TeamRegs → TeamRegs) : (updRegs s t f).coreRegs = s.coreRegs := rfl
@[simp] theorem updRegs_l1 (s : State) (t : TeamRef) (f : TeamRegs → TeamRegs) : (updRegs s t f).l1 = s.l1 := rfl
@[simp] theorem updRegs_guests (s : State) (t : TeamRef) (f : TeamRegs → TeamRegs) : (updRegs s t f).guests = s.guests := rfl
@[simp] theorem updRegs_monitors (s : State) (t : TeamRef) (f : TeamRegs → TeamRegs) : (updRegs s t f).monitors = s.monitors := rfl
@[simp] theorem updRegs_records (s : State) (t : TeamRef) (f : TeamRegs → TeamRegs) : (updRegs s t f).records = s.records := rfl
@[simp] theorem updRegs_parts (s : State) (t : TeamRef) (f : TeamRegs → TeamRegs) : (updRegs s t f).parts = s.parts := rfl
@[simp] theorem updRegs_queues (s : State) (t : TeamRef) (f : TeamRegs → TeamRegs) : (updRegs s t f).queues = s.queues := rfl
@[simp] theorem updRegs_pkg (s : State) (t : TeamRef) (f : TeamRegs → TeamRegs) : (updRegs s t f).pkg = s.pkg := rfl
@[simp] theorem updRegs_budgets (s : State) (t : TeamRef) (f : TeamRegs → TeamRegs) : (updRegs s t f).budgets = s.budgets := rfl
@[simp] theorem updRegs_fabric (s : State) (t : TeamRef) (f : TeamRegs → TeamRegs) : (updRegs s t f).fabric = s.fabric := rfl
@[simp] theorem updRegs_host (s : State) (t : TeamRef) (f : TeamRegs → TeamRegs) : (updRegs s t f).host = s.host := rfl
@[simp] theorem updRegs_boot (s : State) (t : TeamRef) (f : TeamRegs → TeamRegs) : (updRegs s t f).boot = s.boot := rfl

/-! `writeUni`. -/

@[simp] theorem writeUni_clk (s : State) (t : TeamRef) (n : Nat) (v : DWord) : (writeUni s t n v).clk = s.clk := rfl
@[simp] theorem writeUni_mem (s : State) (t : TeamRef) (n : Nat) (v : DWord) : (writeUni s t n v).mem = s.mem := rfl
@[simp] theorem writeUni_wbuf (s : State) (t : TeamRef) (n : Nat) (v : DWord) : (writeUni s t n v).wbuf = s.wbuf := rfl
@[simp] theorem writeUni_cur (s : State) (t : TeamRef) (n : Nat) (v : DWord) : (writeUni s t n v).cur = s.cur := rfl
@[simp] theorem writeUni_agenda (s : State) (t : TeamRef) (n : Nat) (v : DWord) : (writeUni s t n v).agenda = s.agenda := rfl
@[simp] theorem writeUni_turn (s : State) (t : TeamRef) (n : Nat) (v : DWord) : (writeUni s t n v).turn = s.turn := rfl
@[simp] theorem writeUni_drawn (s : State) (t : TeamRef) (n : Nat) (v : DWord) : (writeUni s t n v).drawn = s.drawn := rfl
@[simp] theorem writeUni_teams (s : State) (t : TeamRef) (n : Nat) (v : DWord) : (writeUni s t n v).teams = s.teams.map fun x => if x.ref == t then { x with regs := { x.regs with sregs := x.regs.sregs.set n v } } else x := rfl
@[simp] theorem writeUni_grids (s : State) (t : TeamRef) (n : Nat) (v : DWord) : (writeUni s t n v).grids = s.grids := rfl
@[simp] theorem writeUni_parked (s : State) (t : TeamRef) (n : Nat) (v : DWord) : (writeUni s t n v).parked = s.parked := rfl
@[simp] theorem writeUni_saves (s : State) (t : TeamRef) (n : Nat) (v : DWord) : (writeUni s t n v).saves = s.saves := rfl
@[simp] theorem writeUni_nextGrid (s : State) (t : TeamRef) (n : Nat) (v : DWord) : (writeUni s t n v).nextGrid = s.nextGrid := rfl
@[simp] theorem writeUni_clusters (s : State) (t : TeamRef) (n : Nat) (v : DWord) : (writeUni s t n v).clusters = s.clusters := rfl
@[simp] theorem writeUni_coreRegs (s : State) (t : TeamRef) (n : Nat) (v : DWord) : (writeUni s t n v).coreRegs = s.coreRegs := rfl
@[simp] theorem writeUni_l1 (s : State) (t : TeamRef) (n : Nat) (v : DWord) : (writeUni s t n v).l1 = s.l1 := rfl
@[simp] theorem writeUni_guests (s : State) (t : TeamRef) (n : Nat) (v : DWord) : (writeUni s t n v).guests = s.guests := rfl
@[simp] theorem writeUni_monitors (s : State) (t : TeamRef) (n : Nat) (v : DWord) : (writeUni s t n v).monitors = s.monitors := rfl
@[simp] theorem writeUni_records (s : State) (t : TeamRef) (n : Nat) (v : DWord) : (writeUni s t n v).records = s.records := rfl
@[simp] theorem writeUni_parts (s : State) (t : TeamRef) (n : Nat) (v : DWord) : (writeUni s t n v).parts = s.parts := rfl
@[simp] theorem writeUni_queues (s : State) (t : TeamRef) (n : Nat) (v : DWord) : (writeUni s t n v).queues = s.queues := rfl
@[simp] theorem writeUni_pkg (s : State) (t : TeamRef) (n : Nat) (v : DWord) : (writeUni s t n v).pkg = s.pkg := rfl
@[simp] theorem writeUni_budgets (s : State) (t : TeamRef) (n : Nat) (v : DWord) : (writeUni s t n v).budgets = s.budgets := rfl
@[simp] theorem writeUni_fabric (s : State) (t : TeamRef) (n : Nat) (v : DWord) : (writeUni s t n v).fabric = s.fabric := rfl
@[simp] theorem writeUni_host (s : State) (t : TeamRef) (n : Nat) (v : DWord) : (writeUni s t n v).host = s.host := rfl
@[simp] theorem writeUni_boot (s : State) (t : TeamRef) (n : Nat) (v : DWord) : (writeUni s t n v).boot = s.boot := rfl

/-! `orMstat`. -/

@[simp] theorem orMstat_clk (s : State) (t : TeamRef) (f : Flags) : (orMstat s t f).clk = s.clk := rfl
@[simp] theorem orMstat_mem (s : State) (t : TeamRef) (f : Flags) : (orMstat s t f).mem = s.mem := rfl
@[simp] theorem orMstat_wbuf (s : State) (t : TeamRef) (f : Flags) : (orMstat s t f).wbuf = s.wbuf := rfl
@[simp] theorem orMstat_cur (s : State) (t : TeamRef) (f : Flags) : (orMstat s t f).cur = s.cur := rfl
@[simp] theorem orMstat_agenda (s : State) (t : TeamRef) (f : Flags) : (orMstat s t f).agenda = s.agenda := rfl
@[simp] theorem orMstat_turn (s : State) (t : TeamRef) (f : Flags) : (orMstat s t f).turn = s.turn := rfl
@[simp] theorem orMstat_drawn (s : State) (t : TeamRef) (f : Flags) : (orMstat s t f).drawn = s.drawn := rfl
@[simp] theorem orMstat_teams (s : State) (t : TeamRef) (f : Flags) : (orMstat s t f).teams = s.teams.map fun x => if x.ref == t then { x with regs := { x.regs with mstat := x.regs.mstat ||| f } } else x := rfl
@[simp] theorem orMstat_grids (s : State) (t : TeamRef) (f : Flags) : (orMstat s t f).grids = s.grids := rfl
@[simp] theorem orMstat_parked (s : State) (t : TeamRef) (f : Flags) : (orMstat s t f).parked = s.parked := rfl
@[simp] theorem orMstat_saves (s : State) (t : TeamRef) (f : Flags) : (orMstat s t f).saves = s.saves := rfl
@[simp] theorem orMstat_nextGrid (s : State) (t : TeamRef) (f : Flags) : (orMstat s t f).nextGrid = s.nextGrid := rfl
@[simp] theorem orMstat_clusters (s : State) (t : TeamRef) (f : Flags) : (orMstat s t f).clusters = s.clusters := rfl
@[simp] theorem orMstat_coreRegs (s : State) (t : TeamRef) (f : Flags) : (orMstat s t f).coreRegs = s.coreRegs := rfl
@[simp] theorem orMstat_l1 (s : State) (t : TeamRef) (f : Flags) : (orMstat s t f).l1 = s.l1 := rfl
@[simp] theorem orMstat_guests (s : State) (t : TeamRef) (f : Flags) : (orMstat s t f).guests = s.guests := rfl
@[simp] theorem orMstat_monitors (s : State) (t : TeamRef) (f : Flags) : (orMstat s t f).monitors = s.monitors := rfl
@[simp] theorem orMstat_records (s : State) (t : TeamRef) (f : Flags) : (orMstat s t f).records = s.records := rfl
@[simp] theorem orMstat_parts (s : State) (t : TeamRef) (f : Flags) : (orMstat s t f).parts = s.parts := rfl
@[simp] theorem orMstat_queues (s : State) (t : TeamRef) (f : Flags) : (orMstat s t f).queues = s.queues := rfl
@[simp] theorem orMstat_pkg (s : State) (t : TeamRef) (f : Flags) : (orMstat s t f).pkg = s.pkg := rfl
@[simp] theorem orMstat_budgets (s : State) (t : TeamRef) (f : Flags) : (orMstat s t f).budgets = s.budgets := rfl
@[simp] theorem orMstat_fabric (s : State) (t : TeamRef) (f : Flags) : (orMstat s t f).fabric = s.fabric := rfl
@[simp] theorem orMstat_host (s : State) (t : TeamRef) (f : Flags) : (orMstat s t f).host = s.host := rfl
@[simp] theorem orMstat_boot (s : State) (t : TeamRef) (f : Flags) : (orMstat s t f).boot = s.boot := rfl

/-! `updStream`. -/

@[simp] theorem updStream_clk (s : State) (t : TeamRef) (f : Stream → Stream) : (updStream s t f).clk = s.clk := rfl
@[simp] theorem updStream_mem (s : State) (t : TeamRef) (f : Stream → Stream) : (updStream s t f).mem = s.mem := rfl
@[simp] theorem updStream_wbuf (s : State) (t : TeamRef) (f : Stream → Stream) : (updStream s t f).wbuf = s.wbuf := rfl
@[simp] theorem updStream_cur (s : State) (t : TeamRef) (f : Stream → Stream) : (updStream s t f).cur = s.cur := rfl
@[simp] theorem updStream_agenda (s : State) (t : TeamRef) (f : Stream → Stream) : (updStream s t f).agenda = s.agenda := rfl
@[simp] theorem updStream_turn (s : State) (t : TeamRef) (f : Stream → Stream) : (updStream s t f).turn = s.turn := rfl
@[simp] theorem updStream_drawn (s : State) (t : TeamRef) (f : Stream → Stream) : (updStream s t f).drawn = s.drawn := rfl
@[simp] theorem updStream_teams (s : State) (t : TeamRef) (f : Stream → Stream) : (updStream s t f).teams = s.teams.map fun x => if x.ref == t then { x with stream := f x.stream } else x := rfl
@[simp] theorem updStream_grids (s : State) (t : TeamRef) (f : Stream → Stream) : (updStream s t f).grids = s.grids := rfl
@[simp] theorem updStream_parked (s : State) (t : TeamRef) (f : Stream → Stream) : (updStream s t f).parked = s.parked := rfl
@[simp] theorem updStream_saves (s : State) (t : TeamRef) (f : Stream → Stream) : (updStream s t f).saves = s.saves := rfl
@[simp] theorem updStream_nextGrid (s : State) (t : TeamRef) (f : Stream → Stream) : (updStream s t f).nextGrid = s.nextGrid := rfl
@[simp] theorem updStream_clusters (s : State) (t : TeamRef) (f : Stream → Stream) : (updStream s t f).clusters = s.clusters := rfl
@[simp] theorem updStream_coreRegs (s : State) (t : TeamRef) (f : Stream → Stream) : (updStream s t f).coreRegs = s.coreRegs := rfl
@[simp] theorem updStream_l1 (s : State) (t : TeamRef) (f : Stream → Stream) : (updStream s t f).l1 = s.l1 := rfl
@[simp] theorem updStream_guests (s : State) (t : TeamRef) (f : Stream → Stream) : (updStream s t f).guests = s.guests := rfl
@[simp] theorem updStream_monitors (s : State) (t : TeamRef) (f : Stream → Stream) : (updStream s t f).monitors = s.monitors := rfl
@[simp] theorem updStream_records (s : State) (t : TeamRef) (f : Stream → Stream) : (updStream s t f).records = s.records := rfl
@[simp] theorem updStream_parts (s : State) (t : TeamRef) (f : Stream → Stream) : (updStream s t f).parts = s.parts := rfl
@[simp] theorem updStream_queues (s : State) (t : TeamRef) (f : Stream → Stream) : (updStream s t f).queues = s.queues := rfl
@[simp] theorem updStream_pkg (s : State) (t : TeamRef) (f : Stream → Stream) : (updStream s t f).pkg = s.pkg := rfl
@[simp] theorem updStream_budgets (s : State) (t : TeamRef) (f : Stream → Stream) : (updStream s t f).budgets = s.budgets := rfl
@[simp] theorem updStream_fabric (s : State) (t : TeamRef) (f : Stream → Stream) : (updStream s t f).fabric = s.fabric := rfl
@[simp] theorem updStream_host (s : State) (t : TeamRef) (f : Stream → Stream) : (updStream s t f).host = s.host := rfl
@[simp] theorem updStream_boot (s : State) (t : TeamRef) (f : Stream → Stream) : (updStream s t f).boot = s.boot := rfl

/-! `updBank`. -/

@[simp] theorem updBank_clk (s : State) (t : TeamRef) (b : Nat) (f : Bank → Bank) : (updBank s t b f).clk = s.clk := rfl
@[simp] theorem updBank_mem (s : State) (t : TeamRef) (b : Nat) (f : Bank → Bank) : (updBank s t b f).mem = s.mem := rfl
@[simp] theorem updBank_wbuf (s : State) (t : TeamRef) (b : Nat) (f : Bank → Bank) : (updBank s t b f).wbuf = s.wbuf := rfl
@[simp] theorem updBank_cur (s : State) (t : TeamRef) (b : Nat) (f : Bank → Bank) : (updBank s t b f).cur = s.cur := rfl
@[simp] theorem updBank_agenda (s : State) (t : TeamRef) (b : Nat) (f : Bank → Bank) : (updBank s t b f).agenda = s.agenda := rfl
@[simp] theorem updBank_turn (s : State) (t : TeamRef) (b : Nat) (f : Bank → Bank) : (updBank s t b f).turn = s.turn := rfl
@[simp] theorem updBank_drawn (s : State) (t : TeamRef) (b : Nat) (f : Bank → Bank) : (updBank s t b f).drawn = s.drawn := rfl
@[simp] theorem updBank_grids (s : State) (t : TeamRef) (b : Nat) (f : Bank → Bank) : (updBank s t b f).grids = s.grids := rfl
@[simp] theorem updBank_parked (s : State) (t : TeamRef) (b : Nat) (f : Bank → Bank) : (updBank s t b f).parked = s.parked := rfl
@[simp] theorem updBank_saves (s : State) (t : TeamRef) (b : Nat) (f : Bank → Bank) : (updBank s t b f).saves = s.saves := rfl
@[simp] theorem updBank_nextGrid (s : State) (t : TeamRef) (b : Nat) (f : Bank → Bank) : (updBank s t b f).nextGrid = s.nextGrid := rfl
@[simp] theorem updBank_clusters (s : State) (t : TeamRef) (b : Nat) (f : Bank → Bank) : (updBank s t b f).clusters = s.clusters := rfl
@[simp] theorem updBank_coreRegs (s : State) (t : TeamRef) (b : Nat) (f : Bank → Bank) : (updBank s t b f).coreRegs = s.coreRegs := rfl
@[simp] theorem updBank_l1 (s : State) (t : TeamRef) (b : Nat) (f : Bank → Bank) : (updBank s t b f).l1 = s.l1 := rfl
@[simp] theorem updBank_guests (s : State) (t : TeamRef) (b : Nat) (f : Bank → Bank) : (updBank s t b f).guests = s.guests := rfl
@[simp] theorem updBank_monitors (s : State) (t : TeamRef) (b : Nat) (f : Bank → Bank) : (updBank s t b f).monitors = s.monitors := rfl
@[simp] theorem updBank_records (s : State) (t : TeamRef) (b : Nat) (f : Bank → Bank) : (updBank s t b f).records = s.records := rfl
@[simp] theorem updBank_parts (s : State) (t : TeamRef) (b : Nat) (f : Bank → Bank) : (updBank s t b f).parts = s.parts := rfl
@[simp] theorem updBank_queues (s : State) (t : TeamRef) (b : Nat) (f : Bank → Bank) : (updBank s t b f).queues = s.queues := rfl
@[simp] theorem updBank_pkg (s : State) (t : TeamRef) (b : Nat) (f : Bank → Bank) : (updBank s t b f).pkg = s.pkg := rfl
@[simp] theorem updBank_budgets (s : State) (t : TeamRef) (b : Nat) (f : Bank → Bank) : (updBank s t b f).budgets = s.budgets := rfl
@[simp] theorem updBank_fabric (s : State) (t : TeamRef) (b : Nat) (f : Bank → Bank) : (updBank s t b f).fabric = s.fabric := rfl
@[simp] theorem updBank_host (s : State) (t : TeamRef) (b : Nat) (f : Bank → Bank) : (updBank s t b f).host = s.host := rfl
@[simp] theorem updBank_boot (s : State) (t : TeamRef) (b : Nat) (f : Bank → Bank) : (updBank s t b f).boot = s.boot := rfl

/-! `updOp`. -/

@[simp] theorem updOp_clk (s : State) (t : TeamRef) (id : Nat) (f : EngOp → EngOp) : (updOp s t id f).clk = s.clk := rfl
@[simp] theorem updOp_mem (s : State) (t : TeamRef) (id : Nat) (f : EngOp → EngOp) : (updOp s t id f).mem = s.mem := rfl
@[simp] theorem updOp_wbuf (s : State) (t : TeamRef) (id : Nat) (f : EngOp → EngOp) : (updOp s t id f).wbuf = s.wbuf := rfl
@[simp] theorem updOp_cur (s : State) (t : TeamRef) (id : Nat) (f : EngOp → EngOp) : (updOp s t id f).cur = s.cur := rfl
@[simp] theorem updOp_agenda (s : State) (t : TeamRef) (id : Nat) (f : EngOp → EngOp) : (updOp s t id f).agenda = s.agenda := rfl
@[simp] theorem updOp_turn (s : State) (t : TeamRef) (id : Nat) (f : EngOp → EngOp) : (updOp s t id f).turn = s.turn := rfl
@[simp] theorem updOp_drawn (s : State) (t : TeamRef) (id : Nat) (f : EngOp → EngOp) : (updOp s t id f).drawn = s.drawn := rfl
@[simp] theorem updOp_grids (s : State) (t : TeamRef) (id : Nat) (f : EngOp → EngOp) : (updOp s t id f).grids = s.grids := rfl
@[simp] theorem updOp_parked (s : State) (t : TeamRef) (id : Nat) (f : EngOp → EngOp) : (updOp s t id f).parked = s.parked := rfl
@[simp] theorem updOp_saves (s : State) (t : TeamRef) (id : Nat) (f : EngOp → EngOp) : (updOp s t id f).saves = s.saves := rfl
@[simp] theorem updOp_nextGrid (s : State) (t : TeamRef) (id : Nat) (f : EngOp → EngOp) : (updOp s t id f).nextGrid = s.nextGrid := rfl
@[simp] theorem updOp_clusters (s : State) (t : TeamRef) (id : Nat) (f : EngOp → EngOp) : (updOp s t id f).clusters = s.clusters := rfl
@[simp] theorem updOp_coreRegs (s : State) (t : TeamRef) (id : Nat) (f : EngOp → EngOp) : (updOp s t id f).coreRegs = s.coreRegs := rfl
@[simp] theorem updOp_l1 (s : State) (t : TeamRef) (id : Nat) (f : EngOp → EngOp) : (updOp s t id f).l1 = s.l1 := rfl
@[simp] theorem updOp_guests (s : State) (t : TeamRef) (id : Nat) (f : EngOp → EngOp) : (updOp s t id f).guests = s.guests := rfl
@[simp] theorem updOp_monitors (s : State) (t : TeamRef) (id : Nat) (f : EngOp → EngOp) : (updOp s t id f).monitors = s.monitors := rfl
@[simp] theorem updOp_records (s : State) (t : TeamRef) (id : Nat) (f : EngOp → EngOp) : (updOp s t id f).records = s.records := rfl
@[simp] theorem updOp_parts (s : State) (t : TeamRef) (id : Nat) (f : EngOp → EngOp) : (updOp s t id f).parts = s.parts := rfl
@[simp] theorem updOp_queues (s : State) (t : TeamRef) (id : Nat) (f : EngOp → EngOp) : (updOp s t id f).queues = s.queues := rfl
@[simp] theorem updOp_pkg (s : State) (t : TeamRef) (id : Nat) (f : EngOp → EngOp) : (updOp s t id f).pkg = s.pkg := rfl
@[simp] theorem updOp_budgets (s : State) (t : TeamRef) (id : Nat) (f : EngOp → EngOp) : (updOp s t id f).budgets = s.budgets := rfl
@[simp] theorem updOp_fabric (s : State) (t : TeamRef) (id : Nat) (f : EngOp → EngOp) : (updOp s t id f).fabric = s.fabric := rfl
@[simp] theorem updOp_host (s : State) (t : TeamRef) (id : Nat) (f : EngOp → EngOp) : (updOp s t id f).host = s.host := rfl
@[simp] theorem updOp_boot (s : State) (t : TeamRef) (id : Nat) (f : EngOp → EngOp) : (updOp s t id f).boot = s.boot := rfl

/-! `setEntry`. -/

@[simp] theorem setEntry_clk (s : State) (r : GroupRef) (tok : Nat) (f : Access → Access) : (setEntry s r tok f).clk = s.clk := rfl
@[simp] theorem setEntry_mem (s : State) (r : GroupRef) (tok : Nat) (f : Access → Access) : (setEntry s r tok f).mem = s.mem := rfl
@[simp] theorem setEntry_wbuf (s : State) (r : GroupRef) (tok : Nat) (f : Access → Access) : (setEntry s r tok f).wbuf = s.wbuf := rfl
@[simp] theorem setEntry_cur (s : State) (r : GroupRef) (tok : Nat) (f : Access → Access) : (setEntry s r tok f).cur = s.cur := rfl
@[simp] theorem setEntry_agenda (s : State) (r : GroupRef) (tok : Nat) (f : Access → Access) : (setEntry s r tok f).agenda = s.agenda := rfl
@[simp] theorem setEntry_turn (s : State) (r : GroupRef) (tok : Nat) (f : Access → Access) : (setEntry s r tok f).turn = s.turn := rfl
@[simp] theorem setEntry_drawn (s : State) (r : GroupRef) (tok : Nat) (f : Access → Access) : (setEntry s r tok f).drawn = s.drawn := rfl
@[simp] theorem setEntry_grids (s : State) (r : GroupRef) (tok : Nat) (f : Access → Access) : (setEntry s r tok f).grids = s.grids := rfl
@[simp] theorem setEntry_parked (s : State) (r : GroupRef) (tok : Nat) (f : Access → Access) : (setEntry s r tok f).parked = s.parked := rfl
@[simp] theorem setEntry_saves (s : State) (r : GroupRef) (tok : Nat) (f : Access → Access) : (setEntry s r tok f).saves = s.saves := rfl
@[simp] theorem setEntry_nextGrid (s : State) (r : GroupRef) (tok : Nat) (f : Access → Access) : (setEntry s r tok f).nextGrid = s.nextGrid := rfl
@[simp] theorem setEntry_clusters (s : State) (r : GroupRef) (tok : Nat) (f : Access → Access) : (setEntry s r tok f).clusters = s.clusters := rfl
@[simp] theorem setEntry_coreRegs (s : State) (r : GroupRef) (tok : Nat) (f : Access → Access) : (setEntry s r tok f).coreRegs = s.coreRegs := rfl
@[simp] theorem setEntry_l1 (s : State) (r : GroupRef) (tok : Nat) (f : Access → Access) : (setEntry s r tok f).l1 = s.l1 := rfl
@[simp] theorem setEntry_guests (s : State) (r : GroupRef) (tok : Nat) (f : Access → Access) : (setEntry s r tok f).guests = s.guests := rfl
@[simp] theorem setEntry_monitors (s : State) (r : GroupRef) (tok : Nat) (f : Access → Access) : (setEntry s r tok f).monitors = s.monitors := rfl
@[simp] theorem setEntry_records (s : State) (r : GroupRef) (tok : Nat) (f : Access → Access) : (setEntry s r tok f).records = s.records := rfl
@[simp] theorem setEntry_parts (s : State) (r : GroupRef) (tok : Nat) (f : Access → Access) : (setEntry s r tok f).parts = s.parts := rfl
@[simp] theorem setEntry_queues (s : State) (r : GroupRef) (tok : Nat) (f : Access → Access) : (setEntry s r tok f).queues = s.queues := rfl
@[simp] theorem setEntry_pkg (s : State) (r : GroupRef) (tok : Nat) (f : Access → Access) : (setEntry s r tok f).pkg = s.pkg := rfl
@[simp] theorem setEntry_budgets (s : State) (r : GroupRef) (tok : Nat) (f : Access → Access) : (setEntry s r tok f).budgets = s.budgets := rfl
@[simp] theorem setEntry_fabric (s : State) (r : GroupRef) (tok : Nat) (f : Access → Access) : (setEntry s r tok f).fabric = s.fabric := rfl
@[simp] theorem setEntry_host (s : State) (r : GroupRef) (tok : Nat) (f : Access → Access) : (setEntry s r tok f).host = s.host := rfl
@[simp] theorem setEntry_boot (s : State) (r : GroupRef) (tok : Nat) (f : Access → Access) : (setEntry s r tok f).boot = s.boot := rfl

/-! `pushAccess`. -/

@[simp] theorem pushAccess_clk (r : GroupRef) (a : Access) (s : State) : (pushAccess r a s).clk = s.clk := rfl
@[simp] theorem pushAccess_mem (r : GroupRef) (a : Access) (s : State) : (pushAccess r a s).mem = s.mem := rfl
@[simp] theorem pushAccess_wbuf (r : GroupRef) (a : Access) (s : State) : (pushAccess r a s).wbuf = s.wbuf := rfl
@[simp] theorem pushAccess_cur (r : GroupRef) (a : Access) (s : State) : (pushAccess r a s).cur = s.cur := rfl
@[simp] theorem pushAccess_agenda (r : GroupRef) (a : Access) (s : State) : (pushAccess r a s).agenda = s.agenda := rfl
@[simp] theorem pushAccess_turn (r : GroupRef) (a : Access) (s : State) : (pushAccess r a s).turn = s.turn := rfl
@[simp] theorem pushAccess_drawn (r : GroupRef) (a : Access) (s : State) : (pushAccess r a s).drawn = s.drawn := rfl
@[simp] theorem pushAccess_grids (r : GroupRef) (a : Access) (s : State) : (pushAccess r a s).grids = s.grids := rfl
@[simp] theorem pushAccess_parked (r : GroupRef) (a : Access) (s : State) : (pushAccess r a s).parked = s.parked := rfl
@[simp] theorem pushAccess_saves (r : GroupRef) (a : Access) (s : State) : (pushAccess r a s).saves = s.saves := rfl
@[simp] theorem pushAccess_nextGrid (r : GroupRef) (a : Access) (s : State) : (pushAccess r a s).nextGrid = s.nextGrid := rfl
@[simp] theorem pushAccess_clusters (r : GroupRef) (a : Access) (s : State) : (pushAccess r a s).clusters = s.clusters := rfl
@[simp] theorem pushAccess_coreRegs (r : GroupRef) (a : Access) (s : State) : (pushAccess r a s).coreRegs = s.coreRegs := rfl
@[simp] theorem pushAccess_l1 (r : GroupRef) (a : Access) (s : State) : (pushAccess r a s).l1 = s.l1 := rfl
@[simp] theorem pushAccess_guests (r : GroupRef) (a : Access) (s : State) : (pushAccess r a s).guests = s.guests := rfl
@[simp] theorem pushAccess_monitors (r : GroupRef) (a : Access) (s : State) : (pushAccess r a s).monitors = s.monitors := rfl
@[simp] theorem pushAccess_records (r : GroupRef) (a : Access) (s : State) : (pushAccess r a s).records = s.records := rfl
@[simp] theorem pushAccess_parts (r : GroupRef) (a : Access) (s : State) : (pushAccess r a s).parts = s.parts := rfl
@[simp] theorem pushAccess_queues (r : GroupRef) (a : Access) (s : State) : (pushAccess r a s).queues = s.queues := rfl
@[simp] theorem pushAccess_pkg (r : GroupRef) (a : Access) (s : State) : (pushAccess r a s).pkg = s.pkg := rfl
@[simp] theorem pushAccess_budgets (r : GroupRef) (a : Access) (s : State) : (pushAccess r a s).budgets = s.budgets := rfl
@[simp] theorem pushAccess_fabric (r : GroupRef) (a : Access) (s : State) : (pushAccess r a s).fabric = s.fabric := rfl
@[simp] theorem pushAccess_host (r : GroupRef) (a : Access) (s : State) : (pushAccess r a s).host = s.host := rfl
@[simp] theorem pushAccess_boot (r : GroupRef) (a : Access) (s : State) : (pushAccess r a s).boot = s.boot := rfl

/-! `updGrid`. -/

@[simp] theorem updGrid_clk (s : State) (n : Nat) (f : Grid → Grid) : (updGrid s n f).clk = s.clk := rfl
@[simp] theorem updGrid_mem (s : State) (n : Nat) (f : Grid → Grid) : (updGrid s n f).mem = s.mem := rfl
@[simp] theorem updGrid_wbuf (s : State) (n : Nat) (f : Grid → Grid) : (updGrid s n f).wbuf = s.wbuf := rfl
@[simp] theorem updGrid_cur (s : State) (n : Nat) (f : Grid → Grid) : (updGrid s n f).cur = s.cur := rfl
@[simp] theorem updGrid_agenda (s : State) (n : Nat) (f : Grid → Grid) : (updGrid s n f).agenda = s.agenda := rfl
@[simp] theorem updGrid_turn (s : State) (n : Nat) (f : Grid → Grid) : (updGrid s n f).turn = s.turn := rfl
@[simp] theorem updGrid_drawn (s : State) (n : Nat) (f : Grid → Grid) : (updGrid s n f).drawn = s.drawn := rfl
@[simp] theorem updGrid_teams (s : State) (n : Nat) (f : Grid → Grid) : (updGrid s n f).teams = s.teams := rfl
@[simp] theorem updGrid_grids (s : State) (n : Nat) (f : Grid → Grid) : (updGrid s n f).grids = s.grids.map fun x => if x.id == n then f x else x := rfl
@[simp] theorem updGrid_parked (s : State) (n : Nat) (f : Grid → Grid) : (updGrid s n f).parked = s.parked := rfl
@[simp] theorem updGrid_saves (s : State) (n : Nat) (f : Grid → Grid) : (updGrid s n f).saves = s.saves := rfl
@[simp] theorem updGrid_nextGrid (s : State) (n : Nat) (f : Grid → Grid) : (updGrid s n f).nextGrid = s.nextGrid := rfl
@[simp] theorem updGrid_clusters (s : State) (n : Nat) (f : Grid → Grid) : (updGrid s n f).clusters = s.clusters := rfl
@[simp] theorem updGrid_coreRegs (s : State) (n : Nat) (f : Grid → Grid) : (updGrid s n f).coreRegs = s.coreRegs := rfl
@[simp] theorem updGrid_l1 (s : State) (n : Nat) (f : Grid → Grid) : (updGrid s n f).l1 = s.l1 := rfl
@[simp] theorem updGrid_guests (s : State) (n : Nat) (f : Grid → Grid) : (updGrid s n f).guests = s.guests := rfl
@[simp] theorem updGrid_monitors (s : State) (n : Nat) (f : Grid → Grid) : (updGrid s n f).monitors = s.monitors := rfl
@[simp] theorem updGrid_records (s : State) (n : Nat) (f : Grid → Grid) : (updGrid s n f).records = s.records := rfl
@[simp] theorem updGrid_parts (s : State) (n : Nat) (f : Grid → Grid) : (updGrid s n f).parts = s.parts := rfl
@[simp] theorem updGrid_queues (s : State) (n : Nat) (f : Grid → Grid) : (updGrid s n f).queues = s.queues := rfl
@[simp] theorem updGrid_pkg (s : State) (n : Nat) (f : Grid → Grid) : (updGrid s n f).pkg = s.pkg := rfl
@[simp] theorem updGrid_budgets (s : State) (n : Nat) (f : Grid → Grid) : (updGrid s n f).budgets = s.budgets := rfl
@[simp] theorem updGrid_fabric (s : State) (n : Nat) (f : Grid → Grid) : (updGrid s n f).fabric = s.fabric := rfl
@[simp] theorem updGrid_host (s : State) (n : Nat) (f : Grid → Grid) : (updGrid s n f).host = s.host := rfl
@[simp] theorem updGrid_boot (s : State) (n : Nat) (f : Grid → Grid) : (updGrid s n f).boot = s.boot := rfl

/-! `updPart`. -/

@[simp] theorem updPart_clk (s : State) (p : Nat) (f : Partition → Partition) : (updPart s p f).clk = s.clk := rfl
@[simp] theorem updPart_mem (s : State) (p : Nat) (f : Partition → Partition) : (updPart s p f).mem = s.mem := rfl
@[simp] theorem updPart_wbuf (s : State) (p : Nat) (f : Partition → Partition) : (updPart s p f).wbuf = s.wbuf := rfl
@[simp] theorem updPart_cur (s : State) (p : Nat) (f : Partition → Partition) : (updPart s p f).cur = s.cur := rfl
@[simp] theorem updPart_agenda (s : State) (p : Nat) (f : Partition → Partition) : (updPart s p f).agenda = s.agenda := rfl
@[simp] theorem updPart_turn (s : State) (p : Nat) (f : Partition → Partition) : (updPart s p f).turn = s.turn := rfl
@[simp] theorem updPart_drawn (s : State) (p : Nat) (f : Partition → Partition) : (updPart s p f).drawn = s.drawn := rfl
@[simp] theorem updPart_teams (s : State) (p : Nat) (f : Partition → Partition) : (updPart s p f).teams = s.teams := rfl
@[simp] theorem updPart_grids (s : State) (p : Nat) (f : Partition → Partition) : (updPart s p f).grids = s.grids := rfl
@[simp] theorem updPart_parked (s : State) (p : Nat) (f : Partition → Partition) : (updPart s p f).parked = s.parked := rfl
@[simp] theorem updPart_saves (s : State) (p : Nat) (f : Partition → Partition) : (updPart s p f).saves = s.saves := rfl
@[simp] theorem updPart_nextGrid (s : State) (p : Nat) (f : Partition → Partition) : (updPart s p f).nextGrid = s.nextGrid := rfl
@[simp] theorem updPart_clusters (s : State) (p : Nat) (f : Partition → Partition) : (updPart s p f).clusters = s.clusters := rfl
@[simp] theorem updPart_coreRegs (s : State) (p : Nat) (f : Partition → Partition) : (updPart s p f).coreRegs = s.coreRegs := rfl
@[simp] theorem updPart_l1 (s : State) (p : Nat) (f : Partition → Partition) : (updPart s p f).l1 = s.l1 := rfl
@[simp] theorem updPart_guests (s : State) (p : Nat) (f : Partition → Partition) : (updPart s p f).guests = s.guests := rfl
@[simp] theorem updPart_monitors (s : State) (p : Nat) (f : Partition → Partition) : (updPart s p f).monitors = s.monitors := rfl
@[simp] theorem updPart_records (s : State) (p : Nat) (f : Partition → Partition) : (updPart s p f).records = s.records := rfl
@[simp] theorem updPart_queues (s : State) (p : Nat) (f : Partition → Partition) : (updPart s p f).queues = s.queues := rfl
@[simp] theorem updPart_pkg (s : State) (p : Nat) (f : Partition → Partition) : (updPart s p f).pkg = s.pkg := rfl
@[simp] theorem updPart_budgets (s : State) (p : Nat) (f : Partition → Partition) : (updPart s p f).budgets = s.budgets := rfl
@[simp] theorem updPart_fabric (s : State) (p : Nat) (f : Partition → Partition) : (updPart s p f).fabric = s.fabric := rfl
@[simp] theorem updPart_host (s : State) (p : Nat) (f : Partition → Partition) : (updPart s p f).host = s.host := rfl
@[simp] theorem updPart_boot (s : State) (p : Nat) (f : Partition → Partition) : (updPart s p f).boot = s.boot := rfl

/-! `withRoot`. -/

@[simp] theorem withRoot_clk (s : State) (p : Nat) (root : DWord) : (withRoot s p root).clk = s.clk := rfl
@[simp] theorem withRoot_mem (s : State) (p : Nat) (root : DWord) : (withRoot s p root).mem = s.mem := rfl
@[simp] theorem withRoot_wbuf (s : State) (p : Nat) (root : DWord) : (withRoot s p root).wbuf = s.wbuf := rfl
@[simp] theorem withRoot_cur (s : State) (p : Nat) (root : DWord) : (withRoot s p root).cur = s.cur := rfl
@[simp] theorem withRoot_agenda (s : State) (p : Nat) (root : DWord) : (withRoot s p root).agenda = s.agenda := rfl
@[simp] theorem withRoot_turn (s : State) (p : Nat) (root : DWord) : (withRoot s p root).turn = s.turn := rfl
@[simp] theorem withRoot_drawn (s : State) (p : Nat) (root : DWord) : (withRoot s p root).drawn = s.drawn := rfl
@[simp] theorem withRoot_teams (s : State) (p : Nat) (root : DWord) : (withRoot s p root).teams = s.teams := rfl
@[simp] theorem withRoot_grids (s : State) (p : Nat) (root : DWord) : (withRoot s p root).grids = s.grids := rfl
@[simp] theorem withRoot_parked (s : State) (p : Nat) (root : DWord) : (withRoot s p root).parked = s.parked := rfl
@[simp] theorem withRoot_saves (s : State) (p : Nat) (root : DWord) : (withRoot s p root).saves = s.saves := rfl
@[simp] theorem withRoot_nextGrid (s : State) (p : Nat) (root : DWord) : (withRoot s p root).nextGrid = s.nextGrid := rfl
@[simp] theorem withRoot_clusters (s : State) (p : Nat) (root : DWord) : (withRoot s p root).clusters = s.clusters := rfl
@[simp] theorem withRoot_coreRegs (s : State) (p : Nat) (root : DWord) : (withRoot s p root).coreRegs = s.coreRegs := rfl
@[simp] theorem withRoot_l1 (s : State) (p : Nat) (root : DWord) : (withRoot s p root).l1 = s.l1 := rfl
@[simp] theorem withRoot_guests (s : State) (p : Nat) (root : DWord) : (withRoot s p root).guests = s.guests := rfl
@[simp] theorem withRoot_monitors (s : State) (p : Nat) (root : DWord) : (withRoot s p root).monitors = s.monitors := rfl
@[simp] theorem withRoot_records (s : State) (p : Nat) (root : DWord) : (withRoot s p root).records = s.records := rfl
@[simp] theorem withRoot_queues (s : State) (p : Nat) (root : DWord) : (withRoot s p root).queues = s.queues := rfl
@[simp] theorem withRoot_pkg (s : State) (p : Nat) (root : DWord) : (withRoot s p root).pkg = s.pkg := rfl
@[simp] theorem withRoot_budgets (s : State) (p : Nat) (root : DWord) : (withRoot s p root).budgets = s.budgets := rfl
@[simp] theorem withRoot_fabric (s : State) (p : Nat) (root : DWord) : (withRoot s p root).fabric = s.fabric := rfl
@[simp] theorem withRoot_host (s : State) (p : Nat) (root : DWord) : (withRoot s p root).host = s.host := rfl
@[simp] theorem withRoot_boot (s : State) (p : Nat) (root : DWord) : (withRoot s p root).boot = s.boot := rfl

/-! `updPool`. -/

@[simp] theorem updPool_clk (s : State) (p k : Nat) (f : Pool → Pool) : (updPool s p k f).clk = s.clk := rfl
@[simp] theorem updPool_mem (s : State) (p k : Nat) (f : Pool → Pool) : (updPool s p k f).mem = s.mem := rfl
@[simp] theorem updPool_wbuf (s : State) (p k : Nat) (f : Pool → Pool) : (updPool s p k f).wbuf = s.wbuf := rfl
@[simp] theorem updPool_cur (s : State) (p k : Nat) (f : Pool → Pool) : (updPool s p k f).cur = s.cur := rfl
@[simp] theorem updPool_agenda (s : State) (p k : Nat) (f : Pool → Pool) : (updPool s p k f).agenda = s.agenda := rfl
@[simp] theorem updPool_turn (s : State) (p k : Nat) (f : Pool → Pool) : (updPool s p k f).turn = s.turn := rfl
@[simp] theorem updPool_drawn (s : State) (p k : Nat) (f : Pool → Pool) : (updPool s p k f).drawn = s.drawn := rfl
@[simp] theorem updPool_teams (s : State) (p k : Nat) (f : Pool → Pool) : (updPool s p k f).teams = s.teams := rfl
@[simp] theorem updPool_grids (s : State) (p k : Nat) (f : Pool → Pool) : (updPool s p k f).grids = s.grids := rfl
@[simp] theorem updPool_parked (s : State) (p k : Nat) (f : Pool → Pool) : (updPool s p k f).parked = s.parked := rfl
@[simp] theorem updPool_saves (s : State) (p k : Nat) (f : Pool → Pool) : (updPool s p k f).saves = s.saves := rfl
@[simp] theorem updPool_nextGrid (s : State) (p k : Nat) (f : Pool → Pool) : (updPool s p k f).nextGrid = s.nextGrid := rfl
@[simp] theorem updPool_clusters (s : State) (p k : Nat) (f : Pool → Pool) : (updPool s p k f).clusters = s.clusters := rfl
@[simp] theorem updPool_coreRegs (s : State) (p k : Nat) (f : Pool → Pool) : (updPool s p k f).coreRegs = s.coreRegs := rfl
@[simp] theorem updPool_l1 (s : State) (p k : Nat) (f : Pool → Pool) : (updPool s p k f).l1 = s.l1 := rfl
@[simp] theorem updPool_guests (s : State) (p k : Nat) (f : Pool → Pool) : (updPool s p k f).guests = s.guests := rfl
@[simp] theorem updPool_monitors (s : State) (p k : Nat) (f : Pool → Pool) : (updPool s p k f).monitors = s.monitors := rfl
@[simp] theorem updPool_records (s : State) (p k : Nat) (f : Pool → Pool) : (updPool s p k f).records = s.records := rfl
@[simp] theorem updPool_queues (s : State) (p k : Nat) (f : Pool → Pool) : (updPool s p k f).queues = s.queues := rfl
@[simp] theorem updPool_pkg (s : State) (p k : Nat) (f : Pool → Pool) : (updPool s p k f).pkg = s.pkg := rfl
@[simp] theorem updPool_budgets (s : State) (p k : Nat) (f : Pool → Pool) : (updPool s p k f).budgets = s.budgets := rfl
@[simp] theorem updPool_fabric (s : State) (p k : Nat) (f : Pool → Pool) : (updPool s p k f).fabric = s.fabric := rfl
@[simp] theorem updPool_host (s : State) (p k : Nat) (f : Pool → Pool) : (updPool s p k f).host = s.host := rfl
@[simp] theorem updPool_boot (s : State) (p k : Nat) (f : Pool → Pool) : (updPool s p k f).boot = s.boot := rfl

/-! `updCluster`. -/

@[simp] theorem updCluster_clk (s : State) (c : ClusterRef) (f : Cluster → Cluster) : (updCluster s c f).clk = s.clk := rfl
@[simp] theorem updCluster_mem (s : State) (c : ClusterRef) (f : Cluster → Cluster) : (updCluster s c f).mem = s.mem := rfl
@[simp] theorem updCluster_wbuf (s : State) (c : ClusterRef) (f : Cluster → Cluster) : (updCluster s c f).wbuf = s.wbuf := rfl
@[simp] theorem updCluster_cur (s : State) (c : ClusterRef) (f : Cluster → Cluster) : (updCluster s c f).cur = s.cur := rfl
@[simp] theorem updCluster_agenda (s : State) (c : ClusterRef) (f : Cluster → Cluster) : (updCluster s c f).agenda = s.agenda := rfl
@[simp] theorem updCluster_turn (s : State) (c : ClusterRef) (f : Cluster → Cluster) : (updCluster s c f).turn = s.turn := rfl
@[simp] theorem updCluster_drawn (s : State) (c : ClusterRef) (f : Cluster → Cluster) : (updCluster s c f).drawn = s.drawn := rfl
@[simp] theorem updCluster_teams (s : State) (c : ClusterRef) (f : Cluster → Cluster) : (updCluster s c f).teams = s.teams := rfl
@[simp] theorem updCluster_grids (s : State) (c : ClusterRef) (f : Cluster → Cluster) : (updCluster s c f).grids = s.grids := rfl
@[simp] theorem updCluster_parked (s : State) (c : ClusterRef) (f : Cluster → Cluster) : (updCluster s c f).parked = s.parked := rfl
@[simp] theorem updCluster_saves (s : State) (c : ClusterRef) (f : Cluster → Cluster) : (updCluster s c f).saves = s.saves := rfl
@[simp] theorem updCluster_nextGrid (s : State) (c : ClusterRef) (f : Cluster → Cluster) : (updCluster s c f).nextGrid = s.nextGrid := rfl
@[simp] theorem updCluster_coreRegs (s : State) (c : ClusterRef) (f : Cluster → Cluster) : (updCluster s c f).coreRegs = s.coreRegs := rfl
@[simp] theorem updCluster_l1 (s : State) (c : ClusterRef) (f : Cluster → Cluster) : (updCluster s c f).l1 = s.l1 := rfl
@[simp] theorem updCluster_guests (s : State) (c : ClusterRef) (f : Cluster → Cluster) : (updCluster s c f).guests = s.guests := rfl
@[simp] theorem updCluster_monitors (s : State) (c : ClusterRef) (f : Cluster → Cluster) : (updCluster s c f).monitors = s.monitors := rfl
@[simp] theorem updCluster_records (s : State) (c : ClusterRef) (f : Cluster → Cluster) : (updCluster s c f).records = s.records := rfl
@[simp] theorem updCluster_parts (s : State) (c : ClusterRef) (f : Cluster → Cluster) : (updCluster s c f).parts = s.parts := rfl
@[simp] theorem updCluster_queues (s : State) (c : ClusterRef) (f : Cluster → Cluster) : (updCluster s c f).queues = s.queues := rfl
@[simp] theorem updCluster_pkg (s : State) (c : ClusterRef) (f : Cluster → Cluster) : (updCluster s c f).pkg = s.pkg := rfl
@[simp] theorem updCluster_budgets (s : State) (c : ClusterRef) (f : Cluster → Cluster) : (updCluster s c f).budgets = s.budgets := rfl
@[simp] theorem updCluster_fabric (s : State) (c : ClusterRef) (f : Cluster → Cluster) : (updCluster s c f).fabric = s.fabric := rfl
@[simp] theorem updCluster_host (s : State) (c : ClusterRef) (f : Cluster → Cluster) : (updCluster s c f).host = s.host := rfl
@[simp] theorem updCluster_boot (s : State) (c : ClusterRef) (f : Cluster → Cluster) : (updCluster s c f).boot = s.boot := rfl

/-! `updHq`. -/

@[simp] theorem updHq_clk (s : State) (c : ClusterRef) (n : Nat) (f : HwQueue → HwQueue) : (updHq s c n f).clk = s.clk := rfl
@[simp] theorem updHq_mem (s : State) (c : ClusterRef) (n : Nat) (f : HwQueue → HwQueue) : (updHq s c n f).mem = s.mem := rfl
@[simp] theorem updHq_wbuf (s : State) (c : ClusterRef) (n : Nat) (f : HwQueue → HwQueue) : (updHq s c n f).wbuf = s.wbuf := rfl
@[simp] theorem updHq_cur (s : State) (c : ClusterRef) (n : Nat) (f : HwQueue → HwQueue) : (updHq s c n f).cur = s.cur := rfl
@[simp] theorem updHq_agenda (s : State) (c : ClusterRef) (n : Nat) (f : HwQueue → HwQueue) : (updHq s c n f).agenda = s.agenda := rfl
@[simp] theorem updHq_turn (s : State) (c : ClusterRef) (n : Nat) (f : HwQueue → HwQueue) : (updHq s c n f).turn = s.turn := rfl
@[simp] theorem updHq_drawn (s : State) (c : ClusterRef) (n : Nat) (f : HwQueue → HwQueue) : (updHq s c n f).drawn = s.drawn := rfl
@[simp] theorem updHq_teams (s : State) (c : ClusterRef) (n : Nat) (f : HwQueue → HwQueue) : (updHq s c n f).teams = s.teams := rfl
@[simp] theorem updHq_grids (s : State) (c : ClusterRef) (n : Nat) (f : HwQueue → HwQueue) : (updHq s c n f).grids = s.grids := rfl
@[simp] theorem updHq_parked (s : State) (c : ClusterRef) (n : Nat) (f : HwQueue → HwQueue) : (updHq s c n f).parked = s.parked := rfl
@[simp] theorem updHq_saves (s : State) (c : ClusterRef) (n : Nat) (f : HwQueue → HwQueue) : (updHq s c n f).saves = s.saves := rfl
@[simp] theorem updHq_nextGrid (s : State) (c : ClusterRef) (n : Nat) (f : HwQueue → HwQueue) : (updHq s c n f).nextGrid = s.nextGrid := rfl
@[simp] theorem updHq_coreRegs (s : State) (c : ClusterRef) (n : Nat) (f : HwQueue → HwQueue) : (updHq s c n f).coreRegs = s.coreRegs := rfl
@[simp] theorem updHq_l1 (s : State) (c : ClusterRef) (n : Nat) (f : HwQueue → HwQueue) : (updHq s c n f).l1 = s.l1 := rfl
@[simp] theorem updHq_guests (s : State) (c : ClusterRef) (n : Nat) (f : HwQueue → HwQueue) : (updHq s c n f).guests = s.guests := rfl
@[simp] theorem updHq_monitors (s : State) (c : ClusterRef) (n : Nat) (f : HwQueue → HwQueue) : (updHq s c n f).monitors = s.monitors := rfl
@[simp] theorem updHq_records (s : State) (c : ClusterRef) (n : Nat) (f : HwQueue → HwQueue) : (updHq s c n f).records = s.records := rfl
@[simp] theorem updHq_parts (s : State) (c : ClusterRef) (n : Nat) (f : HwQueue → HwQueue) : (updHq s c n f).parts = s.parts := rfl
@[simp] theorem updHq_queues (s : State) (c : ClusterRef) (n : Nat) (f : HwQueue → HwQueue) : (updHq s c n f).queues = s.queues := rfl
@[simp] theorem updHq_pkg (s : State) (c : ClusterRef) (n : Nat) (f : HwQueue → HwQueue) : (updHq s c n f).pkg = s.pkg := rfl
@[simp] theorem updHq_budgets (s : State) (c : ClusterRef) (n : Nat) (f : HwQueue → HwQueue) : (updHq s c n f).budgets = s.budgets := rfl
@[simp] theorem updHq_fabric (s : State) (c : ClusterRef) (n : Nat) (f : HwQueue → HwQueue) : (updHq s c n f).fabric = s.fabric := rfl
@[simp] theorem updHq_host (s : State) (c : ClusterRef) (n : Nat) (f : HwQueue → HwQueue) : (updHq s c n f).host = s.host := rfl
@[simp] theorem updHq_boot (s : State) (c : ClusterRef) (n : Nat) (f : HwQueue → HwQueue) : (updHq s c n f).boot = s.boot := rfl

/-! `updCoreRegs`. -/

@[simp] theorem updCoreRegs_clk (s : State) (c : Nat) (f : CoreRegs → CoreRegs) : (updCoreRegs s c f).clk = s.clk := rfl
@[simp] theorem updCoreRegs_mem (s : State) (c : Nat) (f : CoreRegs → CoreRegs) : (updCoreRegs s c f).mem = s.mem := rfl
@[simp] theorem updCoreRegs_wbuf (s : State) (c : Nat) (f : CoreRegs → CoreRegs) : (updCoreRegs s c f).wbuf = s.wbuf := rfl
@[simp] theorem updCoreRegs_cur (s : State) (c : Nat) (f : CoreRegs → CoreRegs) : (updCoreRegs s c f).cur = s.cur := rfl
@[simp] theorem updCoreRegs_agenda (s : State) (c : Nat) (f : CoreRegs → CoreRegs) : (updCoreRegs s c f).agenda = s.agenda := rfl
@[simp] theorem updCoreRegs_turn (s : State) (c : Nat) (f : CoreRegs → CoreRegs) : (updCoreRegs s c f).turn = s.turn := rfl
@[simp] theorem updCoreRegs_drawn (s : State) (c : Nat) (f : CoreRegs → CoreRegs) : (updCoreRegs s c f).drawn = s.drawn := rfl
@[simp] theorem updCoreRegs_teams (s : State) (c : Nat) (f : CoreRegs → CoreRegs) : (updCoreRegs s c f).teams = s.teams := rfl
@[simp] theorem updCoreRegs_grids (s : State) (c : Nat) (f : CoreRegs → CoreRegs) : (updCoreRegs s c f).grids = s.grids := rfl
@[simp] theorem updCoreRegs_parked (s : State) (c : Nat) (f : CoreRegs → CoreRegs) : (updCoreRegs s c f).parked = s.parked := rfl
@[simp] theorem updCoreRegs_saves (s : State) (c : Nat) (f : CoreRegs → CoreRegs) : (updCoreRegs s c f).saves = s.saves := rfl
@[simp] theorem updCoreRegs_nextGrid (s : State) (c : Nat) (f : CoreRegs → CoreRegs) : (updCoreRegs s c f).nextGrid = s.nextGrid := rfl
@[simp] theorem updCoreRegs_clusters (s : State) (c : Nat) (f : CoreRegs → CoreRegs) : (updCoreRegs s c f).clusters = s.clusters := rfl
@[simp] theorem updCoreRegs_l1 (s : State) (c : Nat) (f : CoreRegs → CoreRegs) : (updCoreRegs s c f).l1 = s.l1 := rfl
@[simp] theorem updCoreRegs_guests (s : State) (c : Nat) (f : CoreRegs → CoreRegs) : (updCoreRegs s c f).guests = s.guests := rfl
@[simp] theorem updCoreRegs_monitors (s : State) (c : Nat) (f : CoreRegs → CoreRegs) : (updCoreRegs s c f).monitors = s.monitors := rfl
@[simp] theorem updCoreRegs_records (s : State) (c : Nat) (f : CoreRegs → CoreRegs) : (updCoreRegs s c f).records = s.records := rfl
@[simp] theorem updCoreRegs_parts (s : State) (c : Nat) (f : CoreRegs → CoreRegs) : (updCoreRegs s c f).parts = s.parts := rfl
@[simp] theorem updCoreRegs_queues (s : State) (c : Nat) (f : CoreRegs → CoreRegs) : (updCoreRegs s c f).queues = s.queues := rfl
@[simp] theorem updCoreRegs_pkg (s : State) (c : Nat) (f : CoreRegs → CoreRegs) : (updCoreRegs s c f).pkg = s.pkg := rfl
@[simp] theorem updCoreRegs_budgets (s : State) (c : Nat) (f : CoreRegs → CoreRegs) : (updCoreRegs s c f).budgets = s.budgets := rfl
@[simp] theorem updCoreRegs_fabric (s : State) (c : Nat) (f : CoreRegs → CoreRegs) : (updCoreRegs s c f).fabric = s.fabric := rfl
@[simp] theorem updCoreRegs_host (s : State) (c : Nat) (f : CoreRegs → CoreRegs) : (updCoreRegs s c f).host = s.host := rfl
@[simp] theorem updCoreRegs_boot (s : State) (c : Nat) (f : CoreRegs → CoreRegs) : (updCoreRegs s c f).boot = s.boot := rfl

/-! `updHostLines`. -/

@[simp] theorem updHostLines_clk (s : State) (p : HostLine → Bool) (f : HostLine → HostLine) : (updHostLines s p f).clk = s.clk := rfl
@[simp] theorem updHostLines_mem (s : State) (p : HostLine → Bool) (f : HostLine → HostLine) : (updHostLines s p f).mem = s.mem := rfl
@[simp] theorem updHostLines_wbuf (s : State) (p : HostLine → Bool) (f : HostLine → HostLine) : (updHostLines s p f).wbuf = s.wbuf := rfl
@[simp] theorem updHostLines_cur (s : State) (p : HostLine → Bool) (f : HostLine → HostLine) : (updHostLines s p f).cur = s.cur := rfl
@[simp] theorem updHostLines_agenda (s : State) (p : HostLine → Bool) (f : HostLine → HostLine) : (updHostLines s p f).agenda = s.agenda := rfl
@[simp] theorem updHostLines_turn (s : State) (p : HostLine → Bool) (f : HostLine → HostLine) : (updHostLines s p f).turn = s.turn := rfl
@[simp] theorem updHostLines_drawn (s : State) (p : HostLine → Bool) (f : HostLine → HostLine) : (updHostLines s p f).drawn = s.drawn := rfl
@[simp] theorem updHostLines_teams (s : State) (p : HostLine → Bool) (f : HostLine → HostLine) : (updHostLines s p f).teams = s.teams := rfl
@[simp] theorem updHostLines_grids (s : State) (p : HostLine → Bool) (f : HostLine → HostLine) : (updHostLines s p f).grids = s.grids := rfl
@[simp] theorem updHostLines_parked (s : State) (p : HostLine → Bool) (f : HostLine → HostLine) : (updHostLines s p f).parked = s.parked := rfl
@[simp] theorem updHostLines_saves (s : State) (p : HostLine → Bool) (f : HostLine → HostLine) : (updHostLines s p f).saves = s.saves := rfl
@[simp] theorem updHostLines_nextGrid (s : State) (p : HostLine → Bool) (f : HostLine → HostLine) : (updHostLines s p f).nextGrid = s.nextGrid := rfl
@[simp] theorem updHostLines_clusters (s : State) (p : HostLine → Bool) (f : HostLine → HostLine) : (updHostLines s p f).clusters = s.clusters := rfl
@[simp] theorem updHostLines_coreRegs (s : State) (p : HostLine → Bool) (f : HostLine → HostLine) : (updHostLines s p f).coreRegs = s.coreRegs := rfl
@[simp] theorem updHostLines_l1 (s : State) (p : HostLine → Bool) (f : HostLine → HostLine) : (updHostLines s p f).l1 = s.l1 := rfl
@[simp] theorem updHostLines_guests (s : State) (p : HostLine → Bool) (f : HostLine → HostLine) : (updHostLines s p f).guests = s.guests := rfl
@[simp] theorem updHostLines_monitors (s : State) (p : HostLine → Bool) (f : HostLine → HostLine) : (updHostLines s p f).monitors = s.monitors := rfl
@[simp] theorem updHostLines_records (s : State) (p : HostLine → Bool) (f : HostLine → HostLine) : (updHostLines s p f).records = s.records := rfl
@[simp] theorem updHostLines_parts (s : State) (p : HostLine → Bool) (f : HostLine → HostLine) : (updHostLines s p f).parts = s.parts := rfl
@[simp] theorem updHostLines_queues (s : State) (p : HostLine → Bool) (f : HostLine → HostLine) : (updHostLines s p f).queues = s.queues := rfl
@[simp] theorem updHostLines_pkg (s : State) (p : HostLine → Bool) (f : HostLine → HostLine) : (updHostLines s p f).pkg = s.pkg := rfl
@[simp] theorem updHostLines_budgets (s : State) (p : HostLine → Bool) (f : HostLine → HostLine) : (updHostLines s p f).budgets = s.budgets := rfl
@[simp] theorem updHostLines_fabric (s : State) (p : HostLine → Bool) (f : HostLine → HostLine) : (updHostLines s p f).fabric = s.fabric := rfl
@[simp] theorem updHostLines_host (s : State) (p : HostLine → Bool) (f : HostLine → HostLine) : (updHostLines s p f).host = { s.host with lines := s.host.lines.map fun l => if p l then f l else l } := rfl
@[simp] theorem updHostLines_boot (s : State) (p : HostLine → Bool) (f : HostLine → HostLine) : (updHostLines s p f).boot = s.boot := rfl

/-! `charge`. -/

@[simp] theorem charge_clk (s : State) (k n : Nat) : (charge s k n).clk = s.clk := rfl
@[simp] theorem charge_mem (s : State) (k n : Nat) : (charge s k n).mem = s.mem := rfl
@[simp] theorem charge_wbuf (s : State) (k n : Nat) : (charge s k n).wbuf = s.wbuf := rfl
@[simp] theorem charge_cur (s : State) (k n : Nat) : (charge s k n).cur = s.cur := rfl
@[simp] theorem charge_agenda (s : State) (k n : Nat) : (charge s k n).agenda = s.agenda := rfl
@[simp] theorem charge_turn (s : State) (k n : Nat) : (charge s k n).turn = s.turn := rfl
@[simp] theorem charge_drawn (s : State) (k n : Nat) : (charge s k n).drawn = s.drawn := rfl
@[simp] theorem charge_teams (s : State) (k n : Nat) : (charge s k n).teams = s.teams := rfl
@[simp] theorem charge_grids (s : State) (k n : Nat) : (charge s k n).grids = s.grids := rfl
@[simp] theorem charge_parked (s : State) (k n : Nat) : (charge s k n).parked = s.parked := rfl
@[simp] theorem charge_saves (s : State) (k n : Nat) : (charge s k n).saves = s.saves := rfl
@[simp] theorem charge_nextGrid (s : State) (k n : Nat) : (charge s k n).nextGrid = s.nextGrid := rfl
@[simp] theorem charge_clusters (s : State) (k n : Nat) : (charge s k n).clusters = s.clusters := rfl
@[simp] theorem charge_coreRegs (s : State) (k n : Nat) : (charge s k n).coreRegs = s.coreRegs := rfl
@[simp] theorem charge_l1 (s : State) (k n : Nat) : (charge s k n).l1 = s.l1 := rfl
@[simp] theorem charge_guests (s : State) (k n : Nat) : (charge s k n).guests = s.guests := rfl
@[simp] theorem charge_monitors (s : State) (k n : Nat) : (charge s k n).monitors = s.monitors := rfl
@[simp] theorem charge_records (s : State) (k n : Nat) : (charge s k n).records = s.records := rfl
@[simp] theorem charge_parts (s : State) (k n : Nat) : (charge s k n).parts = s.parts := rfl
@[simp] theorem charge_queues (s : State) (k n : Nat) : (charge s k n).queues = s.queues := rfl
@[simp] theorem charge_pkg (s : State) (k n : Nat) : (charge s k n).pkg = s.pkg := rfl
@[simp] theorem charge_fabric (s : State) (k n : Nat) : (charge s k n).fabric = s.fabric := rfl
@[simp] theorem charge_host (s : State) (k n : Nat) : (charge s k n).host = s.host := rfl
@[simp] theorem charge_boot (s : State) (k n : Nat) : (charge s k n).boot = s.boot := rfl

/-! `raiseMsix`. -/

/-- Raising a vector changes what the host holds, and nothing else. -/
theorem raiseMsix_eq (s : State) (v : Nat) : ∃ h, raiseMsix s v = { s with host := h } := by
  unfold raiseMsix; dsimp only; split <;> exact ⟨_, rfl⟩

@[simp] theorem raiseMsix_clk (s : State) (v : Nat) : (raiseMsix s v).clk = s.clk := by
  obtain ⟨h, e⟩ := raiseMsix_eq s v; rw [e]
@[simp] theorem raiseMsix_mem (s : State) (v : Nat) : (raiseMsix s v).mem = s.mem := by
  obtain ⟨h, e⟩ := raiseMsix_eq s v; rw [e]
@[simp] theorem raiseMsix_wbuf (s : State) (v : Nat) : (raiseMsix s v).wbuf = s.wbuf := by
  obtain ⟨h, e⟩ := raiseMsix_eq s v; rw [e]
@[simp] theorem raiseMsix_cur (s : State) (v : Nat) : (raiseMsix s v).cur = s.cur := by
  obtain ⟨h, e⟩ := raiseMsix_eq s v; rw [e]
@[simp] theorem raiseMsix_agenda (s : State) (v : Nat) : (raiseMsix s v).agenda = s.agenda := by
  obtain ⟨h, e⟩ := raiseMsix_eq s v; rw [e]
@[simp] theorem raiseMsix_turn (s : State) (v : Nat) : (raiseMsix s v).turn = s.turn := by
  obtain ⟨h, e⟩ := raiseMsix_eq s v; rw [e]
@[simp] theorem raiseMsix_drawn (s : State) (v : Nat) : (raiseMsix s v).drawn = s.drawn := by
  obtain ⟨h, e⟩ := raiseMsix_eq s v; rw [e]
@[simp] theorem raiseMsix_teams (s : State) (v : Nat) : (raiseMsix s v).teams = s.teams := by
  obtain ⟨h, e⟩ := raiseMsix_eq s v; rw [e]
@[simp] theorem raiseMsix_grids (s : State) (v : Nat) : (raiseMsix s v).grids = s.grids := by
  obtain ⟨h, e⟩ := raiseMsix_eq s v; rw [e]
@[simp] theorem raiseMsix_parked (s : State) (v : Nat) : (raiseMsix s v).parked = s.parked := by
  obtain ⟨h, e⟩ := raiseMsix_eq s v; rw [e]
@[simp] theorem raiseMsix_saves (s : State) (v : Nat) : (raiseMsix s v).saves = s.saves := by
  obtain ⟨h, e⟩ := raiseMsix_eq s v; rw [e]
@[simp] theorem raiseMsix_nextGrid (s : State) (v : Nat) : (raiseMsix s v).nextGrid = s.nextGrid := by
  obtain ⟨h, e⟩ := raiseMsix_eq s v; rw [e]
@[simp] theorem raiseMsix_clusters (s : State) (v : Nat) : (raiseMsix s v).clusters = s.clusters := by
  obtain ⟨h, e⟩ := raiseMsix_eq s v; rw [e]
@[simp] theorem raiseMsix_coreRegs (s : State) (v : Nat) : (raiseMsix s v).coreRegs = s.coreRegs := by
  obtain ⟨h, e⟩ := raiseMsix_eq s v; rw [e]
@[simp] theorem raiseMsix_l1 (s : State) (v : Nat) : (raiseMsix s v).l1 = s.l1 := by
  obtain ⟨h, e⟩ := raiseMsix_eq s v; rw [e]
@[simp] theorem raiseMsix_guests (s : State) (v : Nat) : (raiseMsix s v).guests = s.guests := by
  obtain ⟨h, e⟩ := raiseMsix_eq s v; rw [e]
@[simp] theorem raiseMsix_monitors (s : State) (v : Nat) : (raiseMsix s v).monitors = s.monitors := by
  obtain ⟨h, e⟩ := raiseMsix_eq s v; rw [e]
@[simp] theorem raiseMsix_records (s : State) (v : Nat) : (raiseMsix s v).records = s.records := by
  obtain ⟨h, e⟩ := raiseMsix_eq s v; rw [e]
@[simp] theorem raiseMsix_parts (s : State) (v : Nat) : (raiseMsix s v).parts = s.parts := by
  obtain ⟨h, e⟩ := raiseMsix_eq s v; rw [e]
@[simp] theorem raiseMsix_queues (s : State) (v : Nat) : (raiseMsix s v).queues = s.queues := by
  obtain ⟨h, e⟩ := raiseMsix_eq s v; rw [e]
@[simp] theorem raiseMsix_pkg (s : State) (v : Nat) : (raiseMsix s v).pkg = s.pkg := by
  obtain ⟨h, e⟩ := raiseMsix_eq s v; rw [e]
@[simp] theorem raiseMsix_budgets (s : State) (v : Nat) : (raiseMsix s v).budgets = s.budgets := by
  obtain ⟨h, e⟩ := raiseMsix_eq s v; rw [e]
@[simp] theorem raiseMsix_fabric (s : State) (v : Nat) : (raiseMsix s v).fabric = s.fabric := by
  obtain ⟨h, e⟩ := raiseMsix_eq s v; rw [e]
theorem raiseMsix_host (s : State) (v : Nat) : (raiseMsix s v).host =
    if s.host.msix.on && !s.host.msix.fmask && !(s.host.msix.masked.contains v) then { s.host with log := s.host.log ++ [.msix v] }
    else { s.host with msix := { s.host.msix with
      pending := if s.host.msix.pending.contains v then s.host.msix.pending else s.host.msix.pending ++ [v] } } := by
  unfold raiseMsix; dsimp only; split <;> rfl
@[simp] theorem raiseMsix_boot (s : State) (v : Nat) : (raiseMsix s v).boot = s.boot := by
  obtain ⟨h, e⟩ := raiseMsix_eq s v; rw [e]

/-! `atSlot`. -/

@[simp] theorem atSlot_clk (s : State) (r : GroupRef) (pc : DWord) (b : Bool) : (atSlot s r pc b).clk = s.clk := rfl
@[simp] theorem atSlot_mem (s : State) (r : GroupRef) (pc : DWord) (b : Bool) : (atSlot s r pc b).mem = s.mem := rfl
@[simp] theorem atSlot_wbuf (s : State) (r : GroupRef) (pc : DWord) (b : Bool) : (atSlot s r pc b).wbuf = s.wbuf := rfl
@[simp] theorem atSlot_cur (s : State) (r : GroupRef) (pc : DWord) (b : Bool) : (atSlot s r pc b).cur = some ⟨r, pc, b⟩ := rfl
@[simp] theorem atSlot_agenda (s : State) (r : GroupRef) (pc : DWord) (b : Bool) : (atSlot s r pc b).agenda = s.agenda := rfl
@[simp] theorem atSlot_turn (s : State) (r : GroupRef) (pc : DWord) (b : Bool) : (atSlot s r pc b).turn = s.turn := rfl
@[simp] theorem atSlot_drawn (s : State) (r : GroupRef) (pc : DWord) (b : Bool) : (atSlot s r pc b).drawn = s.drawn := rfl
@[simp] theorem atSlot_teams (s : State) (r : GroupRef) (pc : DWord) (b : Bool) : (atSlot s r pc b).teams = s.teams := rfl
@[simp] theorem atSlot_grids (s : State) (r : GroupRef) (pc : DWord) (b : Bool) : (atSlot s r pc b).grids = s.grids := rfl
@[simp] theorem atSlot_parked (s : State) (r : GroupRef) (pc : DWord) (b : Bool) : (atSlot s r pc b).parked = s.parked := rfl
@[simp] theorem atSlot_saves (s : State) (r : GroupRef) (pc : DWord) (b : Bool) : (atSlot s r pc b).saves = s.saves := rfl
@[simp] theorem atSlot_nextGrid (s : State) (r : GroupRef) (pc : DWord) (b : Bool) : (atSlot s r pc b).nextGrid = s.nextGrid := rfl
@[simp] theorem atSlot_clusters (s : State) (r : GroupRef) (pc : DWord) (b : Bool) : (atSlot s r pc b).clusters = s.clusters := rfl
@[simp] theorem atSlot_coreRegs (s : State) (r : GroupRef) (pc : DWord) (b : Bool) : (atSlot s r pc b).coreRegs = s.coreRegs := rfl
@[simp] theorem atSlot_l1 (s : State) (r : GroupRef) (pc : DWord) (b : Bool) : (atSlot s r pc b).l1 = s.l1 := rfl
@[simp] theorem atSlot_guests (s : State) (r : GroupRef) (pc : DWord) (b : Bool) : (atSlot s r pc b).guests = s.guests := rfl
@[simp] theorem atSlot_monitors (s : State) (r : GroupRef) (pc : DWord) (b : Bool) : (atSlot s r pc b).monitors = s.monitors := rfl
@[simp] theorem atSlot_records (s : State) (r : GroupRef) (pc : DWord) (b : Bool) : (atSlot s r pc b).records = s.records := rfl
@[simp] theorem atSlot_parts (s : State) (r : GroupRef) (pc : DWord) (b : Bool) : (atSlot s r pc b).parts = s.parts := rfl
@[simp] theorem atSlot_queues (s : State) (r : GroupRef) (pc : DWord) (b : Bool) : (atSlot s r pc b).queues = s.queues := rfl
@[simp] theorem atSlot_pkg (s : State) (r : GroupRef) (pc : DWord) (b : Bool) : (atSlot s r pc b).pkg = s.pkg := rfl
@[simp] theorem atSlot_budgets (s : State) (r : GroupRef) (pc : DWord) (b : Bool) : (atSlot s r pc b).budgets = s.budgets := rfl
@[simp] theorem atSlot_fabric (s : State) (r : GroupRef) (pc : DWord) (b : Bool) : (atSlot s r pc b).fabric = s.fabric := rfl
@[simp] theorem atSlot_host (s : State) (r : GroupRef) (pc : DWord) (b : Bool) : (atSlot s r pc b).host = s.host := rfl
@[simp] theorem atSlot_boot (s : State) (r : GroupRef) (pc : DWord) (b : Bool) : (atSlot s r pc b).boot = s.boot := rfl

/-! `countIssue`. -/

@[simp] theorem countIssue_clk (s : State) (r : GroupRef) : (countIssue s r).clk = s.clk := rfl
@[simp] theorem countIssue_mem (s : State) (r : GroupRef) : (countIssue s r).mem = s.mem := rfl
@[simp] theorem countIssue_wbuf (s : State) (r : GroupRef) : (countIssue s r).wbuf = s.wbuf := rfl
@[simp] theorem countIssue_cur (s : State) (r : GroupRef) : (countIssue s r).cur = s.cur := rfl
@[simp] theorem countIssue_agenda (s : State) (r : GroupRef) : (countIssue s r).agenda = s.agenda := rfl
@[simp] theorem countIssue_turn (s : State) (r : GroupRef) : (countIssue s r).turn = s.turn := rfl
@[simp] theorem countIssue_drawn (s : State) (r : GroupRef) : (countIssue s r).drawn = s.drawn := rfl
@[simp] theorem countIssue_grids (s : State) (r : GroupRef) : (countIssue s r).grids = s.grids := rfl
@[simp] theorem countIssue_parked (s : State) (r : GroupRef) : (countIssue s r).parked = s.parked := rfl
@[simp] theorem countIssue_saves (s : State) (r : GroupRef) : (countIssue s r).saves = s.saves := rfl
@[simp] theorem countIssue_nextGrid (s : State) (r : GroupRef) : (countIssue s r).nextGrid = s.nextGrid := rfl
@[simp] theorem countIssue_clusters (s : State) (r : GroupRef) : (countIssue s r).clusters = s.clusters := rfl
@[simp] theorem countIssue_coreRegs (s : State) (r : GroupRef) : (countIssue s r).coreRegs = s.coreRegs := rfl
@[simp] theorem countIssue_l1 (s : State) (r : GroupRef) : (countIssue s r).l1 = s.l1 := rfl
@[simp] theorem countIssue_guests (s : State) (r : GroupRef) : (countIssue s r).guests = s.guests := rfl
@[simp] theorem countIssue_monitors (s : State) (r : GroupRef) : (countIssue s r).monitors = s.monitors := rfl
@[simp] theorem countIssue_records (s : State) (r : GroupRef) : (countIssue s r).records = s.records := rfl
@[simp] theorem countIssue_parts (s : State) (r : GroupRef) : (countIssue s r).parts = s.parts := rfl
@[simp] theorem countIssue_queues (s : State) (r : GroupRef) : (countIssue s r).queues = s.queues := rfl
@[simp] theorem countIssue_pkg (s : State) (r : GroupRef) : (countIssue s r).pkg = s.pkg := rfl
@[simp] theorem countIssue_budgets (s : State) (r : GroupRef) : (countIssue s r).budgets = s.budgets := rfl
@[simp] theorem countIssue_fabric (s : State) (r : GroupRef) : (countIssue s r).fabric = s.fabric := rfl
@[simp] theorem countIssue_host (s : State) (r : GroupRef) : (countIssue s r).host = s.host := rfl
@[simp] theorem countIssue_boot (s : State) (r : GroupRef) : (countIssue s r).boot = s.boot := rfl

/-! `commit`: memory takes the writes of the step, and the clk and the cursor are put back. -/

@[simp] theorem commit_mem (s0 s : State) : (commit s0 s).mem = Memory.writes s0.mem (wakeMonitors s).wbuf := rfl
@[simp] theorem commit_teams (s0 s : State) : (commit s0 s).teams = (wakeMonitors s).teams.map settleCurrent := rfl
@[simp] theorem settleCurrent_ref (t : Team) : (settleCurrent t).ref = t.ref := rfl
@[simp] theorem settleCurrent_groups (t : Team) : (settleCurrent t).groups = t.groups := rfl
@[simp] theorem settleCurrent_regs (t : Team) : (settleCurrent t).regs = t.regs := rfl
@[simp] theorem settleCurrent_banks (t : Team) : (settleCurrent t).banks = t.banks := rfl
@[simp] theorem settleCurrent_acc (t : Team) : (settleCurrent t).acc = t.acc := rfl
@[simp] theorem settleCurrent_eops (t : Team) : (settleCurrent t).eops = t.eops := rfl
@[simp] theorem settleCurrent_stream (t : Team) : (settleCurrent t).stream = t.stream := rfl
@[simp] theorem settleCurrent_tk (t : Team) : (settleCurrent t).tk = t.tk := rfl
@[simp] theorem settleCurrent_part (t : Team) : (settleCurrent t).part = t.part := rfl
@[simp] theorem settleCurrent_core (t : Team) : (settleCurrent t).core = t.core := rfl
@[simp] theorem settleCurrent_slot (t : Team) : (settleCurrent t).slot = t.slot := rfl
@[simp] theorem settleCurrent_accN (t : Team) : (settleCurrent t).accN = t.accN := rfl
@[simp] theorem settleCurrent_lastFlag (t : Team) : (settleCurrent t).lastFlag = t.lastFlag := rfl
@[simp] theorem settleCurrent_pruned (t : Team) : (settleCurrent t).pruned = t.pruned := rfl
@[simp] theorem settleCurrent_cancelled (t : Team) : (settleCurrent t).cancelled = t.cancelled := rfl
@[simp] theorem teamAt_commit (s0 s : State) (r : TeamRef) : teamAt (commit s0 s) r = (teamAt (wakeMonitors s) r).map settleCurrent := by
  simp only [teamAt, commit_teams, List.find?_map]
  rfl
@[simp] theorem commit_wbuf (s0 s : State) : (commit s0 s).wbuf = [] := rfl
@[simp] theorem commit_cur (s0 s : State) : (commit s0 s).cur = none := rfl
@[simp] theorem commit_clk (s0 s : State) : (commit s0 s).clk = s0.clk := rfl

/-! `setReg`. -/

@[simp] theorem setReg_status (g : Group) (n : Nat) (r : VReg) : (setReg g n r).status = g.status := by unfold setReg; rfl
@[simp] theorem setReg_threads (g : Group) (n : Nat) (r : VReg) : (setReg g n r).threads = g.threads := by unfold setReg; rfl
@[simp] theorem setReg_regs (g : Group) (n : Nat) (r : VReg) : (setReg g n r).regs = g.regs.set n r := by unfold setReg; rfl
@[simp] theorem setReg_cuffs (g : Group) (n : Nat) (r : VReg) : (setReg g n r).cuffs = g.cuffs := by unfold setReg; rfl
@[simp] theorem setReg_lx (g : Group) (n : Nat) (r : VReg) : (setReg g n r).lx = g.lx := by unfold setReg; rfl
@[simp] theorem setReg_ly (g : Group) (n : Nat) (r : VReg) : (setReg g n r).ly = g.ly := by unfold setReg; rfl
@[simp] theorem setReg_lfsr (g : Group) (n : Nat) (r : VReg) : (setReg g n r).lfsr = g.lfsr := by unfold setReg; rfl
@[simp] theorem setReg_fpstat (g : Group) (n : Nat) (r : VReg) : (setReg g n r).fpstat = g.fpstat := by unfold setReg; rfl
@[simp] theorem setReg_gpc (g : Group) (n : Nat) (r : VReg) : (setReg g n r).gpc = g.gpc := by unfold setReg; rfl
@[simp] theorem setReg_sel (g : Group) (n : Nat) (r : VReg) : (setReg g n r).sel = g.sel := by unfold setReg; rfl
@[simp] theorem setReg_chosen (g : Group) (n : Nat) (r : VReg) : (setReg g n r).chosen = g.chosen := by unfold setReg; rfl
@[simp] theorem setReg_ser (g : Group) (n : Nat) (r : VReg) : (setReg g n r).ser = g.ser := by unfold setReg; rfl
@[simp] theorem setReg_loopqs (g : Group) (n : Nat) (r : VReg) : (setReg g n r).loopqs = g.loopqs := by unfold setReg; rfl
@[simp] theorem setReg_role (g : Group) (n : Nat) (r : VReg) : (setReg g n r).role = g.role := by unfold setReg; rfl
@[simp] theorem setReg_queue (g : Group) (n : Nat) (r : VReg) : (setReg g n r).queue = g.queue := by unfold setReg; rfl
@[simp] theorem setReg_pending (g : Group) (n : Nat) (r : VReg) : (setReg g n r).pending = g.pending := by unfold setReg; rfl
@[simp] theorem setReg_cause (g : Group) (n : Nat) (r : VReg) : (setReg g n r).cause = g.cause := by unfold setReg; rfl
@[simp] theorem setReg_saved (g : Group) (n : Nat) (r : VReg) : (setReg g n r).saved = g.saved := by unfold setReg; rfl
@[simp] theorem setReg_joins (g : Group) (n : Nat) (r : VReg) : (setReg g n r).joins = g.joins := by unfold setReg; rfl
@[simp] theorem setReg_side (g : Group) (n : Nat) (r : VReg) : (setReg g n r).side = g.side := by unfold setReg; rfl
@[simp] theorem setReg_issues (g : Group) (n : Nat) (r : VReg) : (setReg g n r).issues = g.issues := by unfold setReg; rfl
@[simp] theorem setReg_yielded (g : Group) (n : Nat) (r : VReg) : (setReg g n r).yielded = g.yielded := by unfold setReg; rfl
@[simp] theorem setReg_tok (g : Group) (n : Nat) (r : VReg) : (setReg g n r).tok = g.tok := by unfold setReg; rfl
@[simp] theorem setReg_gslot (g : Group) (n : Nat) (r : VReg) : (setReg g n r).gslot = g.gslot := by unfold setReg; rfl
@[simp] theorem setReg_watch (g : Group) (n : Nat) (r : VReg) : (setReg g n r).watch = g.watch := by unfold setReg; rfl
@[simp] theorem setReg_outRel (g : Group) (n : Nat) (r : VReg) : (setReg g n r).outRel = g.outRel := by unfold setReg; rfl
@[simp] theorem setReg_copyCancelled (g : Group) (n : Nat) (r : VReg) : (setReg g n r).copyCancelled = g.copyCancelled := by unfold setReg; rfl
@[simp] theorem setReg_copyRange (g : Group) (n : Nat) (r : VReg) : (setReg g n r).copyRange = g.copyRange := by unfold setReg; rfl
@[simp] theorem setReg_barts (g : Group) (n : Nat) (r : VReg) : (setReg g n r).barts = g.barts := by unfold setReg; rfl
@[simp] theorem setReg_csrw (g : Group) (n : Nat) (r : VReg) : (setReg g n r).csrw = g.csrw := by unfold setReg; rfl
@[simp] theorem setReg_lines (g : Group) (n : Nat) (r : VReg) : (setReg g n r).lines = g.lines := by unfold setReg; rfl

/-! `updThreads`. -/

@[simp] theorem updThreads_status (g : Group) (m : BitVec 32) (f : Nat → Thread → Thread) : (updThreads g m f).status = g.status := by unfold updThreads; rfl
@[simp] theorem updThreads_threads (g : Group) (m : BitVec 32) (f : Nat → Thread → Thread) : (updThreads g m f).threads = Lanes.mk fun l => if m.getLsbD l then f l (threadAt g l) else threadAt g l := by unfold updThreads; rfl
@[simp] theorem updThreads_regs (g : Group) (m : BitVec 32) (f : Nat → Thread → Thread) : (updThreads g m f).regs = g.regs := by unfold updThreads; rfl
@[simp] theorem updThreads_cuffs (g : Group) (m : BitVec 32) (f : Nat → Thread → Thread) : (updThreads g m f).cuffs = g.cuffs := by unfold updThreads; rfl
@[simp] theorem updThreads_lx (g : Group) (m : BitVec 32) (f : Nat → Thread → Thread) : (updThreads g m f).lx = g.lx := by unfold updThreads; rfl
@[simp] theorem updThreads_ly (g : Group) (m : BitVec 32) (f : Nat → Thread → Thread) : (updThreads g m f).ly = g.ly := by unfold updThreads; rfl
@[simp] theorem updThreads_lfsr (g : Group) (m : BitVec 32) (f : Nat → Thread → Thread) : (updThreads g m f).lfsr = g.lfsr := by unfold updThreads; rfl
@[simp] theorem updThreads_fpstat (g : Group) (m : BitVec 32) (f : Nat → Thread → Thread) : (updThreads g m f).fpstat = g.fpstat := by unfold updThreads; rfl
@[simp] theorem updThreads_gpc (g : Group) (m : BitVec 32) (f : Nat → Thread → Thread) : (updThreads g m f).gpc = g.gpc := by unfold updThreads; rfl
@[simp] theorem updThreads_sel (g : Group) (m : BitVec 32) (f : Nat → Thread → Thread) : (updThreads g m f).sel = g.sel := by unfold updThreads; rfl
@[simp] theorem updThreads_chosen (g : Group) (m : BitVec 32) (f : Nat → Thread → Thread) : (updThreads g m f).chosen = g.chosen := by unfold updThreads; rfl
@[simp] theorem updThreads_ser (g : Group) (m : BitVec 32) (f : Nat → Thread → Thread) : (updThreads g m f).ser = g.ser := by unfold updThreads; rfl
@[simp] theorem updThreads_loopqs (g : Group) (m : BitVec 32) (f : Nat → Thread → Thread) : (updThreads g m f).loopqs = g.loopqs := by unfold updThreads; rfl
@[simp] theorem updThreads_role (g : Group) (m : BitVec 32) (f : Nat → Thread → Thread) : (updThreads g m f).role = g.role := by unfold updThreads; rfl
@[simp] theorem updThreads_queue (g : Group) (m : BitVec 32) (f : Nat → Thread → Thread) : (updThreads g m f).queue = g.queue := by unfold updThreads; rfl
@[simp] theorem updThreads_pending (g : Group) (m : BitVec 32) (f : Nat → Thread → Thread) : (updThreads g m f).pending = g.pending := by unfold updThreads; rfl
@[simp] theorem updThreads_cause (g : Group) (m : BitVec 32) (f : Nat → Thread → Thread) : (updThreads g m f).cause = g.cause := by unfold updThreads; rfl
@[simp] theorem updThreads_saved (g : Group) (m : BitVec 32) (f : Nat → Thread → Thread) : (updThreads g m f).saved = g.saved := by unfold updThreads; rfl
@[simp] theorem updThreads_joins (g : Group) (m : BitVec 32) (f : Nat → Thread → Thread) : (updThreads g m f).joins = g.joins := by unfold updThreads; rfl
@[simp] theorem updThreads_side (g : Group) (m : BitVec 32) (f : Nat → Thread → Thread) : (updThreads g m f).side = g.side := by unfold updThreads; rfl
@[simp] theorem updThreads_issues (g : Group) (m : BitVec 32) (f : Nat → Thread → Thread) : (updThreads g m f).issues = g.issues := by unfold updThreads; rfl
@[simp] theorem updThreads_yielded (g : Group) (m : BitVec 32) (f : Nat → Thread → Thread) : (updThreads g m f).yielded = g.yielded := by unfold updThreads; rfl
@[simp] theorem updThreads_tok (g : Group) (m : BitVec 32) (f : Nat → Thread → Thread) : (updThreads g m f).tok = g.tok := by unfold updThreads; rfl
@[simp] theorem updThreads_gslot (g : Group) (m : BitVec 32) (f : Nat → Thread → Thread) : (updThreads g m f).gslot = g.gslot := by unfold updThreads; rfl
@[simp] theorem updThreads_watch (g : Group) (m : BitVec 32) (f : Nat → Thread → Thread) : (updThreads g m f).watch = g.watch := by unfold updThreads; rfl
@[simp] theorem updThreads_outRel (g : Group) (m : BitVec 32) (f : Nat → Thread → Thread) : (updThreads g m f).outRel = g.outRel := by unfold updThreads; rfl
@[simp] theorem updThreads_copyCancelled (g : Group) (m : BitVec 32) (f : Nat → Thread → Thread) : (updThreads g m f).copyCancelled = g.copyCancelled := by unfold updThreads; rfl
@[simp] theorem updThreads_copyRange (g : Group) (m : BitVec 32) (f : Nat → Thread → Thread) : (updThreads g m f).copyRange = g.copyRange := by unfold updThreads; rfl
@[simp] theorem updThreads_barts (g : Group) (m : BitVec 32) (f : Nat → Thread → Thread) : (updThreads g m f).barts = g.barts := by unfold updThreads; rfl
@[simp] theorem updThreads_csrw (g : Group) (m : BitVec 32) (f : Nat → Thread → Thread) : (updThreads g m f).csrw = g.csrw := by unfold updThreads; rfl
@[simp] theorem updThreads_lines (g : Group) (m : BitVec 32) (f : Nat → Thread → Thread) : (updThreads g m f).lines = g.lines := by unfold updThreads; rfl

/-! `orFlags`. -/

@[simp] theorem orFlags_status (g : Group) (f : Flags) : (orFlags g f).status = g.status := by unfold orFlags; rfl
@[simp] theorem orFlags_threads (g : Group) (f : Flags) : (orFlags g f).threads = g.threads := by unfold orFlags; rfl
@[simp] theorem orFlags_regs (g : Group) (f : Flags) : (orFlags g f).regs = g.regs := by unfold orFlags; rfl
@[simp] theorem orFlags_cuffs (g : Group) (f : Flags) : (orFlags g f).cuffs = g.cuffs := by unfold orFlags; rfl
@[simp] theorem orFlags_lx (g : Group) (f : Flags) : (orFlags g f).lx = g.lx := by unfold orFlags; rfl
@[simp] theorem orFlags_ly (g : Group) (f : Flags) : (orFlags g f).ly = g.ly := by unfold orFlags; rfl
@[simp] theorem orFlags_lfsr (g : Group) (f : Flags) : (orFlags g f).lfsr = g.lfsr := by unfold orFlags; rfl
@[simp] theorem orFlags_fpstat (g : Group) (f : Flags) : (orFlags g f).fpstat = g.fpstat ||| f := by unfold orFlags; rfl
@[simp] theorem orFlags_gpc (g : Group) (f : Flags) : (orFlags g f).gpc = g.gpc := by unfold orFlags; rfl
@[simp] theorem orFlags_sel (g : Group) (f : Flags) : (orFlags g f).sel = g.sel := by unfold orFlags; rfl
@[simp] theorem orFlags_chosen (g : Group) (f : Flags) : (orFlags g f).chosen = g.chosen := by unfold orFlags; rfl
@[simp] theorem orFlags_ser (g : Group) (f : Flags) : (orFlags g f).ser = g.ser := by unfold orFlags; rfl
@[simp] theorem orFlags_loopqs (g : Group) (f : Flags) : (orFlags g f).loopqs = g.loopqs := by unfold orFlags; rfl
@[simp] theorem orFlags_role (g : Group) (f : Flags) : (orFlags g f).role = g.role := by unfold orFlags; rfl
@[simp] theorem orFlags_queue (g : Group) (f : Flags) : (orFlags g f).queue = g.queue := by unfold orFlags; rfl
@[simp] theorem orFlags_pending (g : Group) (f : Flags) : (orFlags g f).pending = g.pending := by unfold orFlags; rfl
@[simp] theorem orFlags_cause (g : Group) (f : Flags) : (orFlags g f).cause = g.cause := by unfold orFlags; rfl
@[simp] theorem orFlags_saved (g : Group) (f : Flags) : (orFlags g f).saved = g.saved := by unfold orFlags; rfl
@[simp] theorem orFlags_joins (g : Group) (f : Flags) : (orFlags g f).joins = g.joins := by unfold orFlags; rfl
@[simp] theorem orFlags_side (g : Group) (f : Flags) : (orFlags g f).side = g.side := by unfold orFlags; rfl
@[simp] theorem orFlags_issues (g : Group) (f : Flags) : (orFlags g f).issues = g.issues := by unfold orFlags; rfl
@[simp] theorem orFlags_yielded (g : Group) (f : Flags) : (orFlags g f).yielded = g.yielded := by unfold orFlags; rfl
@[simp] theorem orFlags_tok (g : Group) (f : Flags) : (orFlags g f).tok = g.tok := by unfold orFlags; rfl
@[simp] theorem orFlags_gslot (g : Group) (f : Flags) : (orFlags g f).gslot = g.gslot := by unfold orFlags; rfl
@[simp] theorem orFlags_watch (g : Group) (f : Flags) : (orFlags g f).watch = g.watch := by unfold orFlags; rfl
@[simp] theorem orFlags_outRel (g : Group) (f : Flags) : (orFlags g f).outRel = g.outRel := by unfold orFlags; rfl
@[simp] theorem orFlags_copyCancelled (g : Group) (f : Flags) : (orFlags g f).copyCancelled = g.copyCancelled := by unfold orFlags; rfl
@[simp] theorem orFlags_copyRange (g : Group) (f : Flags) : (orFlags g f).copyRange = g.copyRange := by unfold orFlags; rfl
@[simp] theorem orFlags_barts (g : Group) (f : Flags) : (orFlags g f).barts = g.barts := by unfold orFlags; rfl
@[simp] theorem orFlags_csrw (g : Group) (f : Flags) : (orFlags g f).csrw = g.csrw := by unfold orFlags; rfl
@[simp] theorem orFlags_lines (g : Group) (f : Flags) : (orFlags g f).lines = g.lines := by unfold orFlags; rfl

/-! `dropOperands`. -/

@[simp] theorem dropOperands_status (g : Group) : (dropOperands g).status = g.status := by unfold dropOperands; rfl
@[simp] theorem dropOperands_threads (g : Group) : (dropOperands g).threads = g.threads := by unfold dropOperands; rfl
@[simp] theorem dropOperands_regs (g : Group) : (dropOperands g).regs = g.regs := by unfold dropOperands; rfl
@[simp] theorem dropOperands_cuffs (g : Group) : (dropOperands g).cuffs = g.cuffs.map fun c => { c with valid := false, tag := none, await := none } := by unfold dropOperands; rfl
@[simp] theorem dropOperands_lx (g : Group) : (dropOperands g).lx = { g.lx with valid := false, await := none } := by unfold dropOperands; rfl
@[simp] theorem dropOperands_ly (g : Group) : (dropOperands g).ly = { g.ly with valid := false, await := none } := by unfold dropOperands; rfl
@[simp] theorem dropOperands_lfsr (g : Group) : (dropOperands g).lfsr = g.lfsr := by unfold dropOperands; rfl
@[simp] theorem dropOperands_fpstat (g : Group) : (dropOperands g).fpstat = g.fpstat := by unfold dropOperands; rfl
@[simp] theorem dropOperands_gpc (g : Group) : (dropOperands g).gpc = g.gpc := by unfold dropOperands; rfl
@[simp] theorem dropOperands_sel (g : Group) : (dropOperands g).sel = g.sel := by unfold dropOperands; rfl
@[simp] theorem dropOperands_chosen (g : Group) : (dropOperands g).chosen = g.chosen := by unfold dropOperands; rfl
@[simp] theorem dropOperands_ser (g : Group) : (dropOperands g).ser = g.ser := by unfold dropOperands; rfl
@[simp] theorem dropOperands_loopqs (g : Group) : (dropOperands g).loopqs = g.loopqs := by unfold dropOperands; rfl
@[simp] theorem dropOperands_role (g : Group) : (dropOperands g).role = g.role := by unfold dropOperands; rfl
@[simp] theorem dropOperands_queue (g : Group) : (dropOperands g).queue = g.queue := by unfold dropOperands; rfl
@[simp] theorem dropOperands_pending (g : Group) : (dropOperands g).pending = g.pending := by unfold dropOperands; rfl
@[simp] theorem dropOperands_cause (g : Group) : (dropOperands g).cause = g.cause := by unfold dropOperands; rfl
@[simp] theorem dropOperands_saved (g : Group) : (dropOperands g).saved = g.saved := by unfold dropOperands; rfl
@[simp] theorem dropOperands_joins (g : Group) : (dropOperands g).joins = g.joins := by unfold dropOperands; rfl
@[simp] theorem dropOperands_side (g : Group) : (dropOperands g).side = g.side := by unfold dropOperands; rfl
@[simp] theorem dropOperands_issues (g : Group) : (dropOperands g).issues = g.issues := by unfold dropOperands; rfl
@[simp] theorem dropOperands_yielded (g : Group) : (dropOperands g).yielded = g.yielded := by unfold dropOperands; rfl
@[simp] theorem dropOperands_tok (g : Group) : (dropOperands g).tok = g.tok := by unfold dropOperands; rfl
@[simp] theorem dropOperands_gslot (g : Group) : (dropOperands g).gslot = g.gslot := by unfold dropOperands; rfl
@[simp] theorem dropOperands_watch (g : Group) : (dropOperands g).watch = g.watch := by unfold dropOperands; rfl
@[simp] theorem dropOperands_outRel (g : Group) : (dropOperands g).outRel = g.outRel := by unfold dropOperands; rfl
@[simp] theorem dropOperands_copyCancelled (g : Group) : (dropOperands g).copyCancelled = g.copyCancelled := by unfold dropOperands; rfl
@[simp] theorem dropOperands_copyRange (g : Group) : (dropOperands g).copyRange = g.copyRange := by unfold dropOperands; rfl
@[simp] theorem dropOperands_barts (g : Group) : (dropOperands g).barts = g.barts := by unfold dropOperands; rfl
@[simp] theorem dropOperands_csrw (g : Group) : (dropOperands g).csrw = g.csrw := by unfold dropOperands; rfl
@[simp] theorem dropOperands_lines (g : Group) : (dropOperands g).lines = g.lines := by unfold dropOperands; rfl

/-! `untag`. -/

@[simp] theorem untag_status (g : Group) (n : Nat) (k : Bool) : (untag g n k).status = g.status := by unfold untag; rfl
@[simp] theorem untag_threads (g : Group) (n : Nat) (k : Bool) : (untag g n k).threads = g.threads := by unfold untag; rfl
@[simp] theorem untag_regs (g : Group) (n : Nat) (k : Bool) : (untag g n k).regs = g.regs := by unfold untag; rfl
@[simp] theorem untag_lx (g : Group) (n : Nat) (k : Bool) : (untag g n k).lx = g.lx := by unfold untag; rfl
@[simp] theorem untag_ly (g : Group) (n : Nat) (k : Bool) : (untag g n k).ly = g.ly := by unfold untag; rfl
@[simp] theorem untag_lfsr (g : Group) (n : Nat) (k : Bool) : (untag g n k).lfsr = g.lfsr := by unfold untag; rfl
@[simp] theorem untag_fpstat (g : Group) (n : Nat) (k : Bool) : (untag g n k).fpstat = g.fpstat := by unfold untag; rfl
@[simp] theorem untag_gpc (g : Group) (n : Nat) (k : Bool) : (untag g n k).gpc = g.gpc := by unfold untag; rfl
@[simp] theorem untag_sel (g : Group) (n : Nat) (k : Bool) : (untag g n k).sel = g.sel := by unfold untag; rfl
@[simp] theorem untag_chosen (g : Group) (n : Nat) (k : Bool) : (untag g n k).chosen = g.chosen := by unfold untag; rfl
@[simp] theorem untag_ser (g : Group) (n : Nat) (k : Bool) : (untag g n k).ser = g.ser := by unfold untag; rfl
@[simp] theorem untag_loopqs (g : Group) (n : Nat) (k : Bool) : (untag g n k).loopqs = g.loopqs := by unfold untag; rfl
@[simp] theorem untag_role (g : Group) (n : Nat) (k : Bool) : (untag g n k).role = g.role := by unfold untag; rfl
@[simp] theorem untag_queue (g : Group) (n : Nat) (k : Bool) : (untag g n k).queue = g.queue := by unfold untag; rfl
@[simp] theorem untag_pending (g : Group) (n : Nat) (k : Bool) : (untag g n k).pending = g.pending := by unfold untag; rfl
@[simp] theorem untag_cause (g : Group) (n : Nat) (k : Bool) : (untag g n k).cause = g.cause := by unfold untag; rfl
@[simp] theorem untag_saved (g : Group) (n : Nat) (k : Bool) : (untag g n k).saved = g.saved := by unfold untag; rfl
@[simp] theorem untag_joins (g : Group) (n : Nat) (k : Bool) : (untag g n k).joins = g.joins := by unfold untag; rfl
@[simp] theorem untag_side (g : Group) (n : Nat) (k : Bool) : (untag g n k).side = g.side := by unfold untag; rfl
@[simp] theorem untag_issues (g : Group) (n : Nat) (k : Bool) : (untag g n k).issues = g.issues := by unfold untag; rfl
@[simp] theorem untag_yielded (g : Group) (n : Nat) (k : Bool) : (untag g n k).yielded = g.yielded := by unfold untag; rfl
@[simp] theorem untag_tok (g : Group) (n : Nat) (k : Bool) : (untag g n k).tok = g.tok := by unfold untag; rfl
@[simp] theorem untag_gslot (g : Group) (n : Nat) (k : Bool) : (untag g n k).gslot = g.gslot := by unfold untag; rfl
@[simp] theorem untag_watch (g : Group) (n : Nat) (k : Bool) : (untag g n k).watch = g.watch := by unfold untag; rfl
@[simp] theorem untag_outRel (g : Group) (n : Nat) (k : Bool) : (untag g n k).outRel = g.outRel := by unfold untag; rfl
@[simp] theorem untag_copyCancelled (g : Group) (n : Nat) (k : Bool) : (untag g n k).copyCancelled = g.copyCancelled := by unfold untag; rfl
@[simp] theorem untag_copyRange (g : Group) (n : Nat) (k : Bool) : (untag g n k).copyRange = g.copyRange := by unfold untag; rfl
@[simp] theorem untag_barts (g : Group) (n : Nat) (k : Bool) : (untag g n k).barts = g.barts := by unfold untag; rfl
@[simp] theorem untag_csrw (g : Group) (n : Nat) (k : Bool) : (untag g n k).csrw = g.csrw := by unfold untag; rfl
@[simp] theorem untag_lines (g : Group) (n : Nat) (k : Bool) : (untag g n k).lines = g.lines := by unfold untag; rfl

/-! `killReg`. -/

@[simp] theorem killReg_status (g : Group) (n : Nat) : (killReg g n).status = g.status := by unfold killReg; rfl
@[simp] theorem killReg_threads (g : Group) (n : Nat) : (killReg g n).threads = g.threads := by unfold killReg; rfl
@[simp] theorem killReg_regs (g : Group) (n : Nat) : (killReg g n).regs = g.regs.set n { (regAt g n) with st := .dead } := by unfold killReg; rfl
@[simp] theorem killReg_lx (g : Group) (n : Nat) : (killReg g n).lx = g.lx := by unfold killReg; rfl
@[simp] theorem killReg_ly (g : Group) (n : Nat) : (killReg g n).ly = g.ly := by unfold killReg; rfl
@[simp] theorem killReg_lfsr (g : Group) (n : Nat) : (killReg g n).lfsr = g.lfsr := by unfold killReg; rfl
@[simp] theorem killReg_fpstat (g : Group) (n : Nat) : (killReg g n).fpstat = g.fpstat := by unfold killReg; rfl
@[simp] theorem killReg_gpc (g : Group) (n : Nat) : (killReg g n).gpc = g.gpc := by unfold killReg; rfl
@[simp] theorem killReg_sel (g : Group) (n : Nat) : (killReg g n).sel = g.sel := by unfold killReg; rfl
@[simp] theorem killReg_chosen (g : Group) (n : Nat) : (killReg g n).chosen = g.chosen := by unfold killReg; rfl
@[simp] theorem killReg_ser (g : Group) (n : Nat) : (killReg g n).ser = g.ser := by unfold killReg; rfl
@[simp] theorem killReg_loopqs (g : Group) (n : Nat) : (killReg g n).loopqs = g.loopqs := by unfold killReg; rfl
@[simp] theorem killReg_role (g : Group) (n : Nat) : (killReg g n).role = g.role := by unfold killReg; rfl
@[simp] theorem killReg_queue (g : Group) (n : Nat) : (killReg g n).queue = g.queue := by unfold killReg; rfl
@[simp] theorem killReg_pending (g : Group) (n : Nat) : (killReg g n).pending = g.pending := by unfold killReg; rfl
@[simp] theorem killReg_cause (g : Group) (n : Nat) : (killReg g n).cause = g.cause := by unfold killReg; rfl
@[simp] theorem killReg_saved (g : Group) (n : Nat) : (killReg g n).saved = g.saved := by unfold killReg; rfl
@[simp] theorem killReg_joins (g : Group) (n : Nat) : (killReg g n).joins = g.joins := by unfold killReg; rfl
@[simp] theorem killReg_side (g : Group) (n : Nat) : (killReg g n).side = g.side := by unfold killReg; rfl
@[simp] theorem killReg_issues (g : Group) (n : Nat) : (killReg g n).issues = g.issues := by unfold killReg; rfl
@[simp] theorem killReg_yielded (g : Group) (n : Nat) : (killReg g n).yielded = g.yielded := by unfold killReg; rfl
@[simp] theorem killReg_tok (g : Group) (n : Nat) : (killReg g n).tok = g.tok := by unfold killReg; rfl
@[simp] theorem killReg_gslot (g : Group) (n : Nat) : (killReg g n).gslot = g.gslot := by unfold killReg; rfl
@[simp] theorem killReg_watch (g : Group) (n : Nat) : (killReg g n).watch = g.watch := by unfold killReg; rfl
@[simp] theorem killReg_outRel (g : Group) (n : Nat) : (killReg g n).outRel = g.outRel := by unfold killReg; rfl
@[simp] theorem killReg_copyCancelled (g : Group) (n : Nat) : (killReg g n).copyCancelled = g.copyCancelled := by unfold killReg; rfl
@[simp] theorem killReg_copyRange (g : Group) (n : Nat) : (killReg g n).copyRange = g.copyRange := by unfold killReg; rfl
@[simp] theorem killReg_barts (g : Group) (n : Nat) : (killReg g n).barts = g.barts := by unfold killReg; rfl
@[simp] theorem killReg_csrw (g : Group) (n : Nat) : (killReg g n).csrw = g.csrw := by unfold killReg; rfl
@[simp] theorem killReg_lines (g : Group) (n : Nat) : (killReg g n).lines = g.lines := by unfold killReg; rfl

/-! `emptyReg`. -/

@[simp] theorem emptyReg_status (g : Group) (n : Nat) : (emptyReg g n).status = g.status := by unfold emptyReg; rfl
@[simp] theorem emptyReg_threads (g : Group) (n : Nat) : (emptyReg g n).threads = g.threads := by unfold emptyReg; rfl
@[simp] theorem emptyReg_cuffs (g : Group) (n : Nat) : (emptyReg g n).cuffs = g.cuffs := by unfold emptyReg; rfl
@[simp] theorem emptyReg_lx (g : Group) (n : Nat) : (emptyReg g n).lx = g.lx := by unfold emptyReg; rfl
@[simp] theorem emptyReg_ly (g : Group) (n : Nat) : (emptyReg g n).ly = g.ly := by unfold emptyReg; rfl
@[simp] theorem emptyReg_lfsr (g : Group) (n : Nat) : (emptyReg g n).lfsr = g.lfsr := by unfold emptyReg; rfl
@[simp] theorem emptyReg_fpstat (g : Group) (n : Nat) : (emptyReg g n).fpstat = g.fpstat := by unfold emptyReg; rfl
@[simp] theorem emptyReg_gpc (g : Group) (n : Nat) : (emptyReg g n).gpc = g.gpc := by unfold emptyReg; rfl
@[simp] theorem emptyReg_sel (g : Group) (n : Nat) : (emptyReg g n).sel = g.sel := by unfold emptyReg; rfl
@[simp] theorem emptyReg_chosen (g : Group) (n : Nat) : (emptyReg g n).chosen = g.chosen := by unfold emptyReg; rfl
@[simp] theorem emptyReg_ser (g : Group) (n : Nat) : (emptyReg g n).ser = g.ser := by unfold emptyReg; rfl
@[simp] theorem emptyReg_loopqs (g : Group) (n : Nat) : (emptyReg g n).loopqs = g.loopqs := by unfold emptyReg; rfl
@[simp] theorem emptyReg_role (g : Group) (n : Nat) : (emptyReg g n).role = g.role := by unfold emptyReg; rfl
@[simp] theorem emptyReg_queue (g : Group) (n : Nat) : (emptyReg g n).queue = g.queue := by unfold emptyReg; rfl
@[simp] theorem emptyReg_pending (g : Group) (n : Nat) : (emptyReg g n).pending = g.pending := by unfold emptyReg; rfl
@[simp] theorem emptyReg_cause (g : Group) (n : Nat) : (emptyReg g n).cause = g.cause := by unfold emptyReg; rfl
@[simp] theorem emptyReg_saved (g : Group) (n : Nat) : (emptyReg g n).saved = g.saved := by unfold emptyReg; rfl
@[simp] theorem emptyReg_joins (g : Group) (n : Nat) : (emptyReg g n).joins = g.joins := by unfold emptyReg; rfl
@[simp] theorem emptyReg_side (g : Group) (n : Nat) : (emptyReg g n).side = g.side := by unfold emptyReg; rfl
@[simp] theorem emptyReg_issues (g : Group) (n : Nat) : (emptyReg g n).issues = g.issues := by unfold emptyReg; rfl
@[simp] theorem emptyReg_yielded (g : Group) (n : Nat) : (emptyReg g n).yielded = g.yielded := by unfold emptyReg; rfl
@[simp] theorem emptyReg_tok (g : Group) (n : Nat) : (emptyReg g n).tok = g.tok := by unfold emptyReg; rfl
@[simp] theorem emptyReg_gslot (g : Group) (n : Nat) : (emptyReg g n).gslot = g.gslot := by unfold emptyReg; rfl
@[simp] theorem emptyReg_watch (g : Group) (n : Nat) : (emptyReg g n).watch = g.watch := by unfold emptyReg; rfl
@[simp] theorem emptyReg_outRel (g : Group) (n : Nat) : (emptyReg g n).outRel = g.outRel := by unfold emptyReg; rfl
@[simp] theorem emptyReg_copyCancelled (g : Group) (n : Nat) : (emptyReg g n).copyCancelled = g.copyCancelled := by unfold emptyReg; rfl
@[simp] theorem emptyReg_copyRange (g : Group) (n : Nat) : (emptyReg g n).copyRange = g.copyRange := by unfold emptyReg; rfl
@[simp] theorem emptyReg_barts (g : Group) (n : Nat) : (emptyReg g n).barts = g.barts := by unfold emptyReg; rfl
@[simp] theorem emptyReg_csrw (g : Group) (n : Nat) : (emptyReg g n).csrw = g.csrw := by unfold emptyReg; rfl
@[simp] theorem emptyReg_lines (g : Group) (n : Nat) : (emptyReg g n).lines = g.lines := by unfold emptyReg; rfl

/-! `writeCuff`. -/

@[simp] theorem writeCuff_status (g : Group) (k : Nat) (tag : Option (BitVec 8)) (m : BitVec 32) (v : Nat → Word) (tok : Option Nat) : (writeCuff g k tag m v tok).status = g.status := by unfold writeCuff; rfl
@[simp] theorem writeCuff_threads (g : Group) (k : Nat) (tag : Option (BitVec 8)) (m : BitVec 32) (v : Nat → Word) (tok : Option Nat) : (writeCuff g k tag m v tok).threads = g.threads := by unfold writeCuff; rfl
@[simp] theorem writeCuff_regs (g : Group) (k : Nat) (tag : Option (BitVec 8)) (m : BitVec 32) (v : Nat → Word) (tok : Option Nat) : (writeCuff g k tag m v tok).regs = g.regs := by unfold writeCuff; rfl
@[simp] theorem writeCuff_lx (g : Group) (k : Nat) (tag : Option (BitVec 8)) (m : BitVec 32) (v : Nat → Word) (tok : Option Nat) : (writeCuff g k tag m v tok).lx = g.lx := by unfold writeCuff; rfl
@[simp] theorem writeCuff_ly (g : Group) (k : Nat) (tag : Option (BitVec 8)) (m : BitVec 32) (v : Nat → Word) (tok : Option Nat) : (writeCuff g k tag m v tok).ly = g.ly := by unfold writeCuff; rfl
@[simp] theorem writeCuff_lfsr (g : Group) (k : Nat) (tag : Option (BitVec 8)) (m : BitVec 32) (v : Nat → Word) (tok : Option Nat) : (writeCuff g k tag m v tok).lfsr = g.lfsr := by unfold writeCuff; rfl
@[simp] theorem writeCuff_fpstat (g : Group) (k : Nat) (tag : Option (BitVec 8)) (m : BitVec 32) (v : Nat → Word) (tok : Option Nat) : (writeCuff g k tag m v tok).fpstat = g.fpstat := by unfold writeCuff; rfl
@[simp] theorem writeCuff_gpc (g : Group) (k : Nat) (tag : Option (BitVec 8)) (m : BitVec 32) (v : Nat → Word) (tok : Option Nat) : (writeCuff g k tag m v tok).gpc = g.gpc := by unfold writeCuff; rfl
@[simp] theorem writeCuff_sel (g : Group) (k : Nat) (tag : Option (BitVec 8)) (m : BitVec 32) (v : Nat → Word) (tok : Option Nat) : (writeCuff g k tag m v tok).sel = g.sel := by unfold writeCuff; rfl
@[simp] theorem writeCuff_chosen (g : Group) (k : Nat) (tag : Option (BitVec 8)) (m : BitVec 32) (v : Nat → Word) (tok : Option Nat) : (writeCuff g k tag m v tok).chosen = g.chosen := by unfold writeCuff; rfl
@[simp] theorem writeCuff_ser (g : Group) (k : Nat) (tag : Option (BitVec 8)) (m : BitVec 32) (v : Nat → Word) (tok : Option Nat) : (writeCuff g k tag m v tok).ser = g.ser := by unfold writeCuff; rfl
@[simp] theorem writeCuff_loopqs (g : Group) (k : Nat) (tag : Option (BitVec 8)) (m : BitVec 32) (v : Nat → Word) (tok : Option Nat) : (writeCuff g k tag m v tok).loopqs = g.loopqs := by unfold writeCuff; rfl
@[simp] theorem writeCuff_role (g : Group) (k : Nat) (tag : Option (BitVec 8)) (m : BitVec 32) (v : Nat → Word) (tok : Option Nat) : (writeCuff g k tag m v tok).role = g.role := by unfold writeCuff; rfl
@[simp] theorem writeCuff_queue (g : Group) (k : Nat) (tag : Option (BitVec 8)) (m : BitVec 32) (v : Nat → Word) (tok : Option Nat) : (writeCuff g k tag m v tok).queue = g.queue := by unfold writeCuff; rfl
@[simp] theorem writeCuff_pending (g : Group) (k : Nat) (tag : Option (BitVec 8)) (m : BitVec 32) (v : Nat → Word) (tok : Option Nat) : (writeCuff g k tag m v tok).pending = g.pending := by unfold writeCuff; rfl
@[simp] theorem writeCuff_cause (g : Group) (k : Nat) (tag : Option (BitVec 8)) (m : BitVec 32) (v : Nat → Word) (tok : Option Nat) : (writeCuff g k tag m v tok).cause = g.cause := by unfold writeCuff; rfl
@[simp] theorem writeCuff_saved (g : Group) (k : Nat) (tag : Option (BitVec 8)) (m : BitVec 32) (v : Nat → Word) (tok : Option Nat) : (writeCuff g k tag m v tok).saved = g.saved := by unfold writeCuff; rfl
@[simp] theorem writeCuff_joins (g : Group) (k : Nat) (tag : Option (BitVec 8)) (m : BitVec 32) (v : Nat → Word) (tok : Option Nat) : (writeCuff g k tag m v tok).joins = g.joins := by unfold writeCuff; rfl
@[simp] theorem writeCuff_side (g : Group) (k : Nat) (tag : Option (BitVec 8)) (m : BitVec 32) (v : Nat → Word) (tok : Option Nat) : (writeCuff g k tag m v tok).side = g.side := by unfold writeCuff; rfl
@[simp] theorem writeCuff_issues (g : Group) (k : Nat) (tag : Option (BitVec 8)) (m : BitVec 32) (v : Nat → Word) (tok : Option Nat) : (writeCuff g k tag m v tok).issues = g.issues := by unfold writeCuff; rfl
@[simp] theorem writeCuff_yielded (g : Group) (k : Nat) (tag : Option (BitVec 8)) (m : BitVec 32) (v : Nat → Word) (tok : Option Nat) : (writeCuff g k tag m v tok).yielded = g.yielded := by unfold writeCuff; rfl
@[simp] theorem writeCuff_tok (g : Group) (k : Nat) (tag : Option (BitVec 8)) (m : BitVec 32) (v : Nat → Word) (tok : Option Nat) : (writeCuff g k tag m v tok).tok = g.tok := by unfold writeCuff; rfl
@[simp] theorem writeCuff_gslot (g : Group) (k : Nat) (tag : Option (BitVec 8)) (m : BitVec 32) (v : Nat → Word) (tok : Option Nat) : (writeCuff g k tag m v tok).gslot = g.gslot := by unfold writeCuff; rfl
@[simp] theorem writeCuff_watch (g : Group) (k : Nat) (tag : Option (BitVec 8)) (m : BitVec 32) (v : Nat → Word) (tok : Option Nat) : (writeCuff g k tag m v tok).watch = g.watch := by unfold writeCuff; rfl
@[simp] theorem writeCuff_outRel (g : Group) (k : Nat) (tag : Option (BitVec 8)) (m : BitVec 32) (v : Nat → Word) (tok : Option Nat) : (writeCuff g k tag m v tok).outRel = g.outRel := by unfold writeCuff; rfl
@[simp] theorem writeCuff_copyCancelled (g : Group) (k : Nat) (tag : Option (BitVec 8)) (m : BitVec 32) (v : Nat → Word) (tok : Option Nat) : (writeCuff g k tag m v tok).copyCancelled = g.copyCancelled := by unfold writeCuff; rfl
@[simp] theorem writeCuff_copyRange (g : Group) (k : Nat) (tag : Option (BitVec 8)) (m : BitVec 32) (v : Nat → Word) (tok : Option Nat) : (writeCuff g k tag m v tok).copyRange = g.copyRange := by unfold writeCuff; rfl
@[simp] theorem writeCuff_barts (g : Group) (k : Nat) (tag : Option (BitVec 8)) (m : BitVec 32) (v : Nat → Word) (tok : Option Nat) : (writeCuff g k tag m v tok).barts = g.barts := by unfold writeCuff; rfl
@[simp] theorem writeCuff_csrw (g : Group) (k : Nat) (tag : Option (BitVec 8)) (m : BitVec 32) (v : Nat → Word) (tok : Option Nat) : (writeCuff g k tag m v tok).csrw = g.csrw := by unfold writeCuff; rfl
@[simp] theorem writeCuff_lines (g : Group) (k : Nat) (tag : Option (BitVec 8)) (m : BitVec 32) (v : Nat → Word) (tok : Option Nat) : (writeCuff g k tag m v tok).lines = g.lines := by unfold writeCuff; rfl

/-! `writePred`. -/

@[simp] theorem writePred_status (g : Group) (n : Nat) (m : BitVec 32) (v : Nat → Bool) : (writePred g n m v).status = g.status := by simp only [writePred, updThreads_status]
@[simp] theorem writePred_regs (g : Group) (n : Nat) (m : BitVec 32) (v : Nat → Bool) : (writePred g n m v).regs = g.regs := by simp only [writePred, updThreads_regs]
@[simp] theorem writePred_cuffs (g : Group) (n : Nat) (m : BitVec 32) (v : Nat → Bool) : (writePred g n m v).cuffs = g.cuffs := by simp only [writePred, updThreads_cuffs]
@[simp] theorem writePred_lx (g : Group) (n : Nat) (m : BitVec 32) (v : Nat → Bool) : (writePred g n m v).lx = g.lx := by simp only [writePred, updThreads_lx]
@[simp] theorem writePred_ly (g : Group) (n : Nat) (m : BitVec 32) (v : Nat → Bool) : (writePred g n m v).ly = g.ly := by simp only [writePred, updThreads_ly]
@[simp] theorem writePred_lfsr (g : Group) (n : Nat) (m : BitVec 32) (v : Nat → Bool) : (writePred g n m v).lfsr = g.lfsr := by simp only [writePred, updThreads_lfsr]
@[simp] theorem writePred_fpstat (g : Group) (n : Nat) (m : BitVec 32) (v : Nat → Bool) : (writePred g n m v).fpstat = g.fpstat := by simp only [writePred, updThreads_fpstat]
@[simp] theorem writePred_gpc (g : Group) (n : Nat) (m : BitVec 32) (v : Nat → Bool) : (writePred g n m v).gpc = g.gpc := by simp only [writePred, updThreads_gpc]
@[simp] theorem writePred_sel (g : Group) (n : Nat) (m : BitVec 32) (v : Nat → Bool) : (writePred g n m v).sel = g.sel := by simp only [writePred, updThreads_sel]
@[simp] theorem writePred_chosen (g : Group) (n : Nat) (m : BitVec 32) (v : Nat → Bool) : (writePred g n m v).chosen = g.chosen := by simp only [writePred, updThreads_chosen]
@[simp] theorem writePred_ser (g : Group) (n : Nat) (m : BitVec 32) (v : Nat → Bool) : (writePred g n m v).ser = g.ser := by simp only [writePred, updThreads_ser]
@[simp] theorem writePred_loopqs (g : Group) (n : Nat) (m : BitVec 32) (v : Nat → Bool) : (writePred g n m v).loopqs = g.loopqs := by simp only [writePred, updThreads_loopqs]
@[simp] theorem writePred_role (g : Group) (n : Nat) (m : BitVec 32) (v : Nat → Bool) : (writePred g n m v).role = g.role := by simp only [writePred, updThreads_role]
@[simp] theorem writePred_queue (g : Group) (n : Nat) (m : BitVec 32) (v : Nat → Bool) : (writePred g n m v).queue = g.queue := by simp only [writePred, updThreads_queue]
@[simp] theorem writePred_pending (g : Group) (n : Nat) (m : BitVec 32) (v : Nat → Bool) : (writePred g n m v).pending = g.pending := by simp only [writePred, updThreads_pending]
@[simp] theorem writePred_cause (g : Group) (n : Nat) (m : BitVec 32) (v : Nat → Bool) : (writePred g n m v).cause = g.cause := by simp only [writePred, updThreads_cause]
@[simp] theorem writePred_saved (g : Group) (n : Nat) (m : BitVec 32) (v : Nat → Bool) : (writePred g n m v).saved = g.saved := by simp only [writePred, updThreads_saved]
@[simp] theorem writePred_joins (g : Group) (n : Nat) (m : BitVec 32) (v : Nat → Bool) : (writePred g n m v).joins = g.joins := by simp only [writePred, updThreads_joins]
@[simp] theorem writePred_side (g : Group) (n : Nat) (m : BitVec 32) (v : Nat → Bool) : (writePred g n m v).side = g.side := by simp only [writePred, updThreads_side]
@[simp] theorem writePred_issues (g : Group) (n : Nat) (m : BitVec 32) (v : Nat → Bool) : (writePred g n m v).issues = g.issues := by simp only [writePred, updThreads_issues]
@[simp] theorem writePred_yielded (g : Group) (n : Nat) (m : BitVec 32) (v : Nat → Bool) : (writePred g n m v).yielded = g.yielded := by simp only [writePred, updThreads_yielded]
@[simp] theorem writePred_tok (g : Group) (n : Nat) (m : BitVec 32) (v : Nat → Bool) : (writePred g n m v).tok = g.tok := by simp only [writePred, updThreads_tok]
@[simp] theorem writePred_gslot (g : Group) (n : Nat) (m : BitVec 32) (v : Nat → Bool) : (writePred g n m v).gslot = g.gslot := by simp only [writePred, updThreads_gslot]
@[simp] theorem writePred_watch (g : Group) (n : Nat) (m : BitVec 32) (v : Nat → Bool) : (writePred g n m v).watch = g.watch := by simp only [writePred, updThreads_watch]
@[simp] theorem writePred_outRel (g : Group) (n : Nat) (m : BitVec 32) (v : Nat → Bool) : (writePred g n m v).outRel = g.outRel := by simp only [writePred, updThreads_outRel]
@[simp] theorem writePred_copyCancelled (g : Group) (n : Nat) (m : BitVec 32) (v : Nat → Bool) : (writePred g n m v).copyCancelled = g.copyCancelled := by simp only [writePred, updThreads_copyCancelled]
@[simp] theorem writePred_copyRange (g : Group) (n : Nat) (m : BitVec 32) (v : Nat → Bool) : (writePred g n m v).copyRange = g.copyRange := by simp only [writePred, updThreads_copyRange]
@[simp] theorem writePred_barts (g : Group) (n : Nat) (m : BitVec 32) (v : Nat → Bool) : (writePred g n m v).barts = g.barts := by simp only [writePred, updThreads_barts]
@[simp] theorem writePred_csrw (g : Group) (n : Nat) (m : BitVec 32) (v : Nat → Bool) : (writePred g n m v).csrw = g.csrw := by simp only [writePred, updThreads_csrw]
@[simp] theorem writePred_lines (g : Group) (n : Nat) (m : BitVec 32) (v : Nat → Bool) : (writePred g n m v).lines = g.lines := by simp only [writePred, updThreads_lines]

end Sys2Proof.Machine
end

