-- ==== Sys2Proof/Laws/Homes.lean ====
section
/-! SUPPORT. What a write at a home can change (R287, R288, R306 to R308, R394, R435), said once: a write touches the pending writes, the
monitors, the guest copies and what the host is asked; a core's write also the home's record of the line. -/

namespace Sys2Proof.Machine

/-- Telling the monitors of a write changes the monitors only. -/
theorem hitMonitors_eq (s : State) (sh : Option Nat) (pa : Nat) : ∃ m, hitMonitors s sh pa = { s with monitors := m } := by
  unfold hitMonitors; split <;> exact ⟨_, rfl⟩
theorem hitMonitors_none {s : State} (h : s.monitors = []) (sh : Option Nat) (pa : Nat) : hitMonitors s sh pa = s := by
  simp [hitMonitors, h]

/-- Snooping the host's copy of a line changes what the host is asked only. -/
theorem snoopHolder_eq (s : State) (pa : Nat) : ∃ h, snoopHolder s pa = { s with host := h } := by
  unfold snoopHolder; dsimp only; split <;> exact ⟨_, rfl⟩
theorem snoopHolder_none {s : State} {pa : Nat} (h : s.host.held.contains (pa / 64) = false) : snoopHolder s pa = s := by
  simp only [snoopHolder, h, Bool.not_false, if_true]

/-- So does asking for the ownership of a line. -/
theorem askOwn_eq (s : State) (n : Nat) : ∃ h, askOwn s n = { s with host := h } := by
  unfold askOwn; split
  · split <;> exact ⟨_, rfl⟩
  · exact ⟨_, rfl⟩

/-- What putting a byte at its home can change. -/
theorem putHome_eq (s : State) (sh : Option Nat) (pa : Nat) (b : Byte) :
    ∃ m g w h, putHome s sh pa b = { s with monitors := m, guests := g, wbuf := w, host := h } := by
  obtain ⟨m, e⟩ := hitMonitors_eq s sh pa
  unfold putHome
  dsimp only
  rw [e]
  obtain ⟨h, e'⟩ := askOwn_eq { s with
    monitors := m
    guests := s.guests.map fun g => if g.pline == pa / 128 && !g.stale then { g with stale := true } else g
    host := { s.host with posted := s.host.posted ++ [(pa, b)] } } (pa / 64)
  cases hostLine s pa <;> dsimp only <;> split <;> first
    | exact ⟨_, _, _, _, rfl⟩
    | exact ⟨_, _, _, _, e'⟩
    | (split <;> first | exact ⟨_, _, _, _, rfl⟩ | exact ⟨_, _, _, _, e'⟩)

/-- What a write at its home can change. -/
theorem wrHome_eq (s : State) (sh : Option Nat) (pa : Nat) (b : Byte) :
    ∃ m g w h, wrHome s sh pa b = { s with monitors := m, guests := g, wbuf := w, host := h } := by
  obtain ⟨h, e⟩ := snoopHolder_eq s pa
  obtain ⟨m, g, w, h', e'⟩ := putHome_eq (snoopHolder s pa) sh pa b
  exact ⟨m, g, w, h', by rw [wrHome, e', e]⟩

/-- What a run of writes at homes can change. -/
theorem foldl_wrHome_eq {α : Type} (f : State → α → State)
    (hf : ∀ s x, ∃ m g w h, f s x = { s with monitors := m, guests := g, wbuf := w, host := h }) (l : List α) (s : State) :
    ∃ m g w h, l.foldl f s = { s with monitors := m, guests := g, wbuf := w, host := h } := by
  induction l generalizing s with
  | nil => exact ⟨_, _, _, _, rfl⟩
  | cons x l ih =>
    obtain ⟨m, g, w, h, e⟩ := hf s x
    obtain ⟨m', g', w', h', e'⟩ := ih (f s x)
    exact ⟨m', g', w', h', by rw [List.foldl_cons, e', e]⟩
theorem wrHomeN_eq (s : State) (sh : Option Nat) (pa n v : Nat) :
    ∃ m g w h, wrHomeN s sh pa n v = { s with monitors := m, guests := g, wbuf := w, host := h } :=
  foldl_wrHome_eq _ (fun s _ => wrHome_eq s _ _ _) _ _

/-- A core's use of a home drops guest copies at most; its write also sets the line's record (R306). -/
theorem ownGuests_eq (s : State) (core sh pa n : Nat) : ∃ g, ownGuests s core sh pa n = { s with guests := g } := by
  unfold ownGuests; split <;> exact ⟨_, rfl⟩
theorem ownGuest_eq (s : State) (core sh pa : Nat) : ∃ g, ownGuest s core sh pa = { s with guests := g } := ownGuests_eq s core sh pa 1
theorem coreWrote_eq (s : State) (core : Nat) (narrow : Bool) (sh pa : Nat) :
    ∃ g n, coreWrote s core narrow sh pa = { s with
      guests := g, records := ⟨pa / 128, core, n⟩ :: s.records.filter fun r => r.pline != pa / 128 } := by
  obtain ⟨g, e⟩ := ownGuest_eq s core sh pa
  simp only [coreWrote, e]
  exact ⟨g, _, rfl⟩

/-- What writing an L1 line back can change (R289). -/
theorem l1WriteBack_eq (s : State) (l : L1Line) :
    ∃ m g w h r, l1WriteBack s l = { s with monitors := m, guests := g, wbuf := w, host := h, records := r } := by
  unfold l1WriteBack
  split
  · exact ⟨_, _, _, _, _, rfl⟩
  · obtain ⟨m, g, w, h, e⟩ := foldl_wrHome_eq (fun (s : State) (x : (Byte × Bool) × Nat) =>
      if x.1.2 then wrHome s (some l.share) (128 * l.pline + x.2) x.1.1 else s)
      (fun s x => by
        split
        · exact wrHome_eq s _ _ _
        · exact ⟨_, _, _, _, rfl⟩) (l.data.zip l.dirty).zipIdx s
    obtain ⟨g', _, e'⟩ := coreWrote_eq { s with monitors := m, guests := g, wbuf := w, host := h } l.core l.narrow l.share (128 * l.pline)
    exact ⟨m, g', w, h, _, by rw [e, e']⟩

/-- What dropping L1 lines can change. -/
theorem l1Drop_eq (s : State) (p : L1Line → Bool) :
    ∃ m g w h r, l1Drop s p = { s with monitors := m, guests := g, wbuf := w, host := h, records := r, l1 := s.l1.filter fun l => !p l } := by
  have go : ∀ (l : List L1Line) (s : State), ∃ m g w h r, l.foldl (fun s l => if p l then l1WriteBack s l else s) s
      = { s with monitors := m, guests := g, wbuf := w, host := h, records := r } := by
    intro l
    induction l with
    | nil => exact fun s => ⟨_, _, _, _, _, rfl⟩
    | cons x l ih =>
      intro s
      rw [List.foldl_cons]
      split
      · obtain ⟨m, g, w, h, r, e⟩ := l1WriteBack_eq s x
        obtain ⟨m', g', w', h', r', e'⟩ := ih (l1WriteBack s x)
        exact ⟨m', g', w', h', r', by rw [e', e]⟩
      · exact ih s
  obtain ⟨m, g, w, h, r, e⟩ := go s.l1 s
  exact ⟨m, g, w, h, r, by simp only [l1Drop, e]⟩

/-- Writing a frame changes no team. -/
theorem frameWrite_teams {s u : State} {p core va : Nat} {b : List Byte} (h : frameWrite s p core va b = some u) : u.teams = s.teams := by
  have go : ∀ (f : State → Byte × Nat → State), (∀ s x, (f s x).teams = s.teams) → ∀ (l : List (Byte × Nat)) (s : State),
      (l.foldl f s).teams = s.teams := by
    intro f hf l
    induction l with
    | nil => exact fun _ => rfl
    | cons x l ih => exact fun s => by rw [List.foldl_cons, ih, hf]
  unfold frameWrite at h
  split at h
  · simp only [Option.some.injEq] at h
    obtain ⟨_, e⟩ := ownGuests_eq _ _ _ _ _
    rw [← h, e, go]
    · obtain ⟨_, _, _, _, _, e⟩ := l1Drop_eq s (fun l => _)
      rw [e]
    · intro s x
      split
      · rfl
      · obtain ⟨_, _, _, _, e⟩ := wrHome_eq s _ _ _
        rw [e]
  · cases h

/-- What a step of the package that reads ranges does: it is made where their lines are there, else it asks for them (R394, R435). -/
theorem withReads_ready {s : State} {p : Nat} {l : List (Nat × Nat)} (h : virtLacks s p l = []) (f : Option State) : withReads s p l f = f := by
  simp [withReads, h]
theorem withReads_cases {s u : State} {p : Nat} {l : List (Nat × Nat)} {f : Option State} (h : withReads s p l f = some u) :
    virtLacks s p l = [] ∧ f = some u ∨
    virtLacks s p l ≠ [] ∧ u = (virtLacks s p l).foldl (fun s x => hostAsk s x.1 x.2 .load) s := by
  unfold withReads at h
  dsimp only at h
  split at h
  · exact .inl ⟨List.isEmpty_iff.mp ‹_›, h⟩
  · split at h
    · cases h
    · exact .inr ⟨fun e => by simp_all, (Option.some.inj h).symm⟩

/-- What a writer of a host line does at a GO: nothing, or a step of its own that uses the GO (R435). -/
theorem takesGo_cases (line : Nat) (s : State) (f : State → Option State) :
    takesGo line s f = s ∨ ∃ u, f s = some u ∧ takesGo line s f = u := by
  unfold takesGo
  dsimp only
  split
  · exact .inl rfl
  · cases f s with
    | none => exact .inl rfl
    | some u =>
      dsimp only
      split
      · exact .inl rfl
      · exact .inr ⟨u, rfl, rfl⟩

/-- What a release leaves on its threads: nothing at TEAM scope, else whether it is narrow (R306). -/
theorem markRelease_eq (s : State) (r : GroupRef) (m : BitVec 32) (share : Nat) :
    markRelease s r m share = s ∨
    markRelease s r m share = updGroup s r fun g => updThreads g m fun _ t => { t with narrow := decide (share < shPackage) } := by
  unfold markRelease; split
  · exact .inl rfl
  · exact .inr rfl

end Sys2Proof.Machine
end

