-- ==== Sys2Proof/Laws/Memory.lean ====
section
/-! SUPPORT. Memory as a canonical list: every operation on it keeps the form, and reads find what writes left. -/

namespace Sys2Proof.Machine

/-- The cells after a write are old cells or the written one. -/
theorem Memory.mem_write {m : Memory} {a : Nat} {b : Byte} {c : Host.Cell} (h : c ∈ m.write a b) : c ∈ m ∨ c = (a, b) := by
  induction m with
  | nil => simp only [Memory.write] at h; split at h <;> simp_all
  | cons d r ih =>
    simp only [Memory.write] at h
    split at h
    · split at h <;> simp_all; rcases h with h | h | h <;> simp_all
    · split at h
      · split at h <;> simp_all; rcases h with h | h <;> simp_all
      · rcases List.mem_cons.1 h with h | h
        · simp [h]
        · rcases ih h with h | h <;> simp [h]

theorem Memory.wf_nil : Memory.wf [] := by simp [Memory.wf]

theorem Memory.wf_tail {c : Host.Cell} {m : Memory} (h : Memory.wf (c :: m)) : Memory.wf m :=
  ⟨(List.pairwise_cons.1 h.1).2, fun d hd => h.2 d (List.mem_cons_of_mem _ hd)⟩

/-- A write keeps the canonical form. -/
theorem Memory.write_wf {m : Memory} (h : Memory.wf m) (a : Nat) (b : Byte) : Memory.wf (m.write a b) := by
  induction m with
  | nil => simp only [Memory.write]; split <;> simp_all [Memory.wf]
  | cons c r ih =>
    have hp := List.pairwise_cons.1 h.1
    have hr := Memory.wf_tail h
    have hc := h.2 c (by simp)
    simp only [Memory.write]
    split
    · rename_i hlt
      split
      · exact h
      · rename_i hb
        refine ⟨List.pairwise_cons.2 ⟨fun d hd => ?_, h.1⟩, fun d hd => ?_⟩
        · rcases List.mem_cons.1 hd with rfl | hd
          · exact hlt
          · exact Nat.lt_trans hlt (hp.1 d hd)
        · rcases List.mem_cons.1 hd with rfl | hd
          · exact hb
          · exact h.2 d hd
    · split
      · rename_i heq
        split
        · exact hr
        · rename_i hb
          refine ⟨List.pairwise_cons.2 ⟨fun d hd => ?_, hr.1⟩, fun d hd => ?_⟩
          · simpa [heq] using hp.1 d hd
          · rcases List.mem_cons.1 hd with rfl | hd
            · exact hb
            · exact hr.2 d hd
      · rename_i hlt hne
        refine ⟨List.pairwise_cons.2 ⟨fun d hd => ?_, (ih hr).1⟩, fun d hd => ?_⟩
        · rcases Memory.mem_write hd with hd | rfl
          · exact hp.1 d hd
          · show c.1 < a
            omega
        · rcases List.mem_cons.1 hd with rfl | hd
          · exact hc
          · exact (ih hr).2 d hd

/-- Applying writes keeps the canonical form. -/
theorem Memory.writes_wf {m : Memory} (h : Memory.wf m) (w : List (Nat × Byte)) : Memory.wf (m.writes w) := by
  induction w with
  | nil => exact h
  | cons x w ih => exact Memory.write_wf ih x.1 x.2

/-- Keeping some of the cells keeps the canonical form. -/
theorem Memory.filter_wf {m : Memory} (h : Memory.wf m) (p : Host.Cell → Bool) : Memory.wf (m.filter p) :=
  ⟨h.1.filter p, fun c hc => h.2 c ((List.mem_filter.1 hc).1)⟩

/-- A byte below every listed address reads 0. -/
theorem Memory.read_below {m : Memory} {a : Nat} (h : ∀ c ∈ m, a < c.1) : m.read a = 0 := by
  have : m.find? (fun c => c.1 == a) = none := List.find?_eq_none.2 fun c hc => by
    have := h c hc
    simp only [beq_iff_eq]; omega
  simp [Memory.read, this]

theorem Memory.read_cons (c : Host.Cell) (m : Memory) (a : Nat) :
    Memory.read (c :: m) a = if c.1 = a then c.2 else m.read a := by
  by_cases h : c.1 = a <;> simp [Memory.read, h]

/-- A byte reads what was written to it last. -/
theorem Memory.read_write_same {m : Memory} (h : Memory.wf m) (a : Nat) (b : Byte) : (m.write a b).read a = b := by
  induction m with
  | nil => simp only [Memory.write]; split <;> simp_all [Memory.read]
  | cons c r ih =>
    have hp := (List.pairwise_cons.1 h.1).1
    have hlow : a ≤ c.1 → ∀ d ∈ r, a < d.1 := fun hle d hd => Nat.lt_of_le_of_lt hle (hp d hd)
    simp only [Memory.write]
    split
    · rename_i hlt
      split
      · rename_i hb
        rw [Memory.read_below (m := c :: r), hb]
        intro d hd
        rcases List.mem_cons.1 hd with rfl | hd
        · exact hlt
        · exact hlow (Nat.le_of_lt hlt) d hd
      · simp [Memory.read_cons]
    · split
      · rename_i heq
        split
        · rename_i hb
          rw [Memory.read_below (hlow (Nat.le_of_eq heq)), hb]
        · simp [Memory.read_cons]
      · rename_i hne
        rw [Memory.read_cons, if_neg (fun e => hne e.symm)]
        exact ih (Memory.wf_tail h)

/-- A write leaves every other byte alone. -/
theorem Memory.read_write_other {m : Memory} {a x : Nat} (b : Byte) (h : x ≠ a) : (m.write a b).read x = m.read x := by
  induction m with
  | nil => simp only [Memory.write]; split <;> simp [Memory.read, Ne.symm h]
  | cons c r ih =>
    simp only [Memory.write]
    split
    · split
      · rfl
      · simp [Memory.read_cons, Ne.symm h]
    · split
      · rename_i heq
        have : c.1 ≠ x := fun e => h (e ▸ heq.symm)
        split <;> simp [Memory.read_cons, Ne.symm h, this]
      · simp [Memory.read_cons, ih]

/-- After a list of writes a byte reads the newest write to it, or what it read before. -/
theorem Memory.read_writes {m : Memory} (h : Memory.wf m) (w : List (Nat × Byte)) (a : Nat) :
    (m.writes w).read a = match w.find? fun x => x.1 == a with | some x => x.2 | none => m.read a := by
  induction w with
  | nil => rfl
  | cons x w ih =>
    show ((m.writes w).write x.1 x.2).read a = _
    by_cases hx : x.1 = a
    · subst hx
      simp [Memory.read_write_same (Memory.writes_wf h w)]
    · rw [Memory.read_write_other _ (Ne.symm hx), ih]
      simp [hx]

/-- A byte that no write of the list names reads as before. -/
theorem Memory.read_writes_other {m : Memory} (h : Memory.wf m) {w : List (Nat × Byte)} {a : Nat} (hw : ∀ x ∈ w, x.1 ≠ a) :
    (m.writes w).read a = m.read a := by
  have : w.find? (fun x => x.1 == a) = none := List.find?_eq_none.2 fun x hx => by simpa using hw x hx
  rw [Memory.read_writes h, this]

/-- The rest of the canonical form: a cell of the list is what its address reads. -/
theorem Memory.read_of_mem {m : Memory} (h : Memory.wf m) {c : Host.Cell} (hc : c ∈ m) : m.read c.1 = c.2 := by
  induction m with
  | nil => cases hc
  | cons d r ih =>
    rw [Memory.read_cons]
    rcases List.mem_cons.1 hc with rfl | hc
    · simp
    · have := (List.pairwise_cons.1 h.1).1 c hc
      rw [if_neg (by omega), ih (Memory.wf_tail h) hc]

/-- Memory with nothing listed reads as it does at reset. -/
@[simp] theorem Memory.read_nil (a : Nat) : Memory.read [] a = 0 := rfl

end Sys2Proof.Machine
end

