-- ==== Sys2Proof/Laws/Issue.lean ====
section
/-! SUPPORT. What the shared operations of issuing and of events can do, said once: the cases of `issue`, `event`, the common
actions, and that each keeps the invariant. -/

namespace Sys2Proof.Machine

/-! `commit` and the invariant. -/

/-- The end of a step from a state with canonical memory leaves canonical memory and no write behind. -/
theorem commit_inv {s0 : State} (h : Memory.wf s0.mem) (s : State) : (commit s0 s).Inv :=
  ⟨Memory.writes_wf h _, rfl⟩

theorem next_inv {s0 s t : State} (h : s0.Inv) (e : next s0 s = .next t) : t.Inv := by
  cases e; exact commit_inv h.1 s

/-- After a step a byte reads the newest write to it, or what it read before. -/
theorem commit_read {s0 : State} (h : Memory.wf s0.mem) (s : State) (a : Nat) :
    Memory.read (commit s0 s).mem a
      = match (wakeMonitors s).wbuf.find? fun x => x.1 == a with | some x => x.2 | none => Memory.read s0.mem a :=
  Memory.read_writes h _ a

/-- A step whose own writes do not name a byte leaves it as it was. -/
theorem commit_read_other {s0 s : State} (h : Memory.wf s0.mem) {a : Nat} (hw : ∀ x ∈ (wakeMonitors s).wbuf, x.1 ≠ a) :
    Memory.read (commit s0 s).mem a = Memory.read s0.mem a := Memory.read_writes_other h hw

/-- The end of a step wakes nothing where no monitor is hit or taken away. -/
theorem wakeMonitors_quiet {s : State} (h : ∀ m ∈ s.monitors, m.hit = false ∧ m.gone = false) : wakeMonitors s = s := by
  have e : (s.monitors.filter fun m => m.hit || m.gone) = [] := List.filter_eq_nil_iff.2 fun m hm => by simp [h m hm]
  simp only [wakeMonitors, settleMonitors, e]
/-- The same with no monitor armed or watching. -/
theorem wakeMonitors_none {s : State} (h : s.monitors = []) : wakeMonitors s = s := wakeMonitors_quiet (by simp [h])

/-! `issue`. -/

/-- Everything an issue can answer: nothing happened, a trap was taken, the threads only went on, it was counted as a stall, or the
instruction took effect. -/
theorem issue_cases {i : Instr} {s t : State} {k : Ctx → Act} (h : issue i s k = .next t) :
    t = s ∨ ∃ c, ctxOf i s = some c ∧
      ((∃ e, readyOf c = .trap e ∧ t = commit s (issueTrap c e)) ∨
       (readyOf c = .skip ∧ t = commit s (skipIssue c)) ∨
       (readyOf c = .run ∧
         ((∃ f, k c = .hold f ∧ t = commit s (f { c.s with cur := none })) ∨
          (∃ e, k c = .trap e ∧ t = commit s (issueTrap c e)) ∨
          (∃ d, k c = .go d ∧ t = commit s (retire c d))))) := by
  simp only [issue] at h
  split at h
  · exact .inl (by cases h; rfl)
  · rename_i c hc
    split at h
    · exact .inl (by cases h; rfl)
    · rename_i e he
      exact .inr ⟨c, hc, .inl ⟨e, he, by cases h; rfl⟩⟩
    · rename_i he
      exact .inr ⟨c, hc, .inr (.inl ⟨he, by cases h; rfl⟩)⟩
    · rename_i he
      split at h
      · exact .inl (by cases h; rfl)
      · rename_i f hf
        exact .inr ⟨c, hc, .inr (.inr ⟨he, .inl ⟨f, hf, by cases h; rfl⟩⟩)⟩
      · rename_i e hf
        exact .inr ⟨c, hc, .inr (.inr ⟨he, .inr (.inl ⟨e, hf, by cases h; rfl⟩)⟩)⟩
      · rename_i d hd
        exact .inr ⟨c, hc, .inr (.inr ⟨he, .inr (.inr ⟨d, hd, by cases h; rfl⟩)⟩)⟩

/-- An issue always answers a next state. -/
theorem issue_next (i : Instr) (s : State) (k : Ctx → Act) : ∃ t, issue i s k = .next t := by
  simp only [issue]
  split
  · exact ⟨_, rfl⟩
  · split
    · exact ⟨_, rfl⟩
    · exact ⟨_, rfl⟩
    · exact ⟨_, rfl⟩
    · split
      · exact ⟨_, rfl⟩
      · exact ⟨_, rfl⟩
      · exact ⟨_, rfl⟩
      · exact ⟨_, rfl⟩

/-- An instruction whose checks pass and whose own part goes on takes effect. -/
theorem issue_go {i : Instr} {s : State} {c : Ctx} {k : Ctx → Act} {d : Done} (hc : ctxOf i s = some c) (hr : readyOf c = .run)
    (hk : k c = .go d) : issue i s k = .next (commit s (retire c d)) := by
  simp only [issue, hc, hr, hk]; rfl

/-- An instruction whose own part traps takes the trap. -/
theorem issue_trap {i : Instr} {s : State} {c : Ctx} {k : Ctx → Act} {e : Cause} (hc : ctxOf i s = some c) (hr : readyOf c = .run)
    (hk : k c = .trap e) : issue i s k = .next (commit s (issueTrap c e)) := by
  simp only [issue, hc, hr, hk]; rfl

/-- A common check that fails takes its trap, whatever the instruction. -/
theorem issue_check {i : Instr} {s : State} {c : Ctx} {k : Ctx → Act} {e : Cause} (hc : ctxOf i s = some c)
    (hr : readyOf c = .trap e) : issue i s k = .next (commit s (issueTrap c e)) := by
  simp only [issue, hc, hr]; rfl

/-- An issue keeps the invariant. -/
theorem issue_inv {i : Instr} {s t : State} {k : Ctx → Act} (h : s.Inv) (e : issue i s k = .next t) : t.Inv := by
  rcases issue_cases e with rfl | ⟨c, -, ⟨_, -, rfl⟩ | ⟨-, rfl⟩ | ⟨-, ⟨_, -, rfl⟩ | ⟨_, -, rfl⟩ | ⟨_, -, rfl⟩⟩⟩
  · exact h
  all_goals exact commit_inv h.1 _

/-- The context of an issue is the cursor's group with its team and grid, in the same state. -/
theorem ctxOf_eq {i : Instr} {s : State} {c : Ctx} (h : ctxOf i s = some c) :
    c.s = s ∧ c.i = i ∧ c.h = i.shape ∧ s.cur = some ⟨c.r, c.pc, c.slot2⟩ ∧ teamAt s c.r.team = some c.t
      ∧ groupAt s c.r = some c.g ∧ gridAt s c.r.team.grid = some c.gr
      ∧ c.act = if i.shape.pred.never then 0 else activeMask c.g c.pc i.shape.pred := by
  simp only [ctxOf] at h
  split at h
  · cases h
  · rename_i k hk
    split at h
    · rename_i t g gr ht hg hgr
      cases h
      exact ⟨rfl, rfl, rfl, hk, ht, hg, hgr, rfl⟩
    · cases h

/-! `event` and `bootEvent`. -/

/-- An event that can happen happens; otherwise nothing does. -/
theorem event_cases {s t : State} {can : Bool} {f : State → State} (h : event s can f = .next t) :
    t = s ∨ (can = true ∧ s.boot.recovery = false ∧ t = commit s (f s)) := by
  simp only [event] at h
  split at h
  · rename_i hc
    simp only [Bool.and_eq_true, Bool.not_eq_true'] at hc
    exact .inr ⟨hc.1, hc.2, by cases h; rfl⟩
  · exact .inl (by cases h; rfl)

theorem event_next (s : State) (can : Bool) (f : State → State) : ∃ t, event s can f = .next t := by
  simp only [event]; split <;> exact ⟨_, rfl⟩

theorem event_go {s : State} {can : Bool} {f : State → State} (hc : can = true) (hr : s.boot.recovery = false) :
    event s can f = .next (commit s (f s)) := by
  simp [event, hc, hr, next]

theorem event_inv {s t : State} {can : Bool} {f : State → State} (h : s.Inv) (e : event s can f = .next t) : t.Inv := by
  rcases event_cases e with rfl | ⟨-, -, rfl⟩
  · exact h
  · exact commit_inv h.1 _

theorem bootEvent_cases {s t : State} {can : Bool} {f : State → State} (h : bootEvent s can f = .next t) :
    t = s ∨ (can = true ∧ t = commit s (f s)) := by
  simp only [bootEvent] at h
  split at h
  · rename_i hc
    exact .inr ⟨hc, by cases h; rfl⟩
  · exact .inl (by cases h; rfl)

theorem bootEvent_next (s : State) (can : Bool) (f : State → State) : ∃ t, bootEvent s can f = .next t := by
  simp only [bootEvent]; split <;> exact ⟨_, rfl⟩

theorem bootEvent_go {s : State} {can : Bool} {f : State → State} (hc : can = true) :
    bootEvent s can f = .next (commit s (f s)) := by
  simp [bootEvent, hc, next]

theorem bootEvent_inv {s t : State} {can : Bool} {f : State → State} (h : s.Inv) (e : bootEvent s can f = .next t) : t.Inv := by
  rcases bootEvent_cases e with rfl | ⟨-, rfl⟩
  · exact h
  · exact commit_inv h.1 _

/-! The common actions. -/

/-- What an issued memory access can do. -/
theorem memAct_cases (c : Ctx) (a : Access) (dest now : Bool) :
    (a.lanes = 0 ∧ memAct c a dest now = .go { vec := if dest then some fun _ => 0 else none })
    ∨ memAct c a dest now = .stall
    ∨ memAct c a dest now = .hold (countStall c)
    ∨ memAct c a dest now = .go
        { vec := if dest then some fun _ => 0 else none, lazy := true, post := fun s => runTok (pushAccess c.r a s) c.r a.tok }
    ∨ memAct c a dest now = .go
        { vec := if dest then some fun _ => 0 else none, lazy := true, post := fun s => pushAccess c.r a s } := by
  simp only [memAct]
  split
  · exact .inl ⟨‹_›, rfl⟩
  · split
    · exact .inr (.inl rfl)
    · split
      · split
        · exact .inr (.inr (.inl rfl))
        · exact .inr (.inl rfl)
        · exact .inr (.inr (.inr (.inl rfl)))
      · cases now
        · exact .inr (.inr (.inr (.inr rfl)))
        · exact .inr (.inr (.inr (.inl rfl)))

/-- A memory access with active lanes enters the queue, outside a deterministic launch, when the queue has room. -/
theorem memAct_push {c : Ctx} {a : Access} {dest : Bool} (hl : a.lanes ≠ 0) (hq : queueFull c.g = false)
    (hd : lrDet c.gr.lr = false) :
    memAct c a dest false = .go
      { vec := if dest then some fun _ => 0 else none, lazy := true, post := fun s => pushAccess c.r a s } := by
  unfold memAct
  rw [if_neg hl, hq, hd]
  rfl

/-- What a control transfer can do. -/
theorem transferAct_cases (c : Ctx) (m : BitVec 32) (tg : Nat → DWord) (post : State → State) :
    (badTargets c m tg ≠ 0 ∧ transferAct c m tg post = badTarget (badTargets c m tg) tg)
    ∨ (badTargets c m tg = 0 ∧ transferAct c m tg post
        = .go { pcs := some fun l => if m.getLsbD l then tg l else pcNext c.pc, jump := m, post := post }) := by
  unfold transferAct
  by_cases h : badTargets c m tg = 0
  · exact .inr ⟨h, if_neg (fun e => e h)⟩
  · exact .inl ⟨h, if_pos h⟩

/-- A spill enters the queue, and in a deterministic launch is tried there. -/
theorem pushSpill_cases (c : Ctx) (a : Access) (s : State) :
    (lrDet c.gr.lr = false ∧ pushSpill c a s = pushAccess c.r a s)
    ∨ (lrDet c.gr.lr = true ∧ pushSpill c a s = runTok (pushAccess c.r a s) c.r a.tok) := by
  cases h : lrDet c.gr.lr
  · exact .inl ⟨rfl, by simp [pushSpill, h]⟩
  · exact .inr ⟨rfl, by simp [pushSpill, h]⟩

/-- What CALL and CALLX can do: a target is bad, the stack is full, the spill must wait, or the transfer is made, with or without a
spill. -/
theorem callAct_cases (c : Ctx) (tg : Nat → DWord) :
    (badTargets c c.act tg ≠ 0 ∧ callAct c tg = badTarget (badTargets c c.act tg) tg)
    ∨ (∃ m, m ≠ 0 ∧ callAct c tg = .trap ⟨tcStkovf, 0, 0, m, 0⟩)
    ∨ callAct c tg = .stall
    ∨ (badTargets c c.act tg = 0 ∧ ∃ f : State → State, callAct c tg = transferAct c c.act tg f ∧
        ∀ s, let u := updGroup s c.r fun g => updThreads g c.act fun _ th =>
            { th with stack := (some (pcNext c.pc) :: th.stack).take 8, depth := th.depth + 1 }
          f s = u ∨ ∃ a, f s = pushSpill c a u) := by
  simp only [callAct]
  split
  · exact .inl ⟨‹_›, rfl⟩
  · rename_i h
    split
    · exact .inr (.inl ⟨_, ‹_›, rfl⟩)
    · split
      · exact .inr (.inr (.inl rfl))
      · split
        · exact .inr (.inr (.inl rfl))
        · refine .inr (.inr (.inr ⟨Decidable.not_not.1 h, _, rfl, fun s => ?_⟩))
          split
          · exact .inl rfl
          · exact .inr ⟨_, rfl⟩

/-- What a barrier instruction can do. -/
theorem barAct_cases (c : Ctx) (k : BarKey) (wait : Bool) :
    barAct c k wait = .stall ∨ barAct c k wait = effect c (barEffect c k wait) := by
  unfold barAct
  dsimp only
  generalize (c.act != 0 && (unperformed c || _)) = b
  cases b
  · exact .inr rfl
  · exact .inl rfl

/-- What a request to the Milliner can do at its issue. -/
theorem requestAct_cases (c : Ctx) (f : RRR) :
    (c.act = 0 ∧ requestAct c f = .go {}) ∨ requestAct c f = .stall
    ∨ ∃ a, requestAct c f = .go { vec := some fun _ => 0, lazy := true, post := pushAccess c.r a } := by
  simp only [requestAct]
  split
  · exact .inl ⟨‹_›, rfl⟩
  · split
    · exact .inr (.inl rfl)
    · exact .inr (.inr ⟨_, rfl⟩)

/-- What a group wait can do at its issue. -/
theorem waitAct_cases (c : Ctx) (a : Access) (post : State → State) :
    (c.act = 0 ∧ waitAct c a post = .go { vec := some fun _ => 0 }) ∨ waitAct c a post = .stall
    ∨ waitAct c a post = .go { vec := some fun _ => 0, lazy := true, post := fun s => post (pushAccess c.r a s) } := by
  simp only [waitAct]
  split
  · exact .inl ⟨‹_›, rfl⟩
  · split
    · exact .inr (.inl rfl)
    · exact .inr (.inr rfl)

/-! Fetching. -/

/-- The line of a group's slot: one that the fetch buffer holds, or it is translated and checked (R54). -/
theorem groupFetch_held {g : Group} {line : Nat} {x : Nat × Nat} (h : (g.lines.find? fun x => x.1 == line) = some x)
    (s : State) (gr : Grid) (core : Nat) : groupFetch s gr core g line = .inl x.2 := by
  simp only [groupFetch, h]
theorem groupFetch_empty {g : Group} (h : g.lines = []) (s : State) (gr : Grid) (core line : Nat) :
    groupFetch s gr core g line = fetchAddr s gr core line := by
  simp [groupFetch, h]
/-- The buffer holds two lines at most, the current one first. -/
theorem bufferLines_length (s : State) (gr : Grid) (core : Nat) (g : Group) (line pa : Nat) : (bufferLines s gr core g line pa).length ≤ 2 := by
  unfold bufferLines; split <;> simp
theorem bufferLines_head (s : State) (gr : Grid) (core : Nat) (g : Group) (line pa : Nat) :
    (bufferLines s gr core g line pa).head? = some (line, pa) := rfl

/-! Taking a trap. -/

/-- A trap stops the partition, or the group enters its handler one level deeper, at the vector entry of its code. -/
theorem takeTrap_cases {s : State} {r : GroupRef} {c : Cause} {slot2 : Bool} {tpoint tresume : DWord} {held stay : List Access}
    {t : Team} {g : Group} {gr : Grid} (ht : teamAt s r.team = some t) (hg : groupAt s r = some g)
    (hgr : gridAt s r.team.grid = some gr) :
    takeTrap s r c slot2 tpoint tresume held stay = mcheck s t.part ∨
    ∃ entry, vectorEntry s t gr c.code = some entry ∧ g.saved.length < 2 ∧
      ∃ s' f, (∀ g, (f g).status = .handler ∧ (f g).gpc = entry ∧ (f g).queue = stay) ∧
        takeTrap s r c slot2 tpoint tresume held stay = updGroup s' r f := by
  simp only [takeTrap, ht, hg, hgr]
  split
  · exact .inl rfl
  · rename_i entry he
    split
    · exact .inl rfl
    · rename_i hl
      split
      · exact .inl rfl
      · refine .inr ⟨entry, he, by omega, _, _, ?_, rfl⟩
        exact fun g => ⟨rfl, rfl, rfl⟩

end Sys2Proof.Machine
end

