-- ==== Sys2Proof/Laws/PerInstr.lean ====
section
/-! SUPPORT. The family `OpcodeRow`: the code of an instruction (its opcode, minor opcode and payload, R90, R96) names the row of
the opcode map from which the decoder builds that same instruction, so that the encoder and the decoder use one table. -/

namespace Sys2Proof.Laws

/-- The instruction that a row of the opcode map builds from a payload; none where the formats differ. -/
def OpcodeRow.build (o : Option OpForm) (p : Payload) : Option Instr :=
  match o, p with
  | some (.rrr mk), .rrr f => some (mk f)
  | some (.ri mk), .ri f => some (mk f)
  | some (.mf mk), .mf f => some (mk f)
  | some (.bf mk), .bf f => some (mk f)
  | _, _ => none

/-- The opcode fits its field, the minor opcode fits its field, and the row of a well-formed instruction builds it; an event has
no code. -/
def OpcodeRow.Statement (i : Instr) : Prop :=
  match i.code with
  | none => encode i = 0
  | some (o, s, p) => o < 256 ∧ s < 16 ∧ (i.wf = true → OpcodeRow.build (opForm o s) p = some i)

theorem OpcodeRow.nop (f : RRR) : OpcodeRow.Statement (.nop f) := ⟨by decide, by decide, fun _ => rfl⟩
theorem OpcodeRow.iadd (f : RRR) : OpcodeRow.Statement (.iadd f) := ⟨by decide, by decide, fun _ => rfl⟩
theorem OpcodeRow.iaddi (f : RI) : OpcodeRow.Statement (.iaddi f) := ⟨by decide, by decide, fun _ => rfl⟩
theorem OpcodeRow.isub (f : RRR) : OpcodeRow.Statement (.isub f) := ⟨by decide, by decide, fun _ => rfl⟩
theorem OpcodeRow.imul (f : RRR) : OpcodeRow.Statement (.imul f) := ⟨by decide, by decide, fun _ => rfl⟩
theorem OpcodeRow.imulh (f : RRR) : OpcodeRow.Statement (.imulh f) := ⟨by decide, by decide, fun _ => rfl⟩
theorem OpcodeRow.imad (f : RRR) : OpcodeRow.Statement (.imad f) := ⟨by decide, by decide, fun _ => rfl⟩
theorem OpcodeRow.idiv (f : RRR) : OpcodeRow.Statement (.idiv f) := ⟨by decide, by decide, fun _ => rfl⟩
theorem OpcodeRow.imin (f : RRR) : OpcodeRow.Statement (.imin f) := ⟨by decide, by decide, fun _ => rfl⟩
theorem OpcodeRow.imax (f : RRR) : OpcodeRow.Statement (.imax f) := ⟨by decide, by decide, fun _ => rfl⟩
theorem OpcodeRow.iabs (f : RRR) : OpcodeRow.Statement (.iabs f) := ⟨by decide, by decide, fun _ => rfl⟩
theorem OpcodeRow.icmp (k : Cc) (f : RRR) : OpcodeRow.Statement (.icmp k f) := by
  cases k <;> exact ⟨by decide, by decide, fun _ => rfl⟩
theorem OpcodeRow.icmpi (k : Cc) (f : RI) : OpcodeRow.Statement (.icmpi k f) := by
  cases k <;> exact ⟨by decide, by decide, fun _ => rfl⟩
theorem OpcodeRow.lop3 (f : RRR) : OpcodeRow.Statement (.lop3 f) := ⟨by decide, by decide, fun _ => rfl⟩
theorem OpcodeRow.lopi (f : RI) : OpcodeRow.Statement (.lopi f) := ⟨by decide, by decide, fun _ => rfl⟩
theorem OpcodeRow.shf (k : ShiftKind) (f : RRR) : OpcodeRow.Statement (.shf k f) := by
  cases k <;> exact ⟨by decide, by decide, fun _ => rfl⟩
theorem OpcodeRow.shfi (k : ShiftKind) (f : RI) : OpcodeRow.Statement (.shfi k f) := by
  cases k <;> exact ⟨by decide, by decide, fun _ => rfl⟩
theorem OpcodeRow.bfe (f : RRR) : OpcodeRow.Statement (.bfe f) := ⟨by decide, by decide, fun _ => rfl⟩
theorem OpcodeRow.bfi (f : RRR) : OpcodeRow.Statement (.bfi f) := ⟨by decide, by decide, fun _ => rfl⟩
theorem OpcodeRow.popc (f : RRR) : OpcodeRow.Statement (.popc f) := ⟨by decide, by decide, fun _ => rfl⟩
theorem OpcodeRow.clz (f : RRR) : OpcodeRow.Statement (.clz f) := ⟨by decide, by decide, fun _ => rfl⟩
theorem OpcodeRow.brev (f : RRR) : OpcodeRow.Statement (.brev f) := ⟨by decide, by decide, fun _ => rfl⟩
theorem OpcodeRow.sel (f : RRR) : OpcodeRow.Statement (.sel f) := ⟨by decide, by decide, fun _ => rfl⟩
theorem OpcodeRow.mov (f : RRR) : OpcodeRow.Statement (.mov f) := ⟨by decide, by decide, fun _ => rfl⟩
theorem OpcodeRow.movi (f : RI) : OpcodeRow.Statement (.movi f) := ⟨by decide, by decide, fun _ => rfl⟩
theorem OpcodeRow.movsr (f : RI) : OpcodeRow.Statement (.movsr f) := ⟨by decide, by decide, fun _ => rfl⟩
theorem OpcodeRow.add64 (f : RRR) : OpcodeRow.Statement (.add64 f) := ⟨by decide, by decide, fun _ => rfl⟩
theorem OpcodeRow.add64i (f : RI) : OpcodeRow.Statement (.add64i f) := ⟨by decide, by decide, fun _ => rfl⟩
theorem OpcodeRow.mad64 (f : RRR) : OpcodeRow.Statement (.mad64 f) := ⟨by decide, by decide, fun _ => rfl⟩
theorem OpcodeRow.lea (f : RRR) : OpcodeRow.Statement (.lea f) := ⟨by decide, by decide, fun _ => rfl⟩
theorem OpcodeRow.cmp64 (k : Cc) (f : RRR) : OpcodeRow.Statement (.cmp64 k f) := by
  cases k <;> exact ⟨by decide, by decide, fun _ => rfl⟩
theorem OpcodeRow.pset (f : RRR) : OpcodeRow.Statement (.pset f) := ⟨by decide, by decide, fun _ => rfl⟩
theorem OpcodeRow.pmov (f : RRR) : OpcodeRow.Statement (.pmov f) := ⟨by decide, by decide, fun _ => rfl⟩
theorem OpcodeRow.idot4 (f : RRR) : OpcodeRow.Statement (.idot4 f) := ⟨by decide, by decide, fun _ => rfl⟩
theorem OpcodeRow.prmt (f : RRR) : OpcodeRow.Statement (.prmt f) := ⟨by decide, by decide, fun _ => rfl⟩
theorem OpcodeRow.fadd (f : RRR) : OpcodeRow.Statement (.fadd f) := ⟨by decide, by decide, fun _ => rfl⟩
theorem OpcodeRow.fmul (f : RRR) : OpcodeRow.Statement (.fmul f) := ⟨by decide, by decide, fun _ => rfl⟩
theorem OpcodeRow.ffma (f : RRR) : OpcodeRow.Statement (.ffma f) := ⟨by decide, by decide, fun _ => rfl⟩
theorem OpcodeRow.fmin (f : RRR) : OpcodeRow.Statement (.fmin f) := ⟨by decide, by decide, fun _ => rfl⟩
theorem OpcodeRow.fmax (f : RRR) : OpcodeRow.Statement (.fmax f) := ⟨by decide, by decide, fun _ => rfl⟩
theorem OpcodeRow.fcmp (k : Fcc) (f : RRR) : OpcodeRow.Statement (.fcmp k f) := by
  cases k <;> exact ⟨by decide, by decide, fun _ => rfl⟩
theorem OpcodeRow.fclass (f : RRR) : OpcodeRow.Statement (.fclass f) := ⟨by decide, by decide, fun _ => rfl⟩
theorem OpcodeRow.fscale (f : RRR) : OpcodeRow.Statement (.fscale f) := ⟨by decide, by decide, fun _ => rfl⟩
theorem OpcodeRow.frnd (f : RRR) : OpcodeRow.Statement (.frnd f) := ⟨by decide, by decide, fun _ => rfl⟩
theorem OpcodeRow.fdiv (f : RRR) : OpcodeRow.Statement (.fdiv f) := ⟨by decide, by decide, fun _ => rfl⟩
theorem OpcodeRow.fsqrt (f : RRR) : OpcodeRow.Statement (.fsqrt f) := ⟨by decide, by decide, fun _ => rfl⟩
theorem OpcodeRow.frcp (f : RRR) : OpcodeRow.Statement (.frcp f) := ⟨by decide, by decide, fun _ => rfl⟩
theorem OpcodeRow.frsq (f : RRR) : OpcodeRow.Statement (.frsq f) := ⟨by decide, by decide, fun _ => rfl⟩
theorem OpcodeRow.fexp2 (f : RRR) : OpcodeRow.Statement (.fexp2 f) := ⟨by decide, by decide, fun _ => rfl⟩
theorem OpcodeRow.flog2 (f : RRR) : OpcodeRow.Statement (.flog2 f) := ⟨by decide, by decide, fun _ => rfl⟩
theorem OpcodeRow.fsin (f : RRR) : OpcodeRow.Statement (.fsin f) := ⟨by decide, by decide, fun _ => rfl⟩
theorem OpcodeRow.fcos (f : RRR) : OpcodeRow.Statement (.fcos f) := ⟨by decide, by decide, fun _ => rfl⟩
theorem OpcodeRow.ftanh (f : RRR) : OpcodeRow.Statement (.ftanh f) := ⟨by decide, by decide, fun _ => rfl⟩
theorem OpcodeRow.cvt (f : RRR) : OpcodeRow.Statement (.cvt f) := ⟨by decide, by decide, fun _ => rfl⟩
theorem OpcodeRow.cvti (f : RRR) : OpcodeRow.Statement (.cvti f) := ⟨by decide, by decide, fun _ => rfl⟩
theorem OpcodeRow.cvtsr (f : RRR) : OpcodeRow.Statement (.cvtsr f) := ⟨by decide, by decide, fun _ => rfl⟩
theorem OpcodeRow.bxpack (f : RRR) : OpcodeRow.Statement (.bxpack f) := ⟨by decide, by decide, fun _ => rfl⟩
theorem OpcodeRow.bxunp (f : RRR) : OpcodeRow.Statement (.bxunp f) := ⟨by decide, by decide, fun _ => rfl⟩
theorem OpcodeRow.faddi (f : RI) : OpcodeRow.Statement (.faddi f) := ⟨by decide, by decide, fun _ => rfl⟩
theorem OpcodeRow.fmuli (f : RI) : OpcodeRow.Statement (.fmuli f) := ⟨by decide, by decide, fun _ => rfl⟩
theorem OpcodeRow.rngdraw (f : RRR) : OpcodeRow.Statement (.rngdraw f) := ⟨by decide, by decide, fun _ => rfl⟩
theorem OpcodeRow.rngskip (f : RRR) : OpcodeRow.Statement (.rngskip f) := ⟨by decide, by decide, fun _ => rfl⟩
theorem OpcodeRow.bra (f : BF) : OpcodeRow.Statement (.bra f) := ⟨by decide, by decide, fun _ => rfl⟩
theorem OpcodeRow.brau (k : UTest) (f : BF) : OpcodeRow.Statement (.brau k f) := by
  cases k <;> exact ⟨by decide, by decide, fun _ => rfl⟩
theorem OpcodeRow.brx (f : BF) : OpcodeRow.Statement (.brx f) := ⟨by decide, by decide, fun _ => rfl⟩
theorem OpcodeRow.call (f : BF) : OpcodeRow.Statement (.call f) := ⟨by decide, by decide, fun _ => rfl⟩
theorem OpcodeRow.callx (f : BF) : OpcodeRow.Statement (.callx f) := ⟨by decide, by decide, fun _ => rfl⟩
theorem OpcodeRow.ret (f : BF) : OpcodeRow.Statement (.ret f) := ⟨by decide, by decide, fun _ => rfl⟩
theorem OpcodeRow.loopu (f : BF) : OpcodeRow.Statement (.loopu f) := ⟨by decide, by decide, fun _ => rfl⟩
theorem OpcodeRow.exit (f : RRR) : OpcodeRow.Statement (.exit f) := ⟨by decide, by decide, fun _ => rfl⟩
theorem OpcodeRow.trap (f : RI) : OpcodeRow.Statement (.trap f) := ⟨by decide, by decide, fun _ => rfl⟩
theorem OpcodeRow.trapret (f : RRR) : OpcodeRow.Statement (.trapret f) := ⟨by decide, by decide, fun _ => rfl⟩
theorem OpcodeRow.yield (f : RRR) : OpcodeRow.Statement (.yield f) := ⟨by decide, by decide, fun _ => rfl⟩
theorem OpcodeRow.csrr (f : RI) : OpcodeRow.Statement (.csrr f) := ⟨by decide, by decide, fun _ => rfl⟩
theorem OpcodeRow.csrw (k : CsrOp) (f : RI) : OpcodeRow.Statement (.csrw k f) := by
  cases k <;> exact ⟨by decide, by decide, fun _ => rfl⟩
theorem OpcodeRow.bkpt (f : RI) : OpcodeRow.Statement (.bkpt f) := ⟨by decide, by decide, fun _ => rfl⟩
theorem OpcodeRow.ld (f : MF) : OpcodeRow.Statement (.ld f) := ⟨by decide, by decide, fun _ => rfl⟩
theorem OpcodeRow.st (f : MF) : OpcodeRow.Statement (.st f) := ⟨by decide, by decide, fun _ => rfl⟩
theorem OpcodeRow.lds (f : MF) : OpcodeRow.Statement (.lds f) := ⟨by decide, by decide, fun _ => rfl⟩
theorem OpcodeRow.sts (f : MF) : OpcodeRow.Statement (.sts f) := ⟨by decide, by decide, fun _ => rfl⟩
theorem OpcodeRow.ldu (f : MF) : OpcodeRow.Statement (.ldu f) := ⟨by decide, by decide, fun _ => rfl⟩
theorem OpcodeRow.atom (k : AtomOp) (f : MF) : OpcodeRow.Statement (.atom k f) := by
  cases k <;> exact ⟨by decide, by decide, fun _ => rfl⟩
theorem OpcodeRow.red (k : AtomOp) (f : MF) : OpcodeRow.Statement (.red k f) := by
  cases k <;> first | exact ⟨by decide, by decide, fun _ => rfl⟩ | exact ⟨by decide, by decide, fun h => by simp [Instr.wf, Instr.shape, MF.shape] at h⟩
theorem OpcodeRow.atoms (k : AtomOp) (f : MF) : OpcodeRow.Statement (.atoms k f) := by
  cases k <;> exact ⟨by decide, by decide, fun _ => rfl⟩
theorem OpcodeRow.cas (f : MF) : OpcodeRow.Statement (.cas f) := ⟨by decide, by decide, fun _ => rfl⟩
theorem OpcodeRow.pref (k : PrefLevel) (f : MF) : OpcodeRow.Statement (.pref k f) := by
  cases k <;> exact ⟨by decide, by decide, fun _ => rfl⟩
theorem OpcodeRow.fence (k : FenceKind) (f : MF) : OpcodeRow.Statement (.fence k f) := by
  cases k <;> exact ⟨by decide, by decide, fun _ => rfl⟩
theorem OpcodeRow.racq (f : MF) : OpcodeRow.Statement (.racq f) := ⟨by decide, by decide, fun _ => rfl⟩
theorem OpcodeRow.mwait (k : Timed) (f : MF) : OpcodeRow.Statement (.mwait k f) := by
  cases k <;> exact ⟨by decide, by decide, fun _ => rfl⟩
theorem OpcodeRow.shfl (k : ShflKind) (f : RRR) : OpcodeRow.Statement (.shfl k f) := by
  cases k <;> exact ⟨by decide, by decide, fun _ => rfl⟩
theorem OpcodeRow.vote (k : VoteKind) (f : RRR) : OpcodeRow.Statement (.vote k f) := by
  cases k <;> exact ⟨by decide, by decide, fun _ => rfl⟩
theorem OpcodeRow.scan (k : ScanKind) (f : RRR) : OpcodeRow.Statement (.scan k f) := by
  cases k <;> exact ⟨by decide, by decide, fun _ => rfl⟩
theorem OpcodeRow.gred (f : RRR) : OpcodeRow.Statement (.gred f) := ⟨by decide, by decide, fun _ => rfl⟩
theorem OpcodeRow.fmaxi (f : RRR) : OpcodeRow.Statement (.fmaxi f) := ⟨by decide, by decide, fun _ => rfl⟩
theorem OpcodeRow.fmini (f : RRR) : OpcodeRow.Statement (.fmini f) := ⟨by decide, by decide, fun _ => rfl⟩
theorem OpcodeRow.sample (f : RRR) : OpcodeRow.Statement (.sample f) := ⟨by decide, by decide, fun _ => rfl⟩
theorem OpcodeRow.matchLanes (k : MatchKind) (f : RRR) : OpcodeRow.Statement (.matchLanes k f) := by
  cases k <;> exact ⟨by decide, by decide, fun _ => rfl⟩
theorem OpcodeRow.lser (f : RRR) : OpcodeRow.Statement (.lser f) := ⟨by decide, by decide, fun _ => rfl⟩
theorem OpcodeRow.lsend (f : RRR) : OpcodeRow.Statement (.lsend f) := ⟨by decide, by decide, fun _ => rfl⟩
theorem OpcodeRow.rehome (f : RRR) : OpcodeRow.Statement (.rehome f) := ⟨by decide, by decide, fun _ => rfl⟩
theorem OpcodeRow.lfsrset (f : RI) : OpcodeRow.Statement (.lfsrset f) := ⟨by decide, by decide, fun _ => rfl⟩
theorem OpcodeRow.gjoin (f : RRR) : OpcodeRow.Statement (.gjoin f) := ⟨by decide, by decide, fun _ => rfl⟩
theorem OpcodeRow.umov (f : RI) : OpcodeRow.Statement (.umov f) := ⟨by decide, by decide, fun _ => rfl⟩
theorem OpcodeRow.uadd (f : RI) : OpcodeRow.Statement (.uadd f) := ⟨by decide, by decide, fun _ => rfl⟩
theorem OpcodeRow.umad (f : RRR) : OpcodeRow.Statement (.umad f) := ⟨by decide, by decide, fun _ => rfl⟩
theorem OpcodeRow.ulop3 (f : RRR) : OpcodeRow.Statement (.ulop3 f) := ⟨by decide, by decide, fun _ => rfl⟩
theorem OpcodeRow.ushf (f : RI) : OpcodeRow.Statement (.ushf f) := ⟨by decide, by decide, fun _ => rfl⟩
theorem OpcodeRow.ucmp (f : RI) : OpcodeRow.Statement (.ucmp f) := ⟨by decide, by decide, fun _ => rfl⟩
theorem OpcodeRow.uown (f : RI) : OpcodeRow.Statement (.uown f) := ⟨by decide, by decide, fun _ => rfl⟩
theorem OpcodeRow.barSync (f : RI) : OpcodeRow.Statement (.barSync f) := ⟨by decide, by decide, fun _ => rfl⟩
theorem OpcodeRow.barArv (f : RI) : OpcodeRow.Statement (.barArv f) := ⟨by decide, by decide, fun _ => rfl⟩
theorem OpcodeRow.bart (f : RI) : OpcodeRow.Statement (.bart f) := ⟨by decide, by decide, fun _ => rfl⟩
theorem OpcodeRow.arrinit (f : MF) : OpcodeRow.Statement (.arrinit f) := ⟨by decide, by decide, fun _ => rfl⟩
theorem OpcodeRow.arradd (f : MF) : OpcodeRow.Statement (.arradd f) := ⟨by decide, by decide, fun _ => rfl⟩
theorem OpcodeRow.arrwait (k : Timed) (f : MF) : OpcodeRow.Statement (.arrwait k f) := by
  cases k <;> exact ⟨by decide, by decide, fun _ => rfl⟩
theorem OpcodeRow.hqinit (f : RI) : OpcodeRow.Statement (.hqinit f) := ⟨by decide, by decide, fun _ => rfl⟩
theorem OpcodeRow.hqpush (f : RRR) : OpcodeRow.Statement (.hqpush f) := ⟨by decide, by decide, fun _ => rfl⟩
theorem OpcodeRow.hqpop (f : RRR) : OpcodeRow.Statement (.hqpop f) := ⟨by decide, by decide, fun _ => rfl⟩
theorem OpcodeRow.hqallow (f : RI) : OpcodeRow.Statement (.hqallow f) := ⟨by decide, by decide, fun _ => rfl⟩
theorem OpcodeRow.lqcfg (f : RI) : OpcodeRow.Statement (.lqcfg f) := ⟨by decide, by decide, fun _ => rfl⟩
theorem OpcodeRow.bankmode (f : RI) : OpcodeRow.Statement (.bankmode f) := ⟨by decide, by decide, fun _ => rfl⟩
theorem OpcodeRow.accalloc (f : RI) : OpcodeRow.Statement (.accalloc f) := ⟨by decide, by decide, fun _ => rfl⟩
theorem OpcodeRow.accfree (f : RI) : OpcodeRow.Statement (.accfree f) := ⟨by decide, by decide, fun _ => rfl⟩
theorem OpcodeRow.aecfg (f : MF) : OpcodeRow.Statement (.aecfg f) := ⟨by decide, by decide, fun _ => rfl⟩
theorem OpcodeRow.aego (f : RI) : OpcodeRow.Statement (.aego f) := ⟨by decide, by decide, fun _ => rfl⟩
theorem OpcodeRow.aestop (f : RI) : OpcodeRow.Statement (.aestop f) := ⟨by decide, by decide, fun _ => rfl⟩
theorem OpcodeRow.role (f : RI) : OpcodeRow.Statement (.role f) := ⟨by decide, by decide, fun _ => rfl⟩
theorem OpcodeRow.tmap (f : RRR) : OpcodeRow.Statement (.tmap f) := ⟨by decide, by decide, fun _ => rfl⟩
theorem OpcodeRow.tmapf (f : RI) : OpcodeRow.Statement (.tmapf f) := ⟨by decide, by decide, fun _ => rfl⟩
theorem OpcodeRow.mqma (f : RRR) : OpcodeRow.Statement (.mqma f) := ⟨by decide, by decide, fun _ => rfl⟩
theorem OpcodeRow.mqmas (f : RRR) : OpcodeRow.Statement (.mqmas f) := ⟨by decide, by decide, fun _ => rfl⟩
theorem OpcodeRow.mzero (f : RI) : OpcodeRow.Statement (.mzero f) := ⟨by decide, by decide, fun _ => rfl⟩
theorem OpcodeRow.mload (f : MF) : OpcodeRow.Statement (.mload f) := ⟨by decide, by decide, fun _ => rfl⟩
theorem OpcodeRow.mdrain (f : MF) : OpcodeRow.Statement (.mdrain f) := ⟨by decide, by decide, fun _ => rfl⟩
theorem OpcodeRow.mdrainAdd (f : MF) : OpcodeRow.Statement (.mdrainAdd f) := ⟨by decide, by decide, fun _ => rfl⟩
theorem OpcodeRow.mwaita (f : RI) : OpcodeRow.Statement (.mwaita f) := ⟨by decide, by decide, fun _ => rfl⟩
theorem OpcodeRow.attn (k : AttnMask) (f : RRR) : OpcodeRow.Statement (.attn k f) := by
  cases k <;> exact ⟨by decide, by decide, fun _ => rfl⟩
theorem OpcodeRow.attnf (f : RI) : OpcodeRow.Statement (.attnf f) := ⟨by decide, by decide, fun _ => rfl⟩
theorem OpcodeRow.heaprd (f : RI) : OpcodeRow.Statement (.heaprd f) := ⟨by decide, by decide, fun _ => rfl⟩
theorem OpcodeRow.heaprdTopk (f : RI) : OpcodeRow.Statement (.heaprdTopk f) := ⟨by decide, by decide, fun _ => rfl⟩
theorem OpcodeRow.heaprdTopp (f : RI) : OpcodeRow.Statement (.heaprdTopp f) := ⟨by decide, by decide, fun _ => rfl⟩
theorem OpcodeRow.heapclr (f : RI) : OpcodeRow.Statement (.heapclr f) := ⟨by decide, by decide, fun _ => rfl⟩
theorem OpcodeRow.copy (k : CopyDims) (f : MF) : OpcodeRow.Statement (.copy k f) := by
  cases k <;> exact ⟨by decide, by decide, fun _ => rfl⟩
theorem OpcodeRow.gather (f : MF) : OpcodeRow.Statement (.gather f) := ⟨by decide, by decide, fun _ => rfl⟩
theorem OpcodeRow.copyst (f : MF) : OpcodeRow.Statement (.copyst f) := ⟨by decide, by decide, fun _ => rfl⟩
theorem OpcodeRow.cbar (f : RI) : OpcodeRow.Statement (.cbar f) := ⟨by decide, by decide, fun _ => rfl⟩
theorem OpcodeRow.tlbinvPage (f : MF) : OpcodeRow.Statement (.tlbinvPage f) := ⟨by decide, by decide, fun _ => rfl⟩
theorem OpcodeRow.tlbinvAsid (f : MF) : OpcodeRow.Statement (.tlbinvAsid f) := ⟨by decide, by decide, fun _ => rfl⟩
theorem OpcodeRow.tlbinvAll (f : MF) : OpcodeRow.Statement (.tlbinvAll f) := ⟨by decide, by decide, fun _ => rfl⟩
theorem OpcodeRow.slogctlQuery (f : RI) : OpcodeRow.Statement (.slogctlQuery f) := ⟨by decide, by decide, fun _ => rfl⟩
theorem OpcodeRow.slogctlDrain (f : RI) : OpcodeRow.Statement (.slogctlDrain f) := ⟨by decide, by decide, fun _ => rfl⟩
theorem OpcodeRow.dbar (f : RI) : OpcodeRow.Statement (.dbar f) := ⟨by decide, by decide, fun _ => rfl⟩
theorem OpcodeRow.tkwait (f : RI) : OpcodeRow.Statement (.tkwait f) := ⟨by decide, by decide, fun _ => rfl⟩
theorem OpcodeRow.tkcommit (f : RI) : OpcodeRow.Statement (.tkcommit f) := ⟨by decide, by decide, fun _ => rfl⟩
theorem OpcodeRow.lnch (f : MF) : OpcodeRow.Statement (.lnch f) := ⟨by decide, by decide, fun _ => rfl⟩
theorem OpcodeRow.lnchLast (f : MF) : OpcodeRow.Statement (.lnchLast f) := ⟨by decide, by decide, fun _ => rfl⟩
theorem OpcodeRow.gridbar (f : RI) : OpcodeRow.Statement (.gridbar f) := ⟨by decide, by decide, fun _ => rfl⟩
theorem OpcodeRow.dscale (f : RI) : OpcodeRow.Statement (.dscale f) := ⟨by decide, by decide, fun _ => rfl⟩
theorem OpcodeRow.ttfork (f : RRR) : OpcodeRow.Statement (.ttfork f) := ⟨by decide, by decide, fun _ => rfl⟩
theorem OpcodeRow.ttappend (f : RRR) : OpcodeRow.Statement (.ttappend f) := ⟨by decide, by decide, fun _ => rfl⟩
theorem OpcodeRow.ttprune (f : RRR) : OpcodeRow.Statement (.ttprune f) := ⟨by decide, by decide, fun _ => rfl⟩
theorem OpcodeRow.ttcommit (f : RRR) : OpcodeRow.Statement (.ttcommit f) := ⟨by decide, by decide, fun _ => rfl⟩
theorem OpcodeRow.ttwalk (f : RRR) : OpcodeRow.Statement (.ttwalk f) := ⟨by decide, by decide, fun _ => rfl⟩
theorem OpcodeRow.ttrefAttach (f : RRR) : OpcodeRow.Statement (.ttrefAttach f) := ⟨by decide, by decide, fun _ => rfl⟩
theorem OpcodeRow.ttrefDetach (f : RRR) : OpcodeRow.Statement (.ttrefDetach f) := ⟨by decide, by decide, fun _ => rfl⟩
theorem OpcodeRow.ttrefPin (f : RRR) : OpcodeRow.Statement (.ttrefPin f) := ⟨by decide, by decide, fun _ => rfl⟩
theorem OpcodeRow.ttrefUnpin (f : RRR) : OpcodeRow.Statement (.ttrefUnpin f) := ⟨by decide, by decide, fun _ => rfl⟩
theorem OpcodeRow.ttrefEvict (f : RRR) : OpcodeRow.Statement (.ttrefEvict f) := ⟨by decide, by decide, fun _ => rfl⟩
theorem OpcodeRow.ttqueryFree (f : RRR) : OpcodeRow.Statement (.ttqueryFree f) := ⟨by decide, by decide, fun _ => rfl⟩
theorem OpcodeRow.ttqueryReserve (f : RRR) : OpcodeRow.Statement (.ttqueryReserve f) := ⟨by decide, by decide, fun _ => rfl⟩
theorem OpcodeRow.ttqueryState (f : RRR) : OpcodeRow.Statement (.ttqueryState f) := ⟨by decide, by decide, fun _ => rfl⟩
theorem OpcodeRow.detok (f : RRR) : OpcodeRow.Statement (.detok f) := ⟨by decide, by decide, fun _ => rfl⟩
theorem OpcodeRow.tokstep (f : RRR) : OpcodeRow.Statement (.tokstep f) := ⟨by decide, by decide, fun _ => rfl⟩
theorem OpcodeRow.xfput (f : MF) : OpcodeRow.Statement (.xfput f) := ⟨by decide, by decide, fun _ => rfl⟩
theorem OpcodeRow.xfget (f : MF) : OpcodeRow.Statement (.xfget f) := ⟨by decide, by decide, fun _ => rfl⟩
theorem OpcodeRow.xfwork (f : MF) : OpcodeRow.Statement (.xfwork f) := ⟨by decide, by decide, fun _ => rfl⟩
theorem OpcodeRow.xfred (f : MF) : OpcodeRow.Statement (.xfred f) := ⟨by decide, by decide, fun _ => rfl⟩
theorem OpcodeRow.xfsred (f : MF) : OpcodeRow.Statement (.xfsred f) := ⟨by decide, by decide, fun _ => rfl⟩
theorem OpcodeRow.xffence (f : RI) : OpcodeRow.Statement (.xffence f) := ⟨by decide, by decide, fun _ => rfl⟩
theorem OpcodeRow.loadCompletion (g : GroupRef) (k : Nat) : OpcodeRow.Statement (.loadCompletion g k) := rfl
theorem OpcodeRow.accessRetirement (g : GroupRef) (k : Nat) : OpcodeRow.Statement (.accessRetirement g k) := rfl
theorem OpcodeRow.trapEntry (g : GroupRef) : OpcodeRow.Statement (.trapEntry g) := rfl
theorem OpcodeRow.barrierTimeout (w : WaitRef) : OpcodeRow.Statement (.barrierTimeout w) := rfl
theorem OpcodeRow.arrwaitTimeout (g : GroupRef) : OpcodeRow.Statement (.arrwaitTimeout g) := rfl
theorem OpcodeRow.bartTimeout (g : GroupRef) (lane : Nat) : OpcodeRow.Statement (.bartTimeout g lane) := rfl
theorem OpcodeRow.groupWaitTimeout (g : GroupRef) : OpcodeRow.Statement (.groupWaitTimeout g) := rfl
theorem OpcodeRow.hqWaitTimeout (g : GroupRef) : OpcodeRow.Statement (.hqWaitTimeout g) := rfl
theorem OpcodeRow.accallocTimeout (g : GroupRef) : OpcodeRow.Statement (.accallocTimeout g) := rfl
theorem OpcodeRow.aeStreamElement (t : TeamRef) : OpcodeRow.Statement (.aeStreamElement t) := rfl
theorem OpcodeRow.quarterOpStart (t : TeamRef) : OpcodeRow.Statement (.quarterOpStart t) := rfl
theorem OpcodeRow.tileTransferStart (t : TeamRef) : OpcodeRow.Statement (.tileTransferStart t) := rfl
theorem OpcodeRow.engineOpCompletion (t : TeamRef) : OpcodeRow.Statement (.engineOpCompletion t) := rfl
theorem OpcodeRow.engineFault (t : TeamRef) : OpcodeRow.Statement (.engineFault t) := rfl
theorem OpcodeRow.attnCompletion (t : TeamRef) : OpcodeRow.Statement (.attnCompletion t) := rfl
theorem OpcodeRow.matrixBudgetPeriod (core : Nat) : OpcodeRow.Statement (.matrixBudgetPeriod core) := rfl
theorem OpcodeRow.copyOpStart (c : ClusterRef) (k : Nat) : OpcodeRow.Statement (.copyOpStart c k) := rfl
theorem OpcodeRow.copyCompletion (c : ClusterRef) (k : Nat) : OpcodeRow.Statement (.copyCompletion c k) := rfl
theorem OpcodeRow.copyFault (c : ClusterRef) (k : Nat) : OpcodeRow.Statement (.copyFault c k) := rfl
theorem OpcodeRow.sideLogRetryPass (c : ClusterRef) : OpcodeRow.Statement (.sideLogRetryPass c) := rfl
theorem OpcodeRow.teamPlacement (grid : Nat) (core : Nat) : OpcodeRow.Statement (.teamPlacement grid core) := rfl
theorem OpcodeRow.teamSlotRelease (t : TeamRef) : OpcodeRow.Statement (.teamSlotRelease t) := rfl
theorem OpcodeRow.waitingOpPerform (g : GroupRef) : OpcodeRow.Statement (.waitingOpPerform g) := rfl
theorem OpcodeRow.commitDrainEntry (t : TeamRef) : OpcodeRow.Statement (.commitDrainEntry t) := rfl
theorem OpcodeRow.millinerRequest (g : GroupRef) (k : Nat) : OpcodeRow.Statement (.millinerRequest g k) := rfl
theorem OpcodeRow.prunePageReturn (part pool : Nat) : OpcodeRow.Statement (.prunePageReturn part pool) := rfl
theorem OpcodeRow.cancelDelivery (t : TeamRef) : OpcodeRow.Statement (.cancelDelivery t) := rfl
theorem OpcodeRow.enqueueDoorbell (part queue : Nat) (words : List DWord) : OpcodeRow.Statement (.enqueueDoorbell part queue words) := rfl
theorem OpcodeRow.recordStart (part queue : Nat) : OpcodeRow.Statement (.recordStart part queue) := rfl
theorem OpcodeRow.gridCompletion (grid : Nat) : OpcodeRow.Statement (.gridCompletion grid) := rfl
theorem OpcodeRow.graphNodeActivation (part run node : Nat) : OpcodeRow.Statement (.graphNodeActivation part run node) := rfl
theorem OpcodeRow.graphNodeCompletion (part run node : Nat) : OpcodeRow.Statement (.graphNodeCompletion part run node) := rfl
theorem OpcodeRow.ctxctlSave (part : Nat) (addr : DWord) : OpcodeRow.Statement (.ctxctlSave part addr) := rfl
theorem OpcodeRow.contextWrite (part : Nat) : OpcodeRow.Statement (.contextWrite part) := rfl
theorem OpcodeRow.ctxctlRestore (part : Nat) (addr : DWord) : OpcodeRow.Statement (.ctxctlRestore part addr) := rfl
theorem OpcodeRow.restoreCoreRelease (part core : Nat) : OpcodeRow.Statement (.restoreCoreRelease part core) := rfl
theorem OpcodeRow.ctxctlKill (part : Nat) : OpcodeRow.Statement (.ctxctlKill part) := rfl
theorem OpcodeRow.partctlApply (part : Nat) (addr : DWord) : OpcodeRow.Statement (.partctlApply part addr) := rfl
theorem OpcodeRow.partctlClear (part : Nat) : OpcodeRow.Statement (.partctlClear part) := rfl
theorem OpcodeRow.poolctlCreate (part pool : Nat) : OpcodeRow.Statement (.poolctlCreate part pool) := rfl
theorem OpcodeRow.poolctlDestroy (part pool : Nat) : OpcodeRow.Statement (.poolctlDestroy part pool) := rfl
theorem OpcodeRow.poolctlReserve (part pool val : Nat) : OpcodeRow.Statement (.poolctlReserve part pool val) := rfl
theorem OpcodeRow.prespWrite (v : DWord) : OpcodeRow.Statement (.prespWrite v) := rfl
theorem OpcodeRow.hinvWrite (v : DWord) : OpcodeRow.Statement (.hinvWrite v) := rfl
theorem OpcodeRow.hostRegisterWrite (off : Nat) (v : DWord) : OpcodeRow.Statement (.hostRegisterWrite off v) := rfl
theorem OpcodeRow.fabricMessageReceive (port : Nat) : OpcodeRow.Statement (.fabricMessageReceive port) := rfl
theorem OpcodeRow.xfredResend (port : Nat) (k : Nat) : OpcodeRow.Statement (.xfredResend port k) := rfl
theorem OpcodeRow.fabricCmplReceive (tag : Nat) (status : Nat) : OpcodeRow.Statement (.fabricCmplReceive tag status) := rfl
theorem OpcodeRow.fabricCmplTimeout (tag : Nat) : OpcodeRow.Statement (.fabricCmplTimeout tag) := rfl
theorem OpcodeRow.flitCrcFailure (port : Nat) : OpcodeRow.Statement (.flitCrcFailure port) := rfl
theorem OpcodeRow.fxcfgTrain (port : Nat) : OpcodeRow.Statement (.fxcfgTrain port) := rfl
theorem OpcodeRow.snpInv (line : Nat) : OpcodeRow.Statement (.snpInv line) := rfl
theorem OpcodeRow.snpData (line : Nat) : OpcodeRow.Statement (.snpData line) := rfl
theorem OpcodeRow.snpCur (line : Nat) : OpcodeRow.Statement (.snpCur line) := rfl
theorem OpcodeRow.go (line : Nat) (st : Mesi) (data : List Byte) : OpcodeRow.Statement (.go line st data) := rfl
theorem OpcodeRow.goWritepull (line : Nat) : OpcodeRow.Statement (.goWritepull line) := rfl
theorem OpcodeRow.writepull (line : Nat) : OpcodeRow.Statement (.writepull line) := rfl
theorem OpcodeRow.cxlMemRequest (req : CxlReq) : OpcodeRow.Statement (.cxlMemRequest req) := rfl
theorem OpcodeRow.bisnpResponse (line : Nat) (dirty : Bool) (data : List Byte) : OpcodeRow.Statement (.bisnpResponse line dirty data) := rfl
theorem OpcodeRow.powerOn : OpcodeRow.Statement (.powerOn) := rfl
theorem OpcodeRow.mailboxUpdate (addr len : Nat) : OpcodeRow.Statement (.mailboxUpdate addr len) := rfl
theorem OpcodeRow.mailboxUpdateEnd : OpcodeRow.Statement (.mailboxUpdateEnd) := rfl
theorem OpcodeRow.mailboxReset : OpcodeRow.Statement (.mailboxReset) := rfl
theorem OpcodeRow.mailboxAbort : OpcodeRow.Statement (.mailboxAbort) := rfl
theorem OpcodeRow.attestationRequest (nonce : List Byte) : OpcodeRow.Statement (.attestationRequest nonce) := rfl
theorem OpcodeRow.uncorrectableError (scope : ErrScope) : OpcodeRow.Statement (.uncorrectableError scope) := rfl
theorem OpcodeRow.watchdogExpiry (part : Nat) : OpcodeRow.Statement (.watchdogExpiry part) := rfl
theorem OpcodeRow.activityBudgetPeriod : OpcodeRow.Statement (.activityBudgetPeriod) := rfl
theorem OpcodeRow.thermalThreshold (die : Nat) : OpcodeRow.Statement (.thermalThreshold die) := rfl
theorem OpcodeRow.dieOvertempCutoff (die : Nat) : OpcodeRow.Statement (.dieOvertempCutoff die) := rfl
theorem OpcodeRow.dirtyL1LineWriteback (core : Nat) (k : Nat) : OpcodeRow.Statement (.dirtyL1LineWriteback core k) := rfl
theorem OpcodeRow.scrub (addr : Nat) : OpcodeRow.Statement (.scrub addr) := rfl
theorem OpcodeRow.powerLoss : OpcodeRow.Statement (.powerLoss) := rfl
theorem OpcodeRow.fabricPortUp (port : Nat) : OpcodeRow.Statement (.fabricPortUp port) := rfl
theorem OpcodeRow.prqtailWrite (v : DWord) : OpcodeRow.Statement (.prqtailWrite v) := rfl
theorem OpcodeRow.budgetLowering (milliwatts : Nat) : OpcodeRow.Statement (.budgetLowering milliwatts) := rfl

end Sys2Proof.Laws
end

