-- ==== Sys2Proof/Laws/Pools.lean ====
section
/-! SUPPORT. What a prune does to operations and teams (R272, R359, R360), and what the destruction of a pool can do (R336), said once. -/

namespace Sys2Proof.Machine

/-! A prune's mark on a team. -/

@[simp] theorem pruneTeam_ref (l : List Grid) (k : Nat) (ids : List Nat) (t : Team) : (pruneTeam l k ids t).ref = t.ref := rfl
@[simp] theorem pruneTeam_part (l : List Grid) (k : Nat) (ids : List Nat) (t : Team) : (pruneTeam l k ids t).part = t.part := rfl
@[simp] theorem pruneTeam_core (l : List Grid) (k : Nat) (ids : List Nat) (t : Team) : (pruneTeam l k ids t).core = t.core := rfl
@[simp] theorem pruneTeam_groups (l : List Grid) (k : Nat) (ids : List Nat) (t : Team) : (pruneTeam l k ids t).groups = t.groups := rfl
@[simp] theorem pruneTeam_regs (l : List Grid) (k : Nat) (ids : List Nat) (t : Team) : (pruneTeam l k ids t).regs = t.regs := rfl
@[simp] theorem pruneTeam_banks (l : List Grid) (k : Nat) (ids : List Nat) (t : Team) : (pruneTeam l k ids t).banks = t.banks := rfl
@[simp] theorem pruneTeam_tk (l : List Grid) (k : Nat) (ids : List Nat) (t : Team) : (pruneTeam l k ids t).tk = t.tk := rfl
@[simp] theorem pruneTeam_cancelled (l : List Grid) (k : Nat) (ids : List Nat) (t : Team) :
    (pruneTeam l k ids t).cancelled = t.cancelled := rfl
/-- A mark stays until CANCEL is delivered. -/
theorem pruneTeam_pruned {l : List Grid} {k : Nat} {ids : List Nat} {t : Team} (h : t.pruned = true) :
    (pruneTeam l k ids t).pruned = true := by
  simp [pruneTeam, h]

/-! What a prune cancels. -/

/-- Only operations, live, parked, saved or of a cluster, and the marks of teams change. -/
theorem cancelOps_eq (s : State) (part pool : Nat) (ids : List Nat) : ∃ t p v c,
    cancelOps s part pool ids = { s with teams := t, parked := p, saves := v, clusters := c } := ⟨_, _, _, _, rfl⟩
@[simp] theorem cancelOps_mem (s : State) (part pool : Nat) (ids : List Nat) : (cancelOps s part pool ids).mem = s.mem := rfl
@[simp] theorem cancelOps_wbuf (s : State) (part pool : Nat) (ids : List Nat) : (cancelOps s part pool ids).wbuf = s.wbuf := rfl
@[simp] theorem cancelOps_parts (s : State) (part pool : Nat) (ids : List Nat) : (cancelOps s part pool ids).parts = s.parts := rfl
@[simp] theorem cancelOps_grids (s : State) (part pool : Nat) (ids : List Nat) : (cancelOps s part pool ids).grids = s.grids := rfl

/-! The end of a pool. -/

/-- DESTROY fails, or prunes every root and then removes the pool, or leaves it to the end of what the prunes cancelled. -/
theorem poolDestroy_cases (s : State) (part k : Nat) (r : Option GroupRef) :
    (poolOf s part k = none ∧ poolDestroy s part k r = poolErr s part true)
    ∨ ∃ p, poolOf s part k = some p ∧
      let u := poolErr (pruneRoots s part k p) part false
      (poolQuiet u part k = true ∧ poolDestroy s part k r = poolRemove u part k)
      ∨ poolQuiet u part k = false ∧ ∃ w, poolDestroy s part k r =
          let v := updPart u part fun x => { x with gone := x.gone ++ [(k, w)] }
          match r with
          | some r => updGroup v r fun g => { g with csrw := true }
          | none => v := by
  cases h : poolOf s part k with
  | none => exact .inl ⟨rfl, by simp [poolDestroy, h]⟩
  | some p =>
    refine .inr ⟨p, rfl, ?_⟩
    cases q : poolQuiet (poolErr (pruneRoots s part k p) part false) part k with
    | true => exact .inl ⟨q, by simp [poolDestroy, h, q]⟩
    | false => exact .inr ⟨q, ⟨[], r.map fun r => (r, 0, 0)⟩, by simp only [poolDestroy, h, q]; rfl⟩

end Sys2Proof.Machine
end

