-- ==== Sys2Proof/Tests/Slice0.lean ====
section
/-! SUPPORT. Tests: ill-formed instructions are refused, slots written out from the spec decode to their instructions, single steps
give the values the spec states, and for each obligation a concrete state and operands that meet its hypotheses. -/

namespace Sys2Proof.Tests

open Sys2Proof Sys2Proof.Machine

/-! Small states. -/

/-- A launch record of one team of one group of 32 threads: 32 registers, 64 uniform registers, 4 banks, 16 accumulator banks, every
class, entry 0x10000, no branch; `res` adds to LR.RES. -/
def record (res : Nat) : List Byte :=
  toBytes 4 1 ++ toBytes 4 (4 + 64 + 4 * 1024 + 16 * 32768 + 15 * 2 ^ 20 + res) ++ toBytes 8 0x10000
    ++ toBytes 4 1 ++ toBytes 4 1 ++ toBytes 4 1 ++ toBytes 4 (32 + 2 ^ 11) ++ toBytes 4 1 ++ toBytes 4 0xffffffff
    ++ zeroBytes 88
def T0 : TeamRef := ⟨0, 0⟩
def G0 : GroupRef := ⟨T0, 0⟩
def C0 : ClusterRef := ⟨0, 0⟩
/-- The package with one cluster of one core and that team on it, its registers FULL and zero, an instruction issuing at 0x10000. -/
def wit (res : Nat) : State :=
  let g := startGrid 0 0 0 0 0 none (record res) [] [] 1 0
  let t := startTeam g 0 0 0 [0] 0
  { State.reset with
    clusters := [mapCluster 0 0 1], grids := [{ g with nextL := 1 }], nextGrid := 1
    teams := [{ t with groups := t.groups.map fun (g : Group) => { g with regs := List.replicate 32 ⟨.full, zeroWords⟩ } }]
    cur := some ⟨G0, 0x10000, false⟩ }
/-- `LR.RES` bits: the deterministic policy, deterministic commit, a cooperative grid. -/
def detPolicy : Nat := 2 ^ 24
@[inherit_doc detPolicy] def det : Nat := 2 ^ 26
@[inherit_doc detPolicy] def coop : Nat := 2 ^ 28

def modG (f : Group → Group) (s : State) : State := updGroup s G0 f
def modT (f : Team → Team) (s : State) : State := updTeam s T0 f
def modThreads (f : Thread → Thread) (s : State) : State := modG (fun g => updThreads g 0xffffffff fun _ t => f t) s
/-- A register with the same value in every lane, or with one for each. -/
def reg (n : Nat) (v : Word) (s : State) : State := modG (fun g => { g with regs := g.regs.set n ⟨.full, Lanes.all v⟩ }) s
@[inherit_doc reg] def regLanes (n : Nat) (v : Nat → Word) (s : State) : State :=
  modG (fun g => { g with regs := g.regs.set n ⟨.full, Lanes.mk v⟩ }) s
def regState (n : Nat) (st : RegState) (s : State) : State := modG (fun g => { g with regs := g.regs.set n ⟨st, zeroWords⟩ }) s
def pair (n v : Nat) (s : State) : State := reg (n + 1) (BitVec.ofNat 32 (v / 2 ^ 32)) (reg n (BitVec.ofNat 32 v) s)
def sreg (n : Nat) (v : DWord) (s : State) : State := modT (fun t => { t with regs := { t.regs with sregs := t.regs.sregs.set n v } }) s
def bartmo (n : Nat) (s : State) : State := modT (fun t => { t with regs := { t.regs with bartmo := BitVec.ofNat 32 n } }) s
/-- Return stacks of depth `n`. -/
def deep (n : Nat) (s : State) : State := modThreads (fun t => { t with depth := n, stack := List.replicate (min n 8) (some 0x10040) }) s
def tlssize (n : Nat) (s : State) : State := updPart s 0 fun p => { p with tlssize := n }
def handler (s : State) : State := modG (fun g => { g with status := .handler }) s
def later (n : Nat) (s : State) : State := { s with clk := n }
/-- Bytes at a physical address. -/
def bytesAt (a : Nat) (b : List Byte) (s : State) : State := { s with mem := Memory.writes s.mem ((b.zipIdx).map fun x => (a + x.2, x.1)) }
/-- Two pages of 1 GiB: code at 0, at the physical address 0x40000000, and data at 0x40000000, at the physical address 0x80000000. -/
def mapped (s : State) : State :=
  updPart (bytesAt 0x20008 (toBytes 8 (3 + 4 + 8 + 32 + 0x80000000)) (bytesAt 0x20000 (toBytes 8 (3 + 4 + 16 + 32 + 0x40000000))
    (bytesAt 0x10000 (toBytes 8 (1 + 0x20000)) s))) 0 fun p => { p with ptroot := 0x8000000000010000 }
/-- A fetch line of five NOPs with slot 0 marked (R54), or with other slots and line word. -/
def lineOf (slots : List Nat) (word : Nat) : List Byte := slots.flatMap (toBytes 12) ++ toBytes 4 word
def nops : List Byte := lineOf (List.replicate 5 0x700) 0x3e01
/-- The grid's code from 0x10000 on. -/
def coded (l : List Byte) (s : State) : State :=
  updGrid (mapped s) 0 fun g => { g with code := Memory.writes [] ((l.zipIdx).map fun x => (0x40010000 + x.2, x.1)) }
/-- Words at offsets of bank 0. -/
def bankWords (l : List (Nat × Nat)) (s : State) : State := modT (fun t => { t with banks := t.banks.set 0 ⟨.spad,
  l.flatMap fun w => (((toBytes 4 w.2).zipIdx).filter fun x => x.1 != 0).map fun x => (w.1 + x.2, x.1.toNat)⟩ }) s
def fifo (s : State) : State := modT (fun t => { t with banks := [⟨.fifo, []⟩, ⟨.spad, []⟩, ⟨.cache, []⟩] }) s
/-- Hardware queue 0 of capacity 4 in bank 0. -/
def hq (e : List Word) (allow : Nat) (s : State) : State :=
  { fifo s with clusters := s.clusters.map fun (c : Cluster) => { c with hqs := [⟨0, T0, 0, 4, e, allow, []⟩] } }
/-- Loop queue 0 over v4 to v7. -/
def loopq (s : State) : State := modG (fun g => { g with loopqs := g.loopqs.setIfInBounds 0 (some ⟨4, 4, 0, 0, false⟩) }) s
def streamAt (st : StreamState) (s : State) : State :=
  modT (fun t => { t with stream := { t.stream with st := st, base := 0x40000000, count := [3], stride := [4] } }) s
/-- Tile maps of F16, 32 columns: 32 rows, and `rows`. -/
def f16map (rows : Nat) : BitVec 256 := BitVec.ofNat 256 (1 + 2 * 11 + (rows - 1) * 2 ^ 36 + 31 * 2 ^ 44)
def tileMaps (rows : Nat) (s : State) : State :=
  modT (fun t => { t with regs := { t.regs with maps := [f16map 32, f16map rows] ++ List.replicate 14 0 } }) s
/-- A pool descriptor: F16 keys, 4 pages, 4 nodes. -/
def poolDesc (area : Nat) : List Byte := toBytes 4 (8 * 11) ++ zeroBytes 12 ++ toBytes 4 4 ++ toBytes 4 4 ++ toBytes 8 area ++ zeroBytes 96
def pool0 : Pool := (poolOfDesc (poolDesc 0)).getD ⟨0, 0, 0, 0, 0, 0, 0, 0, 0, [], [], [], [], 0, [], 0, 0, []⟩
def pooled (s : State) : State := updPart s 0 fun p => { p with pools := [(0, pool0)] }
/-- An attention descriptor at the start of the pool: one query, one key. -/
def atd (s : State) : State := tileMaps 32 (pooled (bankWords [(0, 1024 + 2 ^ 16), (28, 1), (40, 1024)] s))
/-- A copy descriptor of one row of 16 bytes; `ctl` 3 within the window, 1 to a virtual address. -/
def copyDesc (ctl : Nat) (s : State) : State :=
  bankWords [(0, ctl), (8, 0x1000), (0x10, 0x2000), (0x18, 16), (0x1c, 1), (0x20, 1), (0x24, 0xffffffff)] s
/-- A fabric descriptor to package 2. -/
def fabDesc (ty len : Nat) (s : State) : State :=
  let s := bankWords [(0, 2), (4, ty), (8, 0x40000000), (0x18, len), (0x1c, 0xffffffff)] s
  { s with fabric := { s.fabric with pkg := 1 } }
/-- The team's ticket is the head and buffers, because its share holds an entry; or no longer. -/
def buffering (s : State) : State := modT (fun t => { t with tk := { t.tk with share := [newEntry 0 (.scale 0 0) 0] } }) s
@[inherit_doc buffering] def drained (s : State) : State := modT (fun t => { t with tk := { t.tk with share := [] } }) s
/-- Queue 0 of partition 0 with a record. -/
def queued (r : List Byte) (s : State) : State := bytesAt 0x30000 [1] { mapped s with
  pkg := { s.pkg with qbase := 0x30000 }, queues := [⟨0, [⟨0, r, [], []⟩], [], 1⟩], cur := none }

/-! Instructions and what they do. -/

def on : Pred := ⟨false, 7⟩
def p0 : Pred := ⟨false, 0⟩
def v (n : Nat) : Src := .file (BitVec.ofNat 8 n) true false
def d (n : Nat) : Dst := ⟨BitVec.ofNat 8 n, false, false, 0⟩
def rrr (t : Dst) (a b c : Src) (m : Nat) : RRR := ⟨on, t, a, b, c, BitVec.ofNat _ m⟩
def ri (t : Dst) (a : Src) (m imm : Nat) : RI := ⟨on, t, a, .unused, BitVec.ofNat _ m, BitVec.ofNat _ imm⟩
def mf (t : Dst) (a b : Src) (m off : Nat) : MF := ⟨on, t, a, b, BitVec.ofNat _ m, BitVec.ofNat _ off⟩
def bf (t : Dst) (a : Src) : BF := ⟨on, t, a, 1, 1⟩

/-- `i` issues in `s`, the common checks pass, a lane is active, and `p` holds of its context. -/
def meets (s : State) (i : Instr) (p : Ctx → Bool) : Bool :=
  match ctxOf i s with
  | some c => decide (readyOf c = .run) && c.act != 0 && p c
  | none => false
/-- The same with no active lane. -/
def idle (s : State) (i : Instr) : Bool :=
  match ctxOf i s with
  | some c => decide (readyOf c = .run) && c.act == 0 && !queueFull c.g
  | none => false
/-- Every slot of a list decodes to an instruction that issues so. -/
def allMeet (s : State) (l : List Nat) : Bool := l.all fun w => match decodeTableWord 96 w with
  | some i => meets s i fun _ => true
  | none => false
/-- The next state. -/
def after (i : Instr) (s : State) : State := match exec i s with | .next t => t | _ => s
/-- The same slot for the next instruction. -/
def again (s : State) : State := { modThreads (fun t => { t with pc := 0x10000 }) s with cur := some ⟨G0, 0x10000, false⟩ }
/-- A register's value in a lane after `i`, and FPSTAT. -/
def lane (i : Instr) (n l : Nat) (s : State) : Nat := match groupAt (after i s) G0 with
  | some g => (Lanes.at (regAt g n).vals l 0).toNat
  | none => 0
def flagsAfter (i : Instr) (s : State) : Nat := match groupAt (after i s) G0 with | some g => g.fpstat.toNat | none => 0

set_option maxRecDepth 100000
set_option Elab.async false

/-! Ill-formed instructions: one for each kind of check. -/

/-- R59: a nonzero unused field. -/
theorem test_wf_unused : (Instr.nop (rrr (d 1) .unused .unused .unused 0)).wf = false ∧ (Instr.nop (rrr .unused (v 1) .unused .unused 0)).wf = false
    ∧ (Instr.nop (rrr .unused .unused .unused .unused 1)).wf = false := by decide
/-- R106: a type an instruction does not admit. -/
theorem test_wf_type : (Instr.iadd (rrr (d 0) (v 1) (v 2) .unused 10)).wf = false := by decide
/-- R64: 64-bit constants for a 32-bit source; odd registers, Cuff slots and 32-bit constants for a 64-bit one. -/
theorem test_wf_width : (Instr.iadd (rrr (d 0) (.const 48) (v 2) .unused 3)).wf = false
    ∧ (Instr.add64 (rrr (d 0) (v 1) (v 2) .unused 4)).wf = false ∧ (Instr.add64 (rrr (d 0) (.cuff 0 false false) (v 2) .unused 4)).wf = false
    ∧ (Instr.add64 (rrr (d 0) (.const 0) (v 2) .unused 4)).wf = false := by decide
/-- R63, R64: a destination with NF and an index, a Cuff slot without CW, an odd pair. -/
theorem test_wf_dest : (Instr.iadd (rrr ⟨1, true, false, 0⟩ (v 1) (v 2) .unused 3)).wf = false
    ∧ (Instr.iadd (rrr ⟨1, false, false, 1⟩ (v 1) (v 2) .unused 3)).wf = false ∧ (Instr.mov (rrr (d 1) (v 2) .unused .unused 4)).wf = false := by decide
/-- R107: a predicate destination above p7; CP without COMB. -/
theorem test_wf_pred : (Instr.icmp .eq (rrr ⟨8, true, false, 0⟩ (v 1) (v 2) .unused 3)).wf = false
    ∧ (Instr.icmp .eq (rrr ⟨1, true, false, 0⟩ (v 1) (v 2) .unused (3 + 128))).wf = false := by decide
/-- R108: quads that are not aligned, or overlap. -/
theorem test_wf_quad : (Instr.rngdraw (rrr (d 2) (v 16) (v 20) .unused 0)).wf = false
    ∧ (Instr.rngdraw (rrr (d 20) (v 16) (v 20) .unused 0)).wf = false := by decide
/-- R37: a rounding code above 4. -/
theorem test_wf_rounding : (Instr.fadd (rrr (d 0) (v 1) (v 2) .unused (10 + 5 * 32))).wf = false := by decide
/-- R128: a conversion between integers under CVT, and an element position a lane does not have. -/
theorem test_wf_convert : (Instr.cvt (rrr (d 0) (v 1) .unused .unused (3 + 7 * 32))).wf = false
    ∧ (Instr.cvt (rrr (d 0) (v 1) .unused .unused (10 + 14 * 32 + 4 * 2 ^ 17))).wf = false := by decide
/-- R149: a scale without an index; R152: SGN on 32 bits. -/
theorem test_wf_memory : (Instr.ld (mf (d 0) (v 2) .unused (2 + 256) 0)).wf = false ∧ (Instr.ld (mf (d 0) (v 2) .unused (2 + 8) 0)).wf = false := by decide
/-- R150: an odd address register. -/
theorem test_wf_address : (Instr.ld (mf (d 0) (v 3) .unused 2 0)).wf = false := by decide
/-- R196: a uniform instruction with a predicate, or a source of another level. -/
theorem test_wf_uniform : (Instr.umad ⟨p0, ⟨1, true, false, 0⟩, .uni 1, .uni 2, .uni 3, 3⟩).wf = false
    ∧ (Instr.umad (rrr ⟨1, true, false, 0⟩ (v 1) (.uni 2) (.uni 3) 3)).wf = false := by decide
/-- R147: a number that names no control register. -/
theorem test_wf_csr : (Instr.csrr (ri (d 0) .unused 0 0x3ff)).wf = false := by decide
/-- R203, R283: a barrier number out of range. -/
theorem test_wf_barrier : (Instr.barSync (ri .unused .unused 0 16)).wf = false ∧ (Instr.dbar (ri .unused .unused 0 4)).wf = false := by decide

/-! Slots written out from the encodings of R55 to R63, a family each; the last three are refused. -/

theorem test_decode_bra : decodeTableWord 96 0x000000110000000000000760 = some (.bra ⟨on, .unused, .unused, 1, 2⟩) := by decide
theorem test_decode_ffma : decodeTableWord 96 0x000000144164074000100732 =
    some (.ffma (rrr (d 16) (.brim false true) (v 3) (v 11) 10)) := by decide
theorem test_decode_ld : decodeTableWord 96 0x000000400040004080080780 = some (.ld (mf (d 8) (v 4) .unused 2 0x40)) := by decide
theorem test_decode_shfl : decodeTableWord 96 0x0000000e00188041000937a0 = some (.shfl .xor (rrr (d 9) (v 8) (.const 0) .unused 7)) := by decide
theorem test_decode_bar : decodeTableWord 96 0x0000000300000000000007b7 = some (.barSync (ri .unused .unused 0 3)) := by decide
theorem test_decode_copy : decodeTableWord 96 0x0000008000000180400017e0 = some (.copy .d2 (mf .unused (.uni 2) .unused 0 0x80)) := by decide
theorem test_decode_mqma : decodeTableWord 96 0x0000000000000041800007d2 = some (.mqma (rrr .unused (v 12) .unused .unused 0)) := by decide
theorem test_decode_fence : decodeTableWord 96 0x00000000000001808000078a = some (.fence .rel (mf .unused (.uni 4) .unused 0 0)) := by decide
theorem test_decode_dbar : decodeTableWord 96 0x0000000100000000000007e8 = some (.dbar (ri .unused .unused 0 1)) := by decide
theorem test_decode_dscale : decodeTableWord 96 0x0000010000000000000007ed = some (.dscale (ri .unused .unused 0 0x100)) := by decide
theorem test_decode_tkwait : decodeTableWord 96 0x0000000000000000000307e9 = some (.tkwait (ri (d 3) .unused 0 0)) := by decide
theorem test_decode_ttappend : decodeTableWord 96 0x0000002600040440200607f1 =
    some (.ttappend (rrr (d 6) (v 1) (v 2) .unused 0x13)) := by decide
theorem test_decode_gridbar : decodeTableWord 96 0x0000000000000000000007ec = some (.gridbar (ri .unused .unused 0 0)) := by decide
theorem test_decode_lnch : decodeTableWord 96 0x0000000000a00180400317eb = some (.lnchLast (mf (d 3) (.uni 2) .unused 5 0)) := by decide
theorem test_decode_xfput : decodeTableWord 96 0x0000004000000180400007f9 = some (.xfput (mf .unused (.uni 2) .unused 0 0x40)) := by decide
/-- IADD.I32 v5, v1, v2: OPC 0x01, PRED 0b0111, DST 5, SA at bit 29, SB at 41, MOD (TYPE .I32) at 65; written out bit by bit. -/
theorem test_decode_iadd : decodeTableWord 96 (0x01 + 0b0111 * 2 ^ 8 + 5 * 2 ^ 16 + 1 * 2 ^ 29 + 2 * 2 ^ 41 + 3 * 2 ^ 65) =
    some (.iadd (rrr (d 5) (.file 1 false false) (.file 2 false false) .unused 3)) := by decide
theorem test_decode_trap : decodeTableWord 96 (0x68 + 0b0111 * 2 ^ 8 + 0x123 * 2 ^ 64) = some (.trap (ri .unused .unused 0 0x123)) := by decide
theorem test_decode_umov : decodeTableWord 96 (0xb0 + 0b0111 * 2 ^ 8 + (3 + 2 ^ 8) * 2 ^ 16 + 3 * 2 ^ 53 + 9 * 2 ^ 64) =
    some (.umov (ri ⟨3, true, false, 0⟩ .unused 3 9)) := by decide
/-- R90, R96: an unassigned opcode, an unassigned SUB; R59: a reserved bit. -/
theorem test_decode_refused : decode 0x700 ≠ .illop ∧ decode 0x723 = .illop ∧ decode 0x1701 = .illop ∧ decodeTableWord 96 0x10700 = none := by decide

/-! Single steps with the values that the spec states or that its words give by hand. -/

/-- R109: 2^31 − 1 plus 1 wraps, and is clamped with IS under .SAT. -/
theorem test_iadd : let s := reg 2 1 (reg 1 0x7fffffff (wit 0))
    lane (.iadd (rrr (d 5) (v 1) (v 2) .unused 3)) 5 31 s = 0x80000000 ∧ lane (.iadd (rrr (d 5) (v 1) (v 2) .unused (3 + 32))) 5 31 s = 0x7fffffff
      ∧ flagsAfter (.iadd (rrr (d 5) (v 1) (v 2) .unused (3 + 32))) s = 32 := by decide +kernel
/-- R109: the operands of ISUB in their order. -/
theorem test_isub : lane (.isub (rrr (d 1) (v 1) (v 2) .unused 3)) 1 0 (reg 2 5 (reg 1 3 (wit 0))) = 0xfffffffe := by decide +kernel
/-- R113: −2^31 by −1, and by zero. -/
theorem test_idiv : let s := reg 2 0xffffffff (reg 1 0x80000000 (wit 0))
    lane (.idiv (rrr (d 5) (v 1) (v 2) .unused 3)) 5 0 s = 0x80000000 ∧ lane (.idiv (rrr (d 5) (v 1) (v 2) .unused (3 + 32))) 5 0 s = 0
      ∧ lane (.idiv (rrr (d 5) (v 1) (v 3) .unused 3)) 5 0 s = 0xffffffff := by decide +kernel
/-- R110: 0x03 gives A AND B, 0x5a gives A XOR C. -/
theorem test_lop3 : let s := reg 3 0xff00ff00 (reg 2 0x0f0f0f0f (reg 1 0x12345678 (wit 0)))
    lane (.lop3 (rrr (d 5) (v 1) (v 2) (v 3) 0x03)) 5 0 s = 0x12345678 &&& 0x0f0f0f0f
      ∧ lane (.lop3 (rrr (d 5) (v 1) (v 2) (v 3) 0x5a)) 5 0 s = 0x12345678 ^^^ 0xff00ff00 := by decide +kernel
/-- R111: a shift by the width gives 0, an arithmetic one copies of the top bit, a rotation A. -/
theorem test_shf : let s := reg 2 32 (reg 1 0x80000001 (wit 0))
    lane (.shf .l (rrr (d 5) (v 1) (v 2) .unused 7)) 5 0 s = 0 ∧ lane (.shf .ra (rrr (d 5) (v 1) (v 2) .unused 7)) 5 0 s = 0xffffffff
      ∧ lane (.shf .rot (rrr (d 5) (v 1) (v 2) .unused 7)) 5 0 s = 0x80000001 := by decide +kernel
/-- R112: four bits at 28, signed; an empty field. -/
theorem test_bfe : lane (.bfe (rrr (d 5) (v 1) (v 2) .unused 3)) 5 0 (reg 2 0x81c (reg 1 0x90000000 (wit 0))) = 0xfffffff9
    ∧ lane (.bfe (rrr (d 5) (v 1) (v 2) .unused 3)) 5 0 (reg 2 0x820 (reg 1 0x90000000 (wit 0))) = 0 := by decide +kernel
/-- R115: the example selectors of PRMT. -/
theorem test_prmt : let s := reg 2 0x88776655 (reg 1 0x44332211 (wit 0))
    lane (.prmt (rrr (d 5) (v 1) (v 2) (v 3) 0)) 5 0 (reg 3 0x00010203 s) = 0x11223344
      ∧ lane (.prmt (rrr (d 5) (v 1) (v 2) (v 3) 0)) 5 0 (reg 3 0x07060504 s) = 0x88776655 := by decide +kernel
/-- R38: the largest FP32 doubled overflows to infinity under RNE and to the largest under RZ, with OF and NX. -/
theorem test_fadd : let s := reg 1 0x7f7fffff (wit 0)
    lane (.fadd (rrr (d 5) (v 1) (v 1) .unused 10)) 5 0 s = 0x7f800000 ∧ lane (.fadd (rrr (d 5) (v 1) (v 1) .unused (10 + 32))) 5 0 s = 0x7f7fffff
      ∧ flagsAfter (.fadd (rrr (d 5) (v 1) (v 1) .unused 10)) s = 0b010100 := by decide +kernel
/-- R38: to E4M3, 464 rounds to 448 (0x7e) and a value above it gives NaN (0x7f). -/
theorem test_cvt : lane (.cvt (rrr (d 5) (v 1) .unused .unused (14 + 10 * 32))) 5 0 (reg 1 0x43e80000 (wit 0)) = 0x7e
    ∧ lane (.cvt (rrr (d 5) (v 1) .unused .unused (14 + 10 * 32))) 5 0 (reg 1 0x43e80001 (wit 0)) = 0x7f := by decide +kernel
/-- R134: the carry of a counter crosses its words. -/
theorem test_rngskip : let s := reg 8 1 (reg 5 0xffffffff (reg 4 0xffffffff (wit 0)))
    let i : Instr := .rngskip (rrr (d 12) (v 4) (v 8) .unused 0)
    (List.range 4).map (fun k => lane i (12 + k) 3 s) = [0, 0, 1, 0] := by decide +kernel
/-- R47: the sum of 2^24, 1, 1, −2^24 along the tree is 1.0. -/
theorem test_gred : lane (.gred { rrr (d 5) (v 1) .unused .unused 10 with pred := p0 }) 5 2
    (modG (fun g => updThreads g 15 fun _ t => { t with preds := 1 })
      (regLanes 1 (fun l => [0x4b800000, 0x3f800000, 0x3f800000, 0xcb800000].getD l 0) (wit 0))) = 0x3f800000 := by decide +kernel
/-- R179: the lanes of a segment of 8 reversed by .XOR 7; .UP by 1 keeps the lowest lane's own value. -/
theorem test_shfl : let s := reg 2 1 (reg 3 7 (regLanes 1 (fun l => BitVec.ofNat 32 (100 + l)) (wit 0)))
    lane (.shfl .xor (rrr (d 5) (v 1) (v 3) .unused (7 + 64))) 5 9 s = 114 ∧ lane (.shfl .up (rrr (d 5) (v 1) (v 2) .unused (7 + 64))) 5 8 s = 108
      ∧ lane (.shfl .up (rrr (d 5) (v 1) (v 2) .unused (7 + 64))) 5 9 s = 108 := by decide +kernel
/-- R196: a 32-bit result of .I32 is sign-extended. -/
theorem test_uadd : (teamAt (after (.uadd (ri ⟨3, true, false, 0⟩ (.uni 1) 3 0xffffffff)) (wit 0)) T0).map (fun t => t.regs.sregs.getD 3 0)
    = some 0xffffffffffffffff := by decide +kernel
/-- R153: a store and a load through one address. -/
theorem test_store_load :
    let s := pair 0 0x40000000 (reg 4 0xcafe (mapped (wit 0)))
    let s := again <| after (.accessRetirement G0 0) (after (.st (mf .unused (v 0) (v 4) (2 + 128) 8)) s)
    rdHomeN s 0x80000008 4 = 0xcafe ∧ lane (.loadCompletion G0 0) 6 5 (after (.ld (mf (d 6) (v 0) .unused (1 + 8) 8)) s) = 0xffffcafe := by
  decide +kernel
/-- R57 of the step: five NOPs at the entry, and one issue moves the group on by one slot. -/
theorem test_step : (match step { coded nops (wit 0) with cur := none, agenda := [.issue 0] } with
    | .next t => (groupAt t G0).map fun g => (threadAt g 31).pc
    | _ => none) = some 0x10001 := by decide +kernel

/-! Witnesses: where the instructions of an obligation issue, with what else its clauses ask for, at the boundary values of each clause. -/

/-- O1. -/
theorem test_met_IntegerArithmetic : allMeet (wit 0) [0x60000000000000701, 0x60000000000702, 0x60000000000000703, 0x60000000000000704, 0x60000000000000705, 0x60000000000000706,
     0x60000000000000708, 0x60000000000000709, 0x6000000000000070a] = true := by decide +kernel

/-- O2. -/
theorem test_met_IntegerDivision : allMeet (wit 0) [0x60000000000000707] = true := by decide +kernel

/-- O3. -/
theorem test_met_LogicFunctions : allMeet (wit 0) [0x70d, 0x70e] = true := by decide +kernel

/-- O4: 32 bits. -/
theorem test_met_Shifts : allMeet (wit 0) [0xe000000000000070f, 0xe000000000000170f, 0xe000000000000270f, 0xe000000000000370f, 0xe0000000000710, 0xe0000000001710,
     0xe0000000002710, 0xe0000000003710] = true := by decide +kernel

/-- O5. -/
theorem test_met_BitFields : allMeet (wit 0) [0x60000000000000711, 0x712] = true := by decide +kernel

/-- O6. -/
theorem test_met_CountsMovesAndWideArithmetic : allMeet (wit 0) [0x700, 0xe0000000000000713, 0xe0000000000000714, 0xe0000000000000715, 0xe0000000000000716, 0x717, 0x60000000000718,
     0x8000000000000071a, 0x8000000000071b, 0x8000000000000071c, 0x6000000000000071d] = true := by decide +kernel

/-- O7. -/
theorem test_met_ComparesAndPredicates : allMeet (wit 0) [0x6000000000102070b, 0x6000000000102170b, 0x6000000000102270b, 0x6000000000102370b, 0x6000000000102470b, 0x6000000000102570b,
     0x6000000102070c, 0x6000000102170c, 0x6000000102270c, 0x6000000102370c, 0x6000000102470c, 0x6000000102570c, 0x8000000000102071e,
     0x8000000000102171e, 0x8000000000102271e, 0x8000000000102371e, 0x8000000000102471e, 0x8000000000102571e, 0x102071f] = true := by decide +kernel

/-- O8. -/
theorem test_met_ByteOperations : allMeet (wit 0) [0x20000000000000721, 0x722] = true := by decide +kernel

/-- O9. -/
theorem test_met_FloatArithmetic : allMeet (wit 0) [0x120000000000000730, 0x120000000000000731, 0x120000000000000732, 0x120000000000000733, 0x120000000000000734,
     0x120000000001020735, 0x120000000001021735, 0x120000000001022735, 0x120000000001023735, 0x120000000001024735,
     0x120000000001025735, 0x120000000001026735, 0x120000000001027735, 0x120000000000000736, 0x120000000000000737,
     0x120000000000000738, 0x120000000000000739, 0x12000000000000073a, 0x140000000000747, 0x140000000000748] = true := by decide +kernel

/-- O10. -/
theorem test_met_SpecialFunctionsAndConversions : allMeet (wit 0) [0x14000000000000073b, 0x14000000000000073c, 0x14000000000000073d, 0x14000000000000073e, 0x14000000000000073f,
     0x140000000000000740, 0x140000000000000741, 0x2540000000000000742, 0x460000000000000743, 0x2540000000000000744,
     0x2aa0000000000000745, 0x5540000000000000746] = true := by decide +kernel

/-- O11: B is a file quad. -/
theorem test_met_RandomNumbers : allMeet (wit 0) [0x200100000749, 0x10000000074a] = true := by decide +kernel

/-- O13: PMOV from the predicates. -/
theorem test_met_SpecialRegistersAndPredicates : allMeet (wit 0) [0x719, 0x720] = true := by decide +kernel

/-- What CSRR gives after a write of a control register, where both contexts speak of their states (O17). -/
def reads (s : State) (n w m : Nat) : Bool := meets s (.csrw .write (ri .unused (v 4) 0 n)) fun c =>
  let t := csrWrite c.s c.r c.t.part c.t.core n w
  match teamAt t c.r.team, groupAt t c.r, gridAt t c.r.team.grid with
  | some x, some g, some gr => csrRead { c with s := t, t := x, g := g, gr := gr } n == m && teamAt s c.r.team == some c.t
      && groupAt s c.r == some c.g && gridAt s c.r.team.grid == some c.gr && c.s == s && c.s.parts.any fun p => p.num == c.t.part
  | _, _, _ => false
/-- O17: fields, a read-only register, the lower bounds, cleared counters and commands with OP 0; from the tables of the registers. -/
theorem test_met_ControlRegisterWrites :
    reads (handler (wit 0)) 0x100 (2 ^ 64 - 1) 0x01ffffffffffff01 = true ∧ reads (handler (wit 0)) 0x150 (2 ^ 64 - 1) 0x800fffffffffffff = true ∧
    reads (handler (wit 0)) 0x1b0 0 0x4100 = true ∧ reads (handler (wit 0)) 0x1c2 (2 ^ 32) 1 = true ∧
    reads (handler (wit 0)) 0x1b8 0xffff00000007 7 = true ∧ reads (handler (wit 0)) 0x1a5 0xcf 15 = true ∧
    reads (handler (wit 0)) 0x1a2 0xcf 15 = true ∧ reads (handler (wit 0)) 0x1a4 0xff 63 = true ∧ reads (handler (wit 0)) 0x140 5 5 = true ∧
    reads (handler (wit 0)) 0x172 0xf 0 = true := by decide +kernel

/-- O17. -/
theorem test_met_ControlRegisters : allMeet (wit 0) [0x10000000000000076b, 0x10000000000000076c, 0x10000000000000176c, 0x10000000000000276c] = true := by decide +kernel

/-- O18. -/
theorem test_met_LaneExchange : allMeet (wit 0) [0xe00000000000007a0, 0xe00000000000017a0, 0xe00000000000027a0, 0xe00000000000037a0, 0x10207a1, 0x10217a1, 0x27a1,
     0xe00000000000007a6, 0xe00000000000017a6] = true := by decide +kernel

/-- O19. -/
theorem test_met_LaneTrees : allMeet (wit 0) [0x600000000000007a2, 0x600000000000017a2, 0x600000000000007a3, 0x1400000000000007a4, 0x1400000000000017a4, 0x1400000000000007a5] = true := by decide +kernel

/-- O20: no register is EMPTY. -/
theorem test_met_SerialRegionsAndJoins : allMeet (wit 0) [0x7a7, 0x7a8, 0x7a9, 0x7aa, 0x7ab] = true := by decide +kernel

/-- O21. -/
theorem test_met_UniformInstructions : allMeet (wit 0) [0x600000010207b0, 0x600180410207b1, 0x780580580410207b2, 0x180580580410207b3, 0xe00180410207b4, 0x600180410207b5, 0x7b6] = true := by decide +kernel

/-- O40: the queue has room and the launch is not deterministic. -/
theorem test_met_MemoryInstructionsIssue : allMeet (wit 0) [0x780, 0x781, 0x782, 0x783, 0x40018041020784, 0x40000000000785, 0x40000000001785, 0x40000000002785, 0x40000000003785,
     0x40000000004785, 0x40000000005785, 0x40000000006785, 0x40000000007785, 0x40000000008785, 0x40000000009785, 0x40000000000786,
     0x40000000001786, 0x40000000002786, 0x40000000003786, 0x40000000004786, 0x40000000005786, 0x40000000007786, 0x40000000008786,
     0x40000000009786, 0x40000000000787, 0x40000000001787, 0x40000000002787, 0x40000000003787, 0x40000000004787, 0x40000000005787,
     0x40000000006787, 0x40000000007787, 0x40000000008787, 0x40000000009787, 0x40000000000788, 0x789, 0x1789, 0x600000000007b9,
     0x600000000007ba] = true := by decide +kernel

/-- O41. -/
theorem test_met_WaitingInstructionsIssue : allMeet (wit 0) [0x78a, 0x178a, 0x278a, 0x378a, 0x78b, 0x6000000000078c, 0x6000000000178c, 0x600000000007bb, 0x600000000017bb, 0x7e9] = true := by decide +kernel

/-- O49. -/
theorem test_met_MillinerRequestsIssue : allMeet (wit 0) [0x7f0, 0x7f1, 0x7f2, 0x7f3, 0x7f4, 0x7f5, 0x17f5, 0x27f5, 0x37f5, 0x47f5, 0x7f6, 0x17f6, 0x27f6, 0x7f7, 0x7f8] = true := by decide +kernel

/-- O13: PMOV to the predicates. -/
theorem test_met_PmovBack : meets (wit 0) (.pmov (rrr ⟨0, true, false, 0⟩ (v 1) .unused .unused 0xff)) (fun _ => true) = true := by decide +kernel

/-- O14: targets that pass R53 and R52. -/
theorem test_met_Branches :
    meets (wit 0) (.bra (bf .unused .unused)) (fun c => badTargets c c.act (fun _ => targetOf c (bf .unused .unused)) = 0) = true ∧
    meets (wit 0) (.brau .z (bf .unused (.uni 1))) (fun c => badTargets c c.act (fun _ => targetOf c (bf .unused (.uni 1))) = 0) = true ∧
    meets (pair 2 0x10000 (wit 0)) (.brx ⟨on, .unused, v 2, 0, 0⟩) (fun c => badTargets c c.act (fun l => c.a64 l) = 0) = true ∧
    meets (wit 0) (.brau .nz (bf .unused (.uni 1))) (fun c => decide (c.a64 c.low = 0)) = true ∧
    meets (wit 0) (.loopu (bf (d 2) (v 2))) (fun c => badTargets c (laneMask fun l => c.act.getLsbD l && c.a32 l != 1)
      (fun _ => targetOf c (bf (d 2) (v 2))) = 0) = true := by decide +kernel
/-- O14: a target with bit 3 set, and a slot 5, break R53; slot 1 of the second line is not marked. -/
theorem test_met_BadTargets :
    let s := coded (nops ++ nops) (wit 0)
    let bad (i : Instr) (f : BF) (m : Ctx → Nat → Bool) : Bool := meets s i fun c =>
      badTargets c (laneMask fun l => c.act.getLsbD l && m c l) (fun _ => targetOf c f) ≠ 0
    meets (pair 2 0x10008 (wit 0)) (.brx ⟨on, .unused, v 2, 0, 0⟩) (fun c => badTargets c c.act (fun l => c.a64 l) ≠ 0) = true ∧
    meets (pair 2 0x10005 (wit 0)) (.callx ⟨on, .unused, v 2, 0, 0⟩) (fun c => badTargets c c.act (fun l => c.a64 l) ≠ 0) = true ∧
    bad (.bra (bf .unused .unused)) (bf .unused .unused) (fun _ _ => true) = true ∧
    bad (.call (bf .unused .unused)) (bf .unused .unused) (fun _ _ => true) = true ∧
    bad (.brau .z (bf .unused (.uni 1))) (bf .unused (.uni 1)) (fun c _ => decide (c.a64 c.low = 0)) = true ∧
    bad (.loopu (bf (d 2) (v 2))) (bf (d 2) (v 2)) (fun c l => c.a32 l != 1) = true ∧
    meets (deep 1 s) (.ret ⟨on, .unused, .unused, 0, 0⟩) (fun c => badTargets c
      (laneMask fun l => c.act.getLsbD l && (threadAt c.g l).depth != 0) (fun l => ((threadAt c.g l).stack.headD none).getD 0 + 1) ≠ 0) = true := by
  decide +kernel
/-- Lanes whose stack has no room or no entry. -/
def overLanes (c : Ctx) : BitVec 32 := laneMask fun l => c.act.getLsbD l && decide (stackLimit c < (threadAt c.g l).depth + 1)
@[inherit_doc overLanes] def underLanes (c : Ctx) : BitVec 32 := laneMask fun l => c.act.getLsbD l && (threadAt c.g l).depth == 0
/-- O15: CALL and CALLX at depths 7, 8 and 15 with room for 16 entries, and at 16; at 8 with room for 8. -/
theorem test_met_Calls :
    let i : Instr := .call (bf .unused .unused)
    let fits (c : Ctx) : Bool := badTargets c c.act (fun _ => targetOf c (bf .unused .unused)) = 0 ∧ overLanes c = 0
    meets (deep 7 (wit 0)) i (fun c => fits c && decide (deeperThan c 7 = 0)) = true ∧
    meets (pair 2 0x10000 (deep 7 (wit 0))) (.callx ⟨on, .unused, v 2, 0, 0⟩) (fun c => decide (badTargets c c.act (fun l => c.a64 l) = 0)
      && decide (overLanes c = 0) && decide (deeperThan c 7 = 0)) = true ∧
    meets (tlssize 1 (deep 8 (wit 0))) i (fun c => fits c && decide (deeperThan c 7 ≠ 0) && !queueFull c.g) = true ∧
    meets (tlssize 1 (deep 15 (wit 0))) i (fun c => fits c && decide (deeperThan c 7 ≠ 0)) = true ∧
    meets (tlssize 1 (deep 16 (wit 0))) i (fun c => decide (overLanes c ≠ 0)) = true ∧
    meets (pair 2 0x10000 (tlssize 1 (deep 8 (wit 0)))) (.callx ⟨on, .unused, v 2, 0, 0⟩) (fun c => decide (badTargets c c.act (fun l => c.a64 l) = 0)
      && decide (overLanes c = 0) && decide (deeperThan c 7 ≠ 0) && !queueFull c.g && !lrDet c.gr.lr) = true ∧
    meets (pair 2 0x10000 (tlssize 1 (deep 16 (wit 0)))) (.callx ⟨on, .unused, v 2, 0, 0⟩) (fun c => decide (overLanes c ≠ 0)
      && decide (badTargets c c.act (fun l => c.a64 l) = 0)) = true ∧
    meets (deep 8 (wit 0)) i (fun c => decide (overLanes c ≠ 0)) = true := by decide +kernel
/-- O15: a CALL of a deterministic launch whose spill is translated at its issue. -/
theorem test_met_CallsDet : let i : Instr := .call (bf .unused .unused)
    let s := updPart (coded (nops ++ lineOf (List.replicate 5 0x700) 0x3e02) (tlssize 1 (deep 8 (wit det)))) 0 fun p => { p with tlsbase := 0x40000000 }
    meets s i (fun c =>
      let m := deeperThan c 7
      let a := accessOf c m .unused 3 (fun l => spillAddr c l ((threadAt c.g l).depth - 8))
        fun l => (((threadAt c.g l).stack.getLastD none).getD 0).toNat
      lrDet c.gr.lr && decide (badTargets c c.act (fun _ => targetOf c (bf .unused .unused)) = 0) && decide (overLanes c = 0)
        && decide (m ≠ 0) && !queueFull c.g && match tryAccess (pushAccess c.r a c.s) c.r c.g.queue.length false with
          | .done _ => true
          | _ => false) = true := by decide +kernel
/-- O15: RET at depths 1, 8, 9 and 0. -/
theorem test_met_Returns :
    let i : Instr := .ret ⟨on, .unused, .unused, 0, 0⟩
    let fits (c : Ctx) : Bool := badTargets c (c.act &&& ~~~underLanes c) (fun l => ((threadAt c.g l).stack.headD none).getD 0) = 0
    meets (deep 1 (wit 0)) i (fun c => fits c && decide (underLanes c = 0) && decide (deeperThan c 8 = 0)) = true ∧
    meets (deep 8 (wit 0)) i (fun c => fits c && decide (underLanes c = 0) && decide (deeperThan c 8 = 0)) = true ∧
    meets (deep 9 (wit 0)) i (fun c => fits c && decide (underLanes c = 0) && decide (deeperThan c 8 ≠ 0) && !queueFull c.g) = true ∧
    meets (wit 0) i (fun c => fits c && decide (underLanes c ≠ 0)) = true := by decide +kernel
/-- O16: EXIT, YIELD under both kinds of policy, TRAP and BKPT with and without an active lane. -/
theorem test_met_ExitYieldAndTraps :
    allMeet (wit 0) [0x767, 0x768, 0x76d] = true ∧ meets (wit 0) (.yield (rrr .unused .unused .unused .unused 0)) (fun c => !lrDetPolicy c.gr.lr) = true ∧
    meets (wit detPolicy) (.yield (rrr .unused .unused .unused .unused 0)) (fun c => lrDetPolicy c.gr.lr) = true ∧
    idle (wit 0) (.trap { ri .unused .unused 0 5 with pred := p0 }) = true ∧ idle (wit 0) (.bkpt { ri .unused .unused 0 5 with pred := p0 }) = true := by
  decide +kernel
/-- O22: an instruction with an encoding; O25: an unassigned pair, and an assigned one that is ILLOP. -/
theorem test_met_Encoding : (Instr.iadd (rrr (d 5) (v 1) (v 2) .unused 3)).wf = true ∧ bxTypeIllop (.iadd (rrr (d 5) (v 1) (v 2) .unused 3)) = false
    ∧ decode 0x723 = .illop ∧ decode (0x742 + (10 + 32 * 19) * 2 ^ 65) = .illop := by decide
/-- O26: a core with a candidate, its issue, and the slot it fetches. -/
theorem test_met_StepRunsDecoded : let s := { coded nops (wit 0) with cur := none }
    coreNominees s 0 = [[G0]] ∧ (groupAt s G0).any (fun g => issuable g && decide (readyMask g ≠ 0)) = true ∧
    (match issueGroup s G0 with | .next t => issued t G0 | _ => false) = true := by decide +kernel
/-- O26: two teams of a core with a candidate each. -/
theorem test_met_StepTwoTeams :
    let s := { coded nops (wit 0) with cur := none }
    let s := { s with teams := s.teams ++ (s.teams.map fun (t : Team) => { t with ref := ⟨0, 1⟩, slot := 1 }) }
    coreNominees s 0 = [[G0], [⟨⟨0, 1⟩, 0⟩]] ∧
    let s := nominated s G0 []
    (groupAt s ⟨⟨0, 1⟩, 0⟩).any (fun g => issuable g && decide (readyMask g ≠ 0)) = true ∧
    (match issueGroup s ⟨⟨0, 1⟩, 0⟩ with | .next t => issued t ⟨⟨0, 1⟩, 0⟩ | _ => false) = true := by decide +kernel
/-- O26: a pair of IADD v5 and FADD v6 in slots 0 and 1. -/
theorem test_met_StepPair :
    let i : Instr := .fadd (rrr (d 5) (v 1) (v 2) .unused 10)
    let j : Instr := .iadd (rrr (d 6) (v 3) (v 4) .unused 3)
    let s := { coded nops (wit 0) with cur := none }
    i.pairable = true ∧ j.pairable = true ∧ earlyTrap i (atSlot s G0 0x10000 false) = none ∧ earlyTrap j (atSlot s G0 0x10001 true) = none ∧
    lateCheck i (atSlot s G0 0x10000 false) = .run ∧ (match exec i (atSlot s G0 0x10000 false) with
      | .next a => issued a G0 && (let b := atSlot { a with cur := none } G0 0x10001 true
          decide (lateCheck j b = .run) && (match exec j b with | .next x => issued x G0 | _ => false))
      | _ => false) = true := by decide +kernel
/-- O27, O28, O29: the state after reset. -/
theorem test_met_Steps : State.reset.boot.powered = true ∧ Memory.wf State.reset.mem ∧ State.reset.wbuf = []
    ∧ (match step State.reset with | .next _ => true | _ => false) = true := by decide +kernel
/-- A package without power, and POWER_ON as its next choice. -/
theorem test_met_NoPower : let s := { State.reset with boot := { State.reset.boot with powered := false } }
    s.boot.powered = false ∧ s.agenda = [] ∧ ({ s with agenda := [.event .powerOn] } : State).agenda = .event .powerOn :: [] := by decide
/-- The checks before an instruction's own effect pass. -/
def staticOk (s : State) (i : Instr) (p : Ctx → Bool) : Bool := match ctxOf i s with
  | some c => issuable c.g && decide (staticTrap c = none) && !i.shape.pred.never && p c
  | none => false
/-- O31: privileged instructions in program code, with the lowest privileged register. -/
theorem test_met_Privilege : ([.trapret (rrr .unused .unused .unused .unused 0), .tlbinvAll (mf .unused .unused .unused 0 0),
    .slogctlDrain (ri .unused .unused 0 0), .csrr (ri (d 2) .unused 0 0x100), .csrw .write (ri .unused (v 2) 0 0x100)].all fun i : Instr =>
      match ctxOf i (wit 0) with
      | some c => issuable c.g && i.wf && boundsOk c && c.g.status != .handler
      | none => false) = true := by decide +kernel
/-- O31: opcodes 0xd0 and 0xdb on a core of class V, and on one of class W. -/
theorem test_met_AbsentUnits : ([5, 7].all fun k => [Instr.tmap (rrr .unused (.uni 4) .unused .unused 0), .heapclr (ri .unused .unused 0 64)].all fun i =>
      staticOk { wit 0 with pkg := { State.reset.pkg with hmap := [(0, k)] } } i fun c =>
        decide (srcChecks c.t c.r.grp c.g (srcList c.t c.g c.act c.h) = .go) && decide (dstCheck c.t c.r.grp c.g c.h.kd c.h.dst = .go)
          && decide (2 ≤ coreClass c.s c.t.core)) = true := by decide +kernel
/-- O32: one source at each level in each state. -/
theorem test_met_SourceStates :
    let i (x : Src) : Instr := .iabs (rrr (d 2) x .unused .unused 3)
    let one (s : State) (x : Src) (p : Group → Bool) : Bool := staticOk s (i x) fun c =>
      decide (srcList c.t c.g c.act c.h = [(x, 1)]) && (runOf c.g 1).isNone && p c.g
    let slot (b : Bool) (s : State) : State := modG (fun g => { g with cuffs := g.cuffs.setIfInBounds 0 ⟨b, none, zeroWords, some 0⟩ }) s
    let late (b : Bool) (s : State) : State := modG (fun g => { g with ly := ⟨b, Lanes.all 0, some 0⟩ }) s
    one (regState 1 .dead (wit 0)) (.file 1 true false) (fun g => decide ((regAt g 1).st = .dead)) = true ∧
    one (regState 1 .empty (wit 0)) (.file 1 false false) (fun g => decide ((regAt g 1).st = .empty)) = true ∧
    one (regState 1 .empty (wit 0)) (.file 1 true true) (fun g => decide ((regAt g 1).st = .empty)) = true ∧
    one (slot false (wit 0)) (.cuff 0 true false) (fun g => !(cuffAt g 0).valid) = true ∧
    one (slot true (wit 0)) (.cuff 0 false false) (fun g => (cuffAt g 0).valid && (cuffAt g 0).await.isSome) = true ∧
    one (slot true (wit 0)) (.cuff 0 true true) (fun g => (cuffAt g 0).valid && (cuffAt g 0).await.isSome) = true ∧
    one (late false (wit 0)) (.brim true false) (fun g => !(latchOf g true).valid) = true ∧
    one (late true (wit 0)) (.brim true false) (fun g => (latchOf g true).valid && (latchOf g true).await.isSome) = true ∧
    one (late true (wit 0)) (.brim true true) (fun g => (latchOf g true).valid && (latchOf g true).await.isSome) = true := by decide +kernel
/-- O33. -/
theorem test_met_NeverPredicated : (match ctxOf (.iadd { rrr (d 5) (v 1) (v 2) .unused 3 with pred := ⟨true, 7⟩ }) (wit 0) with
    | some c => issuable c.g && decide (staticTrap c = none) && c.i.shape.pred.never
    | none => false) = true := by decide +kernel
/-- O34: IADD with a Cuff slot; O35: the same, from canonical memory without pending writes or hit monitors; a compare, a uniform
instruction and a branch. -/
theorem test_met_RetireWritesResults : let i : Instr := .iadd (rrr ⟨5, false, true, 1⟩ (v 1) (v 2) .unused 3)
    let uni : Instr := .umov (ri ⟨3, true, false, 0⟩ .unused 3 5)
    meets (wit 0) (.icmp .eq (rrr ⟨6, true, false, 0⟩ (v 1) (v 2) .unused 3)) (fun c => decide (readyMask c.g ≠ 0) && decide (c.h.dst.index.toNat = 6)) = true ∧
    meets (wit 0) uni (fun c => decide (c.h.dst.index.toNat = 3) && decide (3 < c.t.regs.sregs.length)) = true ∧
    meets (wit 0) (.bra (bf .unused .unused)) (fun c => decide (readyMask c.g ≠ 0)) = true ∧
    (∀ m ∈ (wit 0).monitors, m.hit = false ∧ m.gone = false) ∧ onlyComputes i = true ∧ (wit 0).wbuf = [] ∧ Memory.wf (wit 0).mem ∧
    meets (wit 0) i (fun c => decide (readyMask c.g ≠ 0) && !i.switches && (runOf c.g 5).isNone
      && decide (dstWords c.h = 1) && decide (5 + 1 ≤ c.g.regs.length)) = true := by decide +kernel
/-- O36: two lanes of one line and one of another. -/
theorem test_met_FrameOfStores : let s := wit 0
    let ok : List (Nat × Place) := [(0, .virt 0x40000000 0x80000000 1), (1, .virt 0x4000007f 0x8000007f 1), (2, .virt 0x40000080 0x80000180 1)]
    s.l1 = [] ∧ s.host.lines = [] ∧ (∀ x ∈ s.teams, x.eops = []) ∧
    (ok.all fun x => ok.all fun y => match x.2, y.2 with
      | .virt va pa _, .virt va' pa' _ => va / 128 != va' / 128 || pa / 128 == pa' / 128
      | _, _ => true) = true ∧
    (groupAt (after (.st (mf .unused (v 0) (v 4) 2 0)) s) G0).any (fun g => g.queue.any fun a =>
      a.opc == 0x81 && (gridAt s 0).any fun gr => !isScaledAdd gr a) = true := by decide +kernel
/-- O37: the clauses' cases at the line's last bytes, at host memory's first ones, and a load through the home. -/
theorem test_met_StoresAndLoads : let s := wit 0
    s.l1 = [] ∧ s.host.lines = [] ∧ s.guests = [] ∧ (∀ k, k < 4 → region (0x8000000000000 + k) = some 2) ∧ region 0x8000007c = some 0 ∧ 0x8000007c % 128 + 4 ≤ 128 ∧ (gridAt s 0).any (fun g => !lrDet g.lr) = true
      ∧ (groupAt (after (.ld (mf (d 4) (v 0) .unused (1 + 8 + 128) 0)) s) G0).any (fun g => g.queue.any fun a =>
        a.opc == 0x80 && decide (a.cpol = 2) && decide (a.mod % 8 = 1)) = true := by decide +kernel
/-- O4: 64 bits. -/
theorem test_met_ShiftsWide : meets (wit 0) (.shf .l (rrr (d 2) (v 4) (v 1) .unused 8)) (fun _ => true) = true ∧
    meets (wit 0) (.shfi .ra (ri (d 2) (v 4) 8 63)) (fun _ => true) = true := by decide +kernel

/-- The code page marked at 0x10000, a vector table that names it for every code, and frames at 0x50000000. -/
def vectored (s : State) : State :=
  updPart (bytesAt 0x40020000 ((List.range 32).flatMap fun _ => toBytes 8 0x10000) (coded nops s)) 0 fun p =>
    { p with tvbase := 0x20001, tfbase := 0x50000000 }
def trapI : Instr := .trap (ri .unused .unused 0 5)
/-- O38: the vector entry can be read, and the frame written. -/
theorem test_met_TrapEntry : let s := vectored (wit 0)
    (match ctxOf trapI s with
      | some c => decide (c.s = s) && decide (c.r = G0) && decide (groupAt s G0 = some c.g) && decide (c.g.saved.length < 2)
        && (vectorEntry { c.s with cur := none } c.t c.gr tcSwtrap).isSome
      | none => false) = true := by decide +kernel
/-- O38: writing a frame changes no team, so the group is as before. -/
theorem test_met_TrapFrame (b : List Byte) : ∃ u, frameWrite (vectored (wit 0)) 0 0 0x50000000 b = some u ∧
    groupAt u G0 = groupAt (vectored (wit 0)) G0 := by
  have h : (match xlate (vectored (wit 0)) 0 0 0x50000000 2 with | .ok _ _ _ => true | .err _ => false) = true := by decide +kernel
  cases e : frameWrite (vectored (wit 0)) 0 0 0x50000000 b with
  | some u => exact ⟨u, rfl, by simp only [groupAt, teamAt, frameWrite_teams e]⟩
  | none =>
    unfold frameWrite at e
    split at e
    · cases e
    · rename_i k x
      rw [x] at h
      cases h
/-- A group in its handler, with a frame of zeros. -/
def trapped (s : State) : State := modG (fun g => { g with
  cause := { g.cause with tframe := 0x40008000 }
  saved := [⟨⟨0, 0, 0, 0, 0, 0⟩, false, Lanes.all (none, false), [], [], [], [], Lanes.all 0, 0⟩] }) (handler (mapped s))
/-- O39: with an active lane and without; a frame of zeros, one whose lane 0 resumes at a target with bit 3 set, and one that no page
holds. -/
theorem test_met_TrapReturns : let f := rrr .unused .unused .unused .unused 0
    let finds (s : State) (p : Resumed → Bool) : Bool :=
      meets s (.trapret f) fun c => !framePending c && p (trapReturn c.s c.t c.gr c.g)
    meets (trapped (wit 0)) (.trapret f) (fun c => decide (presentMask c.g ≠ 0) && decide (c.g.saved.length = 1)
      && (frameRead c.s c.t c.g.cause.tframe.toNat).any fun b =>
        decide (frameNat b 0x140 8 = 0) && !((frameNat b 0x148 8).testBit 10)) = true ∧
    finds (trapped (wit 0)) (fun x => match x with | .group _ _ => true | _ => false) = true ∧
    finds (bytesAt 0x80008040 [8] (trapped (wit 0))) (fun x => match x with | .badTarget _ _ => true | _ => false) = true ∧
    finds (modG (fun g => { g with cause := { g.cause with tframe := 0x90000000 } }) (trapped (wit 0)))
      (fun x => match x with | .unreadable => true | _ => false) = true ∧
    idle (trapped (wit 0)) (.trapret { f with pred := p0 }) = true := by decide +kernel
/-- O39: a store of the handler to its frame that is queued. -/
theorem test_met_TrapretWaits :
    let s := again (after (.st (mf .unused (v 0) (v 4) 2 0)) (pair 0 0x40008000 (trapped (wit 0))))
    meets s (.trapret (rrr .unused .unused .unused .unused 0)) (fun c => framePending c) = true := by decide +kernel
/-- O40: a store of a deterministic launch that is tried at its issue, and a load without an active lane. -/
theorem test_met_MemoryDet : let f := mf .unused (v 0) (v 4) 2 0
    meets (pair 0 0x40000000 (mapped (wit det))) (.st f) (fun c =>
      lrDet c.gr.lr && !queueFull c.g
        && match tryAccess (pushAccess c.r (accessOf c c.act f.dst f.mod.toNat (addrOf c f 64) c.bv) c.s) c.r c.g.queue.length false with
          | .done _ => true
          | _ => false) = true ∧
    idle (wit 0) (.ld { mf (d 2) (v 0) .unused 2 0 with pred := p0 }) = true := by decide +kernel
/-- O41: waits without an active lane. -/
theorem test_met_WaitsIdle : idle (wit 0) (.mwait .timed { mf (d 4) (v 0) (v 2) 3 0 with pred := p0 }) = true ∧
    idle (wit 0) (.tkwait { ri (d 2) .unused 0 0 with pred := p0 }) = true := by decide +kernel
/-- Two logical dies. -/
def ndie (s : State) : State := updGrid s 0 fun g => { g with lr := toBytes 4 (1 + 2 ^ 13) ++ g.lr.drop 4 }
/-- O42: no access is unperformed and no side log holds one; cooperative or not, with dies bound or not. -/
theorem test_met_BarriersArrive :
    let quiet (c : Ctx) : Bool := !unperformed c && !slogHolds c.s c.r c.t.core
    let bar (f : RI → Instr) (s : State) (p : Ctx → Bool) : Bool := meets s (f (ri .unused .unused 0 3)) fun c => quiet c && p c
    bar .barSync (wit 0) (fun _ => true) = true ∧ bar .barArv (wit 0) (fun _ => true) = true ∧ bar .cbar (wit 0) (fun _ => true) = true ∧
    bar .dbar (ndie (wit coop)) (fun c => decide (lrNdie c.gr.lr ≠ 0) && lrCoop c.gr.lr) = true ∧
    bar .gridbar (wit coop) (fun c => lrCoop c.gr.lr) = true ∧ bar .gridbar (wit 0) (fun c => !lrCoop c.gr.lr) = true ∧
    bar .dbar (wit coop) (fun c => decide (lrNdie c.gr.lr = 0)) = true ∧ bar .dbar (ndie (wit 0)) (fun c => !lrCoop c.gr.lr) = true ∧
    meets (wit 0) (.bart (ri (d 4) (v 2) 0 0)) quiet = true := by decide +kernel
/-- O42: no active lane. -/
theorem test_met_BarriersIdle : let f : RI := { ri .unused .unused 0 3 with pred := p0 }
    idle (wit 0) (.barSync f) = true ∧ idle (wit 0) (.barArv f) = true ∧ idle (wit 0) (.cbar f) = true ∧
    idle (wit 0) (.bart { ri (d 4) (v 2) 0 0 with pred := p0 }) = true ∧
    idle (ndie (wit coop)) (.dbar f) = true ∧ idle (wit coop) (.gridbar f) = true := by decide +kernel
/-- O43. -/
theorem test_met_TeamBarrierCompletes : meets (wit 0) (.barSync (ri .unused .unused 0 15)) (fun c =>
    decide (teamAt (wit 0) T0 = some c.t) && decide (gridAt (wit 0) 0 = some c.gr) && decide (c.s = wit 0) && decide (c.t.groups = [c.g])
      && decide (c.g.status = .ready) && decide (c.act = presentMask c.g) && decide (c.gr.released = []) && decide (c.t.regs.bars.length = 16)
      && ((List.range 32).all fun l => decide ((threadAt c.g l).mark = .none) && decide ((threadAt c.g l).park = none))
      && decide ((barGet (wit 0) T0 (.team 15)).arrived = [])) = true := by decide +kernel
/-- O44: a full capacity of 16,384; an allowance of one and none; an entry and none; the allowance at its limit and above. -/
theorem test_met_HardwareQueues :
    let has (c : Ctx) : Bool := (hqAt c.s c.t.core 0).isSome
    meets (fifo (wit 0)) (.hqinit (ri .unused .unused 0 (256 * 16383))) (fun c => (clusterOfCore c.s c.t.core).any fun cl => cl.hqs.isEmpty) = true ∧
    meets (hq [] 1 (wit 0)) (.hqpush (rrr .unused (v 0) .unused .unused 0)) (fun c => has c && !unreleased c && !queueFull c.g) = true ∧
    meets (hq [] 0 (wit 0)) (.hqpush (rrr .unused (v 0) .unused .unused 0)) (fun c => has c && !unreleased c && !queueFull c.g) = true ∧
    meets (hq [5] 0 (wit 0)) (.hqpop (rrr (d 1) .unused .unused .unused 0)) has = true ∧
    meets (hq [] 0 (wit 0)) (.hqpop (rrr (d 1) .unused .unused .unused 0)) (fun c => has c && !queueFull c.g) = true ∧
    meets (hq [] 1048573 (wit 0)) (.hqallow (ri .unused .unused 0 (65536 * 3))) has = true ∧
    meets (hq [] 1048574 (wit 0)) (.hqallow (ri .unused .unused 0 (65536 * 3))) has = true := by decide +kernel
/-- O45: ACCALLOC to 16 banks and to 17, ACCFREE, BANKMODE to the same mode and to another, ROLE. -/
theorem test_met_TeamResources :
    let acc (n : Nat) : State := modT (fun t => { t with accN := n }) (wit 0)
    let alloc : Instr := .accalloc (ri ⟨3, true, false, 0⟩ .unused 0 2)
    meets (acc 14) alloc (fun c => (accWaiting c.s c.t.core).isEmpty && decide (2 ≤ freeBanks c.s c.t.core)) = true ∧
    meets (acc 15) alloc (fun c => decide (16 < c.t.accN + 2)) = true ∧
    meets (acc 2) (.accfree (ri .unused .unused 0 2)) (fun c => c.t.eops.isEmpty && decide (c.t.accN = 2)) = true ∧
    meets (fifo (wit 0)) (.bankmode (ri .unused .unused 0 32)) (fun c => decide (c.t.banks.head?.map (·.mode) = some .fifo)) = true ∧
    meets (fifo (wit 0)) (.bankmode (ri .unused .unused 0 0)) (fun c => !bankUsed c 0 && (bankQueues c.s c.r.team 0).isEmpty) = true ∧
    meets (wit 0) (.role (ri .unused .unused 0 0x3ff)) (fun _ => true) = true := by decide +kernel
/-- O45: LQCFG on and off, and the address engine. -/
theorem test_met_Streams :
    let s := loopq (streamAt .configured (wit 0))
    meets (wit 0) (.lqcfg (ri .unused .unused 0 (8 + 16 * 4 + 4096 * 3))) (fun c => !streamFeeds c.t c.r.grp 0
      && ((List.range 8).all fun k => decide (c.g.loopqs.toList.getD k none = none))
      && (List.range 4).all fun j => decide ((regAt c.g (4 + j)).st ≠ .empty)) = true ∧
    meets (loopq (wit 0)) (.lqcfg (ri .unused .unused 0 0)) (fun c => !streamFeeds c.t c.r.grp 0
      && decide (c.g.loopqs.toList.getD 0 none = some ⟨4, 4, 0, 0, false⟩)) = true ∧
    meets s (.aego (ri .unused .unused 0 0)) (fun c => !progFed c.t && c.g.queue.isEmpty && !slogHolds c.s c.r c.t.core) = true ∧
    meets s (.aestop (ri .unused .unused 0 0)) (fun _ => true) = true ∧
    meets (bytesAt 0x80000050 (toBytes 4 3) (loopq (pair 0 0x40000000 (mapped (wit 0))))) (.aecfg (mf .unused (v 0) .unused 0 0)) (fun c =>
      decide (c.t.stream.st ≠ .running) && match lineLoad c false 7 (laneAddr c (mf .unused (v 0) .unused 0 0) c.low).toNat 2 with
        | .got b _ => streamOk c b
        | _ => false) = true := by decide +kernel
/-- O46: maps, quarter operations, tiles. -/
theorem test_met_Engine :
    let quarter (sparse : Bool) (f : RRR) : Bool :=
      meets (reg 13 0x44444444 (reg 12 16 (tileMaps (if sparse then 16 else 32) (wit 0)))) (if sparse then .mqmas f else .mqma f) fun c =>
        (List.range 4).all fun q => decide (lowestCode (quarterOp c q sparse f.mod).1 = none) && decide (sliceQueue c.s c.t.core q < 8)
    let none' : RI := ri .unused .unused 0 0
    meets (wit 0) (.tmap (rrr .unused (.uni 4) .unused .unused 1)) (fun c => ((List.range 4).all fun k => !uniBusy c.t (4 + k))
      && !mapReserved (sregOf c.t 4).toNat) = true ∧
    meets (sreg 4 (2 ^ 63) (wit 0)) (.tmap (rrr .unused (.uni 4) .unused .unused 1)) (fun c => ((List.range 4).all fun k => !uniBusy c.t (4 + k))
      && mapReserved (sregOf c.t 4).toNat) = true ∧
    allMeet (wit 0) [0x7d1] = true ∧ quarter false (rrr .unused (v 12) .unused .unused 0) = true ∧
    quarter true (rrr .unused (v 12) (v 13) .unused 0) = true ∧
    meets (wit 0) (.mzero none') (fun c => decide (lowestCode (tileCodes c.t (tileRange 0)) = none) && !transferFull c.s c.t.core) = true ∧
    meets (wit 0) (.mwaita none') (fun c => decide (lowestCode (tileCodes c.t (tileRange 0)) = none) && c.t.eops.isEmpty) = true ∧
    meets (wit 0) (.attnf (ri .unused .unused 0 64)) (fun c => decide (lowestCode (tileCodes c.t [0, 1]) = none) && !gauntletFull c.s c.t.core) = true := by
  decide +kernel
/-- O46: tile transfers and heap reads. -/
theorem test_met_EngineTransfers :
    let f := mf .unused .zero (.uni 2) 0 0x40000000
    let goes (i : Instr) (k : EngKind) : Bool := meets (sreg 2 640 (mapped (wit 0))) i fun c =>
      let x := Xc.of ((c.bv c.low) % 2 ^ 64) (c.bv c.low / 2 ^ 64)
      !x.space && decide (lowestCode (xferCodes c k x (c.a64 c.low + f.off.signExtend 64).toNat) = none) && !transferFull c.s c.t.core
    let row (i : Instr) : Bool := meets (wit 0) i fun c => decide (lowestCode (poolCodes c.t [(0, 2048)]) = none) && !queueFull c.g
      && decide (lowestCode (tileCodes c.t [0]) = none)
    goes (.mload f) .load = true ∧ goes (.mdrain f) .drain = true ∧ goes (.mdrainAdd f) .drainAdd = true ∧
    row (.heaprd (ri (d 2) .unused 0 0)) = true ∧ row (.heaprdTopk (ri (d 2) (v 0) 0 0)) = true ∧ row (.heaprdTopp (ri (d 2) (v 0) 0 0)) = true ∧
    meets (wit 0) (.heapclr (ri .unused .unused 0 64)) (fun c => !transferFull c.s c.t.core
      && decide (lowestCode (poolCodes c.t ((clrRows 64).map fun k => (65536 * k.1 + 2048 * k.2, 2048))) = none)) = true := by decide +kernel
/-- O46: an attention operation of each mask. -/
theorem test_met_Attention : ([AttnMask.tree, .causal, .none].all fun k =>
    meets (atd (wit 0)) (.attn k (rrr .unused (v 0) .unused .unused 0)) fun c =>
      let w := (List.range 32).map fun i => poolNat c.t (4 * i) 4
      let a := Atd.of w
      let q := TileMap.ofNat (mapOf c.t a.qmap)
      decide ((c.a32 c.low).toNat = 0) && decide (lowestCode (poolCodes c.t [(0, 128)]) = none) && c.g.queue.isEmpty
      && decide (poolLocked c.s c.t [(0, 128)] false = none) && decide (poolLocked c.s c.t [(a.qtab, 8 * a.nq)] false = none)
      && !(a.reserved || a.nq = 0 || decide (64 < a.nq) || a.klen = 0 || decide (65536 < a.klen) || a.kstart % 64 != 0
        || decide (3 < a.dlog) || !(attnMapOk (mapOf c.t a.qmap) a))
      && decide (lowestCode (tileCodes c.t a.tiles ++ poolCodes c.t (attnRuns q a.nq) ++ poolCodes c.t [(a.qtab, 8 * a.nq)]
        ++ (match windowPlace c.s c.gr c.r.team.lin a.arrive 8 with | .inr e => [e] | .inl _ => [])) = none)
      && decide (lowestCode (attnBad c.s c.t.part a q (rowTable c.t a k)) = none) && !gauntletFull c.s c.t.core) = true := by decide +kernel
/-- O47: copies of a deterministic launch to a writable page, and to none. -/
theorem test_met_CopiesDet :
    let f := mf .unused .zero .unused 0 0
    let into (n : Nat) : State := bankWords [(0, 1), (8, 0x1000), (0x10, n), (0x18, 16), (0x1c, 1), (0x20, 1), (0x24, 0xffffffff)] (mapped (wit det))
    let finds (n : Nat) (p : Sum (Nat × Nat × Nat) Bool → Bool) : Bool := meets (into n) (.copy .d1 f) fun c =>
      match lineLoad c true 7 ((laneAddr c f c.low).toNat % 2 ^ 32) 0 with
      | .got b _ => !copyBadShape (some .d1) b && decide (lowestCode (copyCodes c false b) = none) && lrDet c.gr.lr && !dDsp b
          && p (copyDestination c false b)
      | _ => false
    finds 0x40002000 (fun x => match x with | .inr _ => true | .inl _ => false) = true ∧
    finds 0x90002000 (fun x => match x with | .inl _ => true | .inr _ => false) = true := by decide +kernel
/-- O47: copies and gathers, COPYST, TLBINV of a canonical page and of another, SLOGCTL. -/
theorem test_met_ClusterInstructions :
    let f := mf .unused .zero .unused 0 0
    let goes (k : Option CopyDims) : Bool := meets (copyDesc 3 (wit 0)) (match k with | some k => .copy k f | none => .gather f) fun c =>
      match lineLoad c true 7 ((laneAddr c f c.low).toNat % 2 ^ 32) 0 with
      | .got b _ => !copyBadShape k b && decide (lowestCode (copyCodes c k.isNone b) = none)
          && (clusterOfCore c.s c.t.core).any (fun cl => cl.copies.isEmpty && decide (locksUsed c.s cl + 3 ≤ 64)) && !lrDet c.gr.lr
      | _ => false
    let page : MF := mf .unused (v 0) (v 2) 0 0
    goes (some .d1) = true ∧ goes (some .d2) = true ∧ goes (some .d3) = true ∧ goes none = true ∧
    meets (wit 0) (.copyst (mf (d 2) .unused .unused 0 0)) (fun c => decide (copiesOf c.s c.r = 0)) = true ∧
    meets (handler (pair 0 0x00ffffffffffffff (wit 0))) (.tlbinvPage page) (fun c => canonical (laneAddr c page c.low).toNat) = true ∧
    meets (handler (pair 0 0x0100000000000000 (wit 0))) (.tlbinvPage page) (fun c => !canonical (laneAddr c page c.low).toNat) = true ∧
    allMeet (handler (wit 0)) [0x17e4, 0x27e4] = true ∧ allMeet (wit 0) [0x7e5] = true ∧
    meets (handler (wit 0)) (.slogctlDrain (ri .unused .unused 0 0)) (fun c => (clusterOfCore c.s c.t.core).isSome) = true := by decide +kernel
/-- O48: outside and inside a deterministic launch; DSCALE direct, buffered and after a TKCOMMIT; both forms of LNCH. -/
theorem test_met_TicketsAndLaunches :
    let quiet (c : Ctx) : Bool := !slogHolds c.s c.r c.t.core
    let open' (c : Ctx) : Bool := ((List.range 32).all fun l => !(threadAt c.g l).post) && !c.t.tk.abortMark && lrDet c.gr.lr
    let f : RI := ri .unused .unused 0 256
    meets (wit 0) (.tkcommit (ri .unused .unused 0 0)) (fun c => quiet c && !lrDet c.gr.lr) = true ∧
    meets (wit det) (.tkcommit (ri .unused .unused 0 0)) (fun c => quiet c && lrDet c.gr.lr) = true ∧
    meets (wit 0) (.dscale f) (fun c => !lrDet c.gr.lr && !scaleOwed c.s c.gr c.t) = true ∧
    meets (wit det) (.dscale f) (fun c => open' c && !ticketBuffers c.gr c.t && (waitingBorn c.s c.t).isEmpty && !scaleOwed c.s c.gr c.t) = true ∧
    meets (buffering (wit det)) (.dscale f) (fun c => open' c && ticketBuffers c.gr c.t
      && (addEntries c.s c.t c.gr [newEntry 0 (.scale 0 16) (stamp c.s)]).isSome) = true ∧
    meets (modThreads (fun t => { t with post := true }) (wit det)) (.dscale f) (fun c => lrDet c.gr.lr && !c.t.tk.abortMark && (threadAt c.g 0).post) = true ∧
    meets (modT (fun t => { t with tk := { t.tk with abortMark := true } }) (wit det)) (.dscale f) (fun c => lrDet c.gr.lr && c.t.tk.abortMark) = true ∧
    ([0x7eb, 0x17eb].all fun w => match decodeTableWord 96 w with
      | some i => meets (wit 0) i fun c => !queueFull c.g
      | none => false) = true := by decide +kernel
/-- O50: a descriptor for each class, and XFFENCE with nothing outstanding. -/
theorem test_met_FabricInstructions :
    let goes (i : MF → Instr) (t : Dst) (ty len : Nat) : Bool :=
      let f := mf t .zero .unused 0 0
      meets (fabDesc ty len (wit 0)) (i f) fun c => match lineLoad c true 6 ((laneAddr c f c.low).toNat % 2 ^ 32) 0 with
        | .got b _ => decide (lowestCode (xdCodes c (fabClass (i f).opc) b) = none) && !queueFull c.g
        | _ => false
    goes .xfput .unused 0 16 = true ∧ goes .xfget .unused 0 16 = true ∧ goes .xfwork (d 2) 0 64 = true ∧ goes .xfred .unused 3 1 = true ∧
    goes .xfsred .unused 4 1 = true ∧
    meets (wit 0) (.xffence (ri .unused .unused 0 0)) (fun c => c.g.queue.isEmpty && c.s.fabric.ops.isEmpty) = true := by decide +kernel

/-- SHA-384 of the message abc (R413), from FIPS 180-4's example. -/
theorem test_sha384_abc : (sha384 [0x61, 0x62, 0x63]).foldl (fun n b => 256 * n + b.toNat) 0 =
    0xcb00753f45a35e8bb5a03d699ac65007272c32ab0eded1631a8b605a43ff5bed8086072ba1e7cc2358baeca134c825a7 := by decide +kernel

/-! The events. -/

/-- The instruction of a 96-bit slot. -/
def afterW (w : Nat) (s : State) : State := match decodeTableWord 96 w with | some i => after i s | none => s
/-- O51: a load and a store that are queued, an instruction whose turn came, a pending cause with its vector. -/
theorem test_met_AccessEvents :
    let s := pair 0 0x40000000 (mapped (wit 0))
    let ld := after (.ld (mf (d 4) (v 0) .unused 2 0)) s
    let st := after (.st (mf .unused (v 0) (v 4) 2 0)) s
    ((entryAt ld G0 0).any givesResult && partRuns ld T0 && (entryTry ld G0 0 false).isSome) = true ∧
    ((entryAt st G0 0).any (fun a => !givesResult a && !isRequest a.opc) && partRuns st T0 && (entryTry st G0 0 false).isSome) = true ∧
    (waitingTurn (drained (afterW 0x7eb (buffering (wit det)))) G0).isSome = true ∧
    (trapEntry (modG (fun g => { g with pending := [causeInfo tcCancel 0] }) (vectored (wit 0))) G0).isSome = true := by decide +kernel
/-- O51: what can be late is late when its time has passed. -/
theorem test_met_Timeouts :
    let late (s : State) : State := later 100 (bartmo 100 s)
    let bar := modT (fun t => { t with regs := { t.regs with bars := t.regs.bars.set 0 ⟨false, [0], [], some 0, []⟩ } }) (wit 0)
    let twin (s : State) : State := { s with teams := s.teams ++ (s.teams.map fun (t : Team) => { t with ref := ⟨0, 1⟩, accN := 8 }) }
    let full := after (.accalloc (ri ⟨3, true, false, 0⟩ .unused 0 14)) (twin (modT (fun t => { t with accN := 2 }) (wit 0)))
    (barrierTimeout (late bar) (.team T0 0)).isSome = true ∧
    (lateArrwait (late (afterW 0x600000000007bb (wit 0))) G0).isSome = true ∧
    (lateBart (later 100 (after (.bart { ri (d 4) (v 2) 0 0 with pred := p0 })
      (reg 2 50 (modG (fun g => updThreads g 1 fun _ t => { t with preds := 1 }) (wit 0))))) G0 0).isSome = true ∧
    (lateWait (later 100 (after (.arrwait .timed (mf (d 4) .zero (v 2) 3 0)) (reg 3 50 (wit 0)))) G0).isSome = true ∧
    (lateQueue (late (afterW 0x7bd (hq [] 0 (wit 0)))) G0).isSome = true ∧
    ((lateAlloc (late full) G0).isSome && (teamAt (late full) T0).isSome) = true := by decide +kernel
/-- Every operation of the team's engines has started. -/
def started (s : State) : State := modT (fun t => { t with eops := t.eops.map fun (o : EngOp) => { o with started := true } }) s
/-- O52: the address engine, the engines' starts, completions and faults. -/
theorem test_met_EngineEvents :
    let q := after (.mqma (rrr .unused (v 12) .unused .unused 0)) (reg 12 16 (tileMaps 32 (wit 0)))
    let z := after (.mzero (ri .unused .unused 0 0)) (wit 0)
    (streamStep (streamAt .running (loopq (mapped (wit 0)))) T0).isSome = true ∧
    (teamAt q T0).any (fun t => !coreHeld q t && (nextPass q t).isSome) = true ∧
    (teamAt z T0).any (fun t => (nextTransfer z t.core).any fun o => !coreHeld z t && opFree t o && t.eops.any fun x => x.id == o.id) = true ∧
    (progressOf (started z) T0 false).isSome = true ∧
    (progressOf (started (after (.attn .causal (rrr .unused (v 0) .unused .unused 0)) (atd (wit 0)))) T0 true).isSome = true ∧
    (faulting (started (after (.mload (mf .unused .zero (.uni 2) 0 0x40000000)) (sreg 2 640 (wit 0)))) T0).isSome = true := by decide +kernel
/-- O52: the drain, a slot's release, CANCEL, the budget. -/
theorem test_met_TeamEvents :
    (drainStep (buffering (wit det)) T0).isSome = true ∧
    canTeamSlotRelease (modG (fun g => { g with status := .done }) (modT (fun t => { t with eops := [] }) (wit 0))) T0 = true ∧
    ((teamAt (modT (fun t => { t with pruned := true }) (wit 0)) T0).any fun t => !t.cancelled && t.pruned) = true ∧
    (coreRegsOf (later 2400 (wit 0)) 0).periodAt < periodStart (later 2400 (wit 0)) 0 := by decide +kernel
/-- O53: a copy that can start, one that moves, one that faults (a program's, a graph's), and an entry of the side log. -/
theorem test_met_ClusterEvents :
    let copy (ctl : Nat) : State := after (.copy .d1 (mf .unused .zero .unused 0 0)) (copyDesc ctl (wit 0))
    let go (r : Option (Nat × Nat)) (s : State) : State :=
      updCluster s C0 fun c => { c with copies := c.copies.map fun (o : CopyOp) => { o with started := true, run := r } }
    let st := after (.accessRetirement G0 0) (after (.st (mf .unused (v 0) (v 4) 2 0)) (pair 0 0x40000000 (wit 0)))
    (copyStartable (copy 3) C0 0 && (copyAt (copy 3) C0 0).isSome) = true ∧ (copyProgress (go none (copy 3)) C0 0).isSome = true ∧
    (copyFaulting (go none (copy 1)) C0 0).any (fun x => decide (x.2.1.run = none)) = true ∧
    (copyFaulting (go (some (0, 0)) (copy 1)) C0 0).any (fun x => decide (x.2.1.run = some (0, 0))) = true ∧
    (decide ((partOf st 0).life ≠ .halted) && (clusterAt st C0).any fun x => !x.slog.isEmpty) = true := by decide +kernel
/-- A record that launches a template, a graph's record, and the graph: one SIGNAL. -/
def workRec : List Byte := toBytes 4 2 ++ zeroBytes 124
@[inherit_doc workRec] def graphRec : List Byte := toBytes 4 3 ++ zeroBytes 124
@[inherit_doc workRec] def graphed (s : State) : State :=
  updPart (bytesAt 0x80000000 (toBytes 8 0x40000200 ++ toBytes 8 (2 ^ 12))
    (bytesAt 0x80000200 (toBytes 4 5 ++ zeroBytes 4 ++ toBytes 8 0x40001000 ++ toBytes 8 7 ++ zeroBytes 40) s)) 0 fun p =>
    { p with graphbase := 0x40000000 }
/-- The state in which a record of queue 0 starts. -/
def taking (s : State) : State :=
  let prio := qdPrio (qdBytes s 0)
  updPart (updQueue s 0 fun x => { x with waiting := [], running := x.running ++ [0] }) 0 fun p =>
    { p with served := (prio, 0) :: p.served.filter fun y => y.1 != prio }
/-- O54: a record rings in, and records of the three kinds start. -/
theorem test_met_Records :
    let bell := queued (record 0) (wit 0)
    let tmpl := bytesAt 0x30010 (toBytes 8 0x40000000) (bytesAt 0x80000000 (record 0) (queued workRec (wit 0)))
    let gph := graphed (queued graphRec (wit 0))
    let b := ((List.range 16).map fun k => BitVec.ofNat 64 (ofBytes (((record 0).drop (8 * k)).take 8))).flatMap fun (w : DWord) => toBytes 8 w.toNat
    let bell1 := updWindow bell 0 fun w => { w with bytes := b ++ w.bytes.drop b.length }
    let start (s : State) : Bool := decide (servedQueue s 0 = some 0) && decide (qdPart (qdBytes s 0) = 0)
      && decide ((queueOf s 0).waiting.map (·.slot) = [0]) && decide (virtLacks s 0 (headReads s 0) = [])
    (decide (qdPart (qdBytes bell 0) = 0) && decide (recReason bell1 0 (windowOf bell1 0).bytes .host = none)
      && decide (virtLacks bell1 0 (enqReads bell1 0 (windowOf bell1 0).bytes) = []) && qdOn (qdBytes bell1 0)
      && decide (queueOcc bell1 0 < qdSlots (qdBytes bell1 0))) = true ∧
    (start bell && match beginGrid (taking bell) 0 0 0 (qdPrio (qdBytes bell 0)) none (record 0) [] [] false with
      | .inl _ => true
      | .inr _ => false) = true ∧
    (start tmpl && match workRecord (taking tmpl) 0 0 (qdBytes tmpl 0) workRec with
      | some b => (match beginGrid (taking tmpl) 0 0 0 (qdPrio (qdBytes tmpl 0)) none b [] [] true with | .inl _ => true | .inr _ => false)
      | none => false) = true ∧
    (start gph && (graphNodes (taking gph) 0 0).any fun ns => decide (graphBad ns = none)) = true := by decide +kernel
/-- O54: a team's placement, a grid's completion, a graph's node. -/
theorem test_met_Launches :
    let placed := after (.recordStart 0 0) { queued (record 0) (wit 0) with grids := [], teams := [] }
    let fin := updGrid (wit 0) 0 fun g => { g with released := [0] }
    let g1 := after (.recordStart 0 0) (graphed (queued graphRec (wit 0)))
    let g2 := after (.graphNodeActivation 0 1 0) g1
    (decide ((gridAt placed 1).map (·.id) = some 1) && canTeamPlacement placed 1 0 && (parkedOf placed 1 0).isNone) = true ∧
    (gridAt fin 0).any (fun g => decide (g.id = 0) && gridDone fin g) = true ∧
    nodeStarts g1 0 1 0 = true ∧ (finishNode g2 0 1 0).isSome = true := by decide +kernel
/-- A partition with memory and nothing running. -/
def quietState : State := { mapped (wit 0) with teams := [], grids := [], cur := none }
/-- O55: a context that can be saved, one that is written, one that is restored, and a core released after it. -/
theorem test_met_Contexts :
    let saving := after (.ctxctlSave 0 0x40000000) quietState
    let saved := after (.contextWrite 0) saving
    let back := after (.ctxctlRestore 0 0x40000000) saved
    let s1 := withCtxPart (putCtxaddr quietState 0x40000000) 0
    let s2 := withCtxPart (putCtxaddr saved 0x40000000) 0
    (!quietState.pkg.ctxBusy && (areaPa s1 0 (ctxVa s1) (contextOf s1 0 0).size 2).isSome) = true ∧ haltedYet saving 0 = true ∧
    (partOf saving 0).killing = false ∧ (let k := after (.ctxctlKill 0) quietState; haltedYet k 0 && (partOf k 0).killing) = true ∧
    (!saved.pkg.ctxBusy && !partBusy s2 0 && saved.parts.any (fun x => x.num == 0) && (areaCtx s2 0 (ctxVa s2)).any fun c =>
      !(c.grids.any fun g => lrCoop g.lr && decide (residency s2 0 g.lr < g.teams))) = true ∧
    canRestoreCoreRelease back 0 0 = true := by decide +kernel
/-- An area that the package itself knows nothing of is read from its bytes (R390). -/
theorem test_area_alone :
    let saved := after (.contextWrite 0) (after (.ctxctlSave 0 0x40000000) quietState)
    let s := { withCtxPart (putCtxaddr saved 0x40000000) 0 with saves := [] }
    (areaCtx s 0 (ctxVa s)).isSome = true := by decide +kernel
/-- O55: a cluster map that can be applied, and a clear of a partition's clusters. -/
theorem test_met_ClusterMap :
    let s := bytesAt 0x40000 [1] quietState
    let s1 := { s with pkg := { s.pkg with clmap := 0x40000, partPart := 0 } }
    let m := s.pkg.map.map fun e => if abit e 0 == 1 && e / 65536 % 16 == 0 then 0 else e
    (decide (mapReason s1 (readMap s1) = none) && !((changing s.pkg.map (readMap s1)).any fun p => partBusy s1 p)) = true ∧
    ((changing s.pkg.map m).any fun q => partBusy { s with pkg := { s.pkg with partPart := 0 } } q) = false := by decide +kernel
/-- O56: a request at its turn, pages a prune dropped, a pool's creation; its destruction and its reserve. -/
theorem test_met_Milliner :
    let r := afterW 0x7f0 (pooled (wit 0))
    let t := afterW 0x7f1 (pooled (wit 0))
    let c := updPart (bytesAt 0x80000000 (poolDesc 0x40010000) quietState) 0 fun p => { p with poolbase := 0x40000000 }
    let asks (s : State) : Bool := (entryAt s G0 0).isSome && partRuns s T0 && (requestTry s G0 0 false).isSome
    let dying := updPool (pooled (wit 0)) 0 0 fun p => { p with dying := [⟨[], none⟩] }
    asks r = true ∧ asks t = true ∧ poolQuiet (pooled (wit 0)) 0 0 = true ∧ poolQuiet dying 0 0 = false ∧
    (pruneReturn (updPart (wit 0) 0 fun p => { p with pools := [(0, { pool0 with dying := [⟨[], none⟩] })] }) 0 0).isSome = true ∧
    (decide (poolOf c 0 0 = none) && match virtRead c 0 (canon57 (bitsOf (partOf c 0).poolbase.toNat 56 12 * 4096 + 128 * 0)) 128 with
      | .inl b => (poolOfDesc b).any fun p => decide (engFault c 0 p.metaBase (p.nnode * 1024 + p.npage * 8) 3 = none)
      | .inr _ => false) = true ∧
    (poolOf (pooled (wit 0)) 0 0).any (fun p => decide (4 ≤ p.npage)) = true := by decide +kernel
/-- A message of a class, and a fabric that holds it. -/
def msg (k : MsgClass) : Message :=
  ⟨k, 2, 0, 1, 0, 0, 0, toBytes 4 1 ++ zeroBytes 20 ++ toBytes 4 16 ++ zeroBytes 36, zeroBytes 16, 0, [], []⟩
/-- O57. -/
theorem test_met_Fabric :
    let fab (f : Fabric → Fabric) : State := { State.reset with fabric := f { State.reset.fabric with pkg := 1 } }
    let get := later 1 (fab fun f => { f with ops := [⟨0, .get, G0, 0, (msg .get).desc, 1,
      engAccess false true 3 0x40000000 0, some 0, 0, none⟩] })
    (fabStep (fab fun f => { f with inbox := [(0, msg .put)] }) 0).isSome = true ∧ budgetOpen (fab id) 1 = true ∧
    (((fab fun f => { f with deferred := [(0, msg .red)] }).fabric.deferred.filter fun x => x.1 == 0)[0]?).isSome = true ∧
    (cmplRun (fab fun f => { f with inbox := [(0, msg .cmpl)] }) 0 0).isSome = true ∧
    (get.fabric.ops.find? fun o => o.tag == 0 && o.done.isNone).any (fun o => decide (o.sentAt + fabLimit ≤ (later (2 * fabLimit) get).clk)) = true ∧
    (fab fun f => { f with up := 1 }).fabric.up.getLsbD 0 = true ∧ (fab id).fabric.up.getLsbD 0 = false := by decide +kernel
/-- O58: a grant for each request, a pull, a line snooped, the two regions. -/
theorem test_met_Host :
    let h (st : Mesi) (req : Option Nat) (ev wr : Bool) : State :=
      { State.reset with host := { State.reset.host with lines := [⟨7, st, List.replicate 64 1, ev, wr, req⟩] } }
    let z := zeroBytes 64
    canGo (h .i (some 1) false false) 7 .s z = true ∧ canGo (h .i (some 3) false false) 7 .e z = true ∧
    canGo (h .i (some 2) false false) 7 .i z = true ∧ canGo (h .i (some 4) false false) 7 .e z = true ∧
    canGo (h .s (some 4) false false) 7 .e z = true ∧ canGo (h .i (some 5) false false) 7 .i z = true ∧
    canGo (h .s (some 6) false false) 7 .i z = true ∧ (hostAt (h .m none true false) 7).any (·.evicting) = true ∧
    (hostAt (h .i (some 5) false true) 7).any (fun l => l.writing && decide (l.req = some 5)) = true ∧
    region 0 = some 0 ∧ budgetOpen State.reset 0 = true ∧ State.reset.host.waiting = [] ∧
    budgetOpen { State.reset with budgets := State.reset.budgets.map fun (b : Budget) => { b with units := 1, used := 4096 } } 0 = false := by
  decide +kernel
/-- O59, O60: the commands, and the hypotheses of the periods. -/
theorem test_met_Boot :
    let busy : State := { State.reset with boot := { State.reset.boot with mbst := .busy } }
    let off : State := { State.reset with boot := { State.reset.boot with powered := false } }
    let dirty := after (.accessRetirement G0 0) (after (.st (mf .unused (v 0) (v 4) 2 0)) (pair 0 0x40000000 (mapped (wit 0))))
    State.reset.boot.mbst ≠ .busy ∧ busy.boot.mbst = .busy ∧ busy.boot.mbfail = 0 ∧ mbLeft busy = 0 ∧ budgetRoom State.reset 0 = none ∧
    partWaits State.reset 0 = false ∧ partWorks (started (after (.mzero (ri .unused .unused 0 0)) (wit 0))) 0 = true ∧
    (State.reset.host.waiting = [] ∧ mbLeft State.reset = 0) ∧ off.boot.powered = false ∧ off.agenda = [] ∧ State.reset.boot.recovery = false ∧
    (zeroBytes 32).length = 32 ∧ (budgetAt (later 24000 State.reset) 0).periodAt + 24000 ≤ (later 24000 State.reset).clk ∧
    0 < State.reset.budgets.length ∧ ((dirtyLines dirty 0)[0]?).isSome = true ∧ budgetOpen State.reset 4 = true ∧
    State.reset.host.corrected + 1 < 65536 := by decide +kernel

end Sys2Proof.Tests
end

section
/-! SUPPORT. The lane trees of R46 and R181 to R183, and the control registers of R147: what CSRR gives after a CSRW. -/

namespace Sys2Proof.Machine

/-! How an instruction takes effect, from its own part of the issue. -/

section Effects
variable {i : Instr} {s : State} {c : Ctx} {k : Ctx → Act}

/-- An instruction whose own part gives lane values and flags completes with them. -/
theorem givesLanes_of_issue {v : Nat → Nat × Flags} (h : Issues i s c) (he : exec i s = issue i s k) (hk : k c = vecAct c v) :
    GivesLanes i s c v := by
  obtain ⟨hc, hr⟩ := h
  exact he.trans (issue_go hc hr hk)

/-- An instruction whose own part gives numbers without flags completes with their low 64 bits as a 64-bit result. -/
theorem givesDWords_of_issue {v : Nat → Nat} (h : Issues i s c) (he : exec i s = issue i s k) (hk : k c = vecOf v) :
    GivesDWords i s c 0 fun l => BitVec.ofNat 64 (v l) := by
  obtain ⟨hc, hr⟩ := h
  refine ⟨fun l => BitVec.ofNat 128 (v l), he.trans (issue_go hc hr hk), fun l _ => ?_⟩
  exact BitVec.setWidth_ofNat_of_le (by decide) (v l)

/-- An instruction whose own part is an effect outside the group's operands has that effect with an active lane. -/
theorem acts_of_issue {f : State → State} (h : Issues i s c) (he : exec i s = issue i s k) (hk : k c = effect c f) : Acts i s c f := by
  obtain ⟨hc, hr⟩ := h
  intro ha
  refine he.trans (issue_go hc hr (hk.trans ?_))
  simp only [effect, if_neg ha]

end Effects

/-- Every active lane receives one pick: FMAXI and FMINI give lane values (R182). -/
theorem pickAct_eq_vecAct (c : Ctx) (m : BitVec 31) (wantMax : Bool) : ∃ v, pickAct c m wantMax = vecAct c v := ⟨_, rfl⟩

/-- Settles O19: each instruction's own part is the lane values of its tree. -/
theorem laneTrees : Obligations.LaneTrees := by
  intro s c
  refine ⟨fun f h => ?scanInc, fun f h => ?scanExc, fun f h => ?gred, fun f h => ?fmaxi, fun f h => ?fmini, fun f h => ?sample⟩
  case scanInc => exact givesLanes_of_issue h (rfl : _ = execScan .inc f s) rfl
  case scanExc => exact givesLanes_of_issue h (rfl : _ = execScan .exc f s) rfl
  case gred => exact givesLanes_of_issue h (rfl : _ = execGred f s) rfl
  case fmaxi =>
    obtain ⟨v, hv⟩ := pickAct_eq_vecAct c f.mod true
    exact ⟨v, givesLanes_of_issue h (rfl : _ = execFmaxi f s) hv, hv⟩
  case fmini =>
    obtain ⟨v, hv⟩ := pickAct_eq_vecAct c f.mod false
    exact ⟨v, givesLanes_of_issue h (rfl : _ = execFmini f s) hv, hv⟩
  case sample => exact givesLanes_of_issue h (rfl : _ = execSample f s) rfl

/-! Bit fields as masks. -/

/-- The bits from `lo` up to `hi` are those of the mask. -/
theorem keepBits_eq_and {lo hi : Nat} (h : lo ≤ hi + 1) (v : Nat) : keepBits v hi lo = v &&& (2 ^ (hi + 1) - 2 ^ lo) := by
  have mask : 2 ^ (hi + 1) - 2 ^ lo = (2 ^ (hi + 1 - lo) - 1) * 2 ^ lo := by
    rw [Nat.sub_mul, ← Nat.pow_add, Nat.sub_add_cancel h, Nat.one_mul]
  refine Nat.eq_of_testBit_eq fun i => ?_
  rw [mask, keepBits, bitsOf]
  simp only [Nat.testBit_mul_two_pow, Nat.testBit_mod_two_pow, Nat.testBit_shiftRight, Nat.testBit_and, Nat.testBit_two_pow_sub_one]
  by_cases above : lo ≤ i
  · simp [above, Bool.and_comm]
  · simp [above]

/-- A field above the lowest `k` bits, with those bits. -/
theorem keepBits_add_mod {k lo hi m : Nat} (hk : k ≤ lo) (h : lo ≤ hi + 1) (hm : m = 2 ^ (hi + 1) - 2 ^ lo + (2 ^ k - 1)) (v : Nat) :
    keepBits v hi lo + v % 2 ^ k = v &&& m := by
  have le : 2 ^ k ≤ 2 ^ lo := Nat.pow_le_pow_right (by decide) hk
  have low : v % 2 ^ k < 2 ^ lo := Nat.lt_of_lt_of_le (Nat.mod_lt _ (Nat.two_pow_pos k)) le
  have ones : 2 ^ k - 1 < 2 ^ lo := by have := Nat.two_pow_pos k; omega
  have mask : 2 ^ (hi + 1) - 2 ^ lo = 2 ^ lo * (2 ^ (hi + 1 - lo) - 1) := by
    rw [Nat.mul_sub, ← Nat.pow_add, Nat.add_sub_cancel' h, Nat.mul_one]
  calc keepBits v hi lo + v % 2 ^ k
      = keepBits v hi lo ||| v % 2 ^ k := by
        rw [keepBits, Nat.mul_comm, Nat.two_pow_add_eq_or_of_lt low]
    _ = v &&& (2 ^ (hi + 1) - 2 ^ lo ||| 2 ^ k - 1) := by
        rw [keepBits_eq_and h, ← Nat.and_two_pow_sub_one_eq_mod, Nat.and_or_distrib_left]
    _ = v &&& m := by
        rw [hm, mask, Nat.two_pow_add_eq_or_of_lt ones]

/-- Masked bits survive in a word that holds the mask. -/
theorem toNat_ofNat_and {w m : Nat} (h : m < 2 ^ w) (v : Nat) : (BitVec.ofNat w (v &&& m)).toNat = v &&& m := by
  rw [BitVec.toNat_ofNat, Nat.mod_eq_of_lt (Nat.lt_of_le_of_lt Nat.and_le_right h)]

/-! Reading what an update wrote. -/

/-- The first element that meets a test, after an update of those that meet it which keeps the test. -/
theorem find?_map_update {α : Type} {p : α → Bool} {f : α → α} (hf : ∀ x, p (f x) = p x) (l : List α) :
    (l.map fun x => if p x then f x else x).find? p = (l.find? p).map f := by
  induction l with
  | nil => rfl
  | cons x xs ih => cases h : p x <;> simp [h, hf, ih]

theorem getElem?_modAt {α : Type} (l : List α) (k : Nat) (f : α → α) : (modAt l k f)[k]? = l[k]?.map f := by
  cases h : l[k]? <;> simp [modAt, h]

/-- A team after its own update that keeps its name. -/
theorem teamAt_updTeam_same {s : State} {r : TeamRef} {t : Team} {f : Team → Team} (h : teamAt s r = some t)
    (hf : ∀ x, (f x).ref = x.ref := by exact fun _ => rfl) : teamAt (updTeam s r f) r = some (f t) := by
  rw [teamAt] at h
  rw [teamAt, updTeam_teams, find?_map_update (fun x => by rw [hf]), h, Option.map_some]

/-- A group after its own update. -/
theorem groupAt_updGroup_same {s : State} {r : GroupRef} {t : Team} {g : Group} (f : Group → Group)
    (ht : teamAt s r.team = some t) (hg : groupAt s r = some g) : groupAt (updGroup s r f) r = some (f g) := by
  have hi : t.groups[r.grp]? = some g := by simpa [groupAt, ht] using hg
  have hu : teamAt (updGroup s r f) r.team = some { t with groups := modAt t.groups r.grp f } :=
    teamAt_updTeam_same ht
  simp only [groupAt, hu, getElem?_modAt, hi, Option.map_some]

/-- A partition after its own update that keeps its number. -/
theorem partOf_updPart_same {s : State} {p : Nat} {f : Partition → Partition} (h : (s.parts.any fun x => x.num == p) = true)
    (hf : ∀ x, (f x).num = x.num := by exact fun _ => rfl) : partOf (updPart s p f) p = f (partOf s p) := by
  obtain ⟨x, hx⟩ : ∃ x, s.parts.find? (fun x => x.num == p) = some x :=
    Option.isSome_iff_exists.mp (by rwa [List.find?_isSome, ← List.any_eq_true])
  have hu : (updPart s p f).parts.find? (fun x => x.num == p) = some (f x) := by
    rw [updPart, find?_map_update (fun x => by rw [hf]), hx, Option.map_some]
  rw [partOf, partOf, hu, hx, Option.getD_some, Option.getD_some]

/-- The registers of a core name it. -/
theorem coreRegsOf_core (s : State) (k : Nat) : (coreRegsOf s k).core = k := by
  rw [coreRegsOf]
  cases h : s.coreRegs.find? fun x => x.core == k with
  | none => rfl
  | some x => simpa using List.find?_some h

/-- The registers of a core after an update that keeps its name. -/
theorem coreRegsOf_updCoreRegs_same {s : State} {k : Nat} {f : CoreRegs → CoreRegs}
    (hf : ∀ x, (f x).core = x.core := by exact fun _ => rfl) : coreRegsOf (updCoreRegs s k f) k = f (coreRegsOf s k) := by
  have first : (updCoreRegs s k f).coreRegs.find? (fun x => x.core == k) = some (f (coreRegsOf s k)) :=
    List.find?_cons_of_pos (by simp [hf, coreRegsOf_core])
  rw [coreRegsOf, first, Option.getD_some]

/-- A budget after its own update. -/
theorem budgetAt_modAt {s : State} {j : Nat} (f : Budget → Budget) (h : j < s.budgets.length) :
    budgetAt { s with budgets := modAt s.budgets j f } j = f (budgetAt s j) := by
  simp [budgetAt, List.getD_eq_getElem?_getD, getElem?_modAt, List.getElem?_eq_getElem h]

/-- A note of the occupancy leaves the cleared counter of clks as it is (R320). -/
theorem noteOcc_cbClk (s : State) (k : Nat) : (coreRegsOf (noteOcc s k) k).cbClk = (coreRegsOf s k).cbClk := by
  rw [noteOcc, coreRegsOf_updCoreRegs_same]

/-! Which registers are held where (R147). -/

/-- Numbers of registers that are held once per package, partition or core. -/
abbrev SysNumber (n : Nat) : Prop := 0x100 ≤ n ∧ ¬(0x130 ≤ n ∧ n ≤ 0x135)

theorem csrRead_of_sysNumber {n : Nat} (h : SysNumber n) (c : Ctx) : csrRead c n = sysRead c.s c.t.part c.t.core n := by
  obtain ⟨h0, h1⟩ := h
  rw [csrRead, if_neg (by omega)] <;> omega

theorem csrWrite_eq_sysWrite {n : Nat} (h : n ≠ 0x010 ∧ n ≠ 0x011 ∧ n ≠ 0x020 ∧ n ≠ 0x172) (s : State) (r : GroupRef) (p k v : Nat) :
    csrWrite s r p k n v = sysWrite s p k n v := by
  obtain ⟨fpstat, mstat, bartmo, poolctl⟩ := h
  rw [csrWrite] <;> assumption

/-- Registers whose write can start an operation: POOLCTL, CTXCTL, PARTCTL and FXCFG. -/
abbrev StartsWork (n : Nat) : Prop := n = 0x172 ∨ n = 0x1a2 ∨ n = 0x1a5 ∨ n = 0x1b8

/-- A write that starts no operation leaves the teams. -/
theorem sysWrite_teams {n : Nat} (h : ¬StartsWork n) (s : State) (p k v : Nat) : (sysWrite s p k n v).teams = s.teams := by
  unfold sysWrite
  split
  case isTrue => rfl
  case isFalse =>
    split
    -- TLSSIZE may keep its value; then the four numbers that the hypothesis leaves out
    case h_3 => split <;> rfl
    case h_10 | h_13 | h_16 | h_18 => omega
    all_goals rfl

/-- What a context of the same group reads of a system register, after a write that leaves the teams. -/
theorem csrRead_after {c c' : Ctx} {t : State} {n : Nat} (hc : c.Of c.s) (hr : c'.r = c.r) (hc' : c'.Of t)
    (ht : t.teams = c.s.teams) (hn : SysNumber n) : csrRead c' n = sysRead t c.t.part c.t.core n := by
  obtain ⟨-, before, -, -⟩ := hc
  obtain ⟨hs, after, -, -⟩ := hc'
  have same : c'.t = c.t := Option.some.inj (by rw [← after, ← before, teamAt, ht, hr, teamAt])
  rw [csrRead_of_sysNumber hn, hs, same]

/-- CSRR after a CSRW that starts no operation reads the register as the write left it. -/
theorem csrRead_csrWrite {c c' : Ctx} {n v : Nat} (hn : SysNumber n) (hw : ¬StartsWork n) (hc : c.Of c.s) (hr : c'.r = c.r)
    (hc' : c'.Of (csrWrite c.s c.r c.t.part c.t.core n v)) :
    csrRead c' n = sysRead (sysWrite c.s c.t.part c.t.core n v) c.t.part c.t.core n := by
  have eq : csrWrite c.s c.r c.t.part c.t.core n v = sysWrite c.s c.t.part c.t.core n v :=
    csrWrite_eq_sysWrite (by omega) _ _ _ _ _
  rw [eq] at hc'
  exact csrRead_after hc hr hc' (sysWrite_teams hw _ _ _ _) hn

/-! The registers of which a write replaces some bits (R98, R142, R220, R225, R292, R336, R362, R367, R369, R382, R388, R400). -/

/-- A partition's word reads as the masked bits that an update put there. -/
theorem partition_word_eq_and {s : State} {p x v m : Nat} {f : Partition → Partition} {get : Partition → DWord}
    (hp : (s.parts.any fun x => x.num == p) = true) (hf : ∀ q, (f q).num = q.num) (hx : ∀ q, get (f q) = BitVec.ofNat 64 x)
    (e : x = v &&& m) (hm : m < 2 ^ 64) : (get (partOf (updPart s p f) p)).toNat = v &&& m := by
  rw [partOf_updPart_same hp hf, hx, e, toNat_ofNat_and hm]

/-- A register held once per package, partition or core takes the bits of its mask. -/
theorem sysRead_sysWrite_field {n m : Nat} (h : (n, m) ∈ csrFields) (hn : SysNumber n) {s : State} {p : Nat}
    (hp : (s.parts.any fun x => x.num == p) = true) (k v : Nat) : sysRead (sysWrite s p k n v) p k n = v &&& m := by
  obtain ⟨h0, -⟩ := hn
  simp only [csrFields, List.mem_cons, Prod.mk.injEq, List.not_mem_nil, or_false] at h
  rcases h with ⟨rfl, rfl⟩ | ⟨rfl, rfl⟩ | ⟨rfl, rfl⟩ | ⟨rfl, rfl⟩ | ⟨rfl, rfl⟩ | ⟨rfl, rfl⟩ | ⟨rfl, rfl⟩ | ⟨rfl, rfl⟩ | ⟨rfl, rfl⟩
    | ⟨rfl, rfl⟩ | ⟨rfl, rfl⟩ | ⟨rfl, rfl⟩ | ⟨rfl, rfl⟩ | ⟨rfl, rfl⟩
  case inl | inr.inl => omega
  -- the others in the order of the table
  · exact partition_word_eq_and (get := Partition.tvbase) hp (fun _ => rfl) (fun _ => rfl)
      (keepBits_add_mod (k := 1) (by decide) (by decide) (by decide) v) (by decide)
  · exact partition_word_eq_and (get := Partition.tlsbase) hp (fun _ => rfl) (fun _ => rfl) (keepBits_eq_and (by decide) v) (by decide)
  · exact partition_word_eq_and (get := Partition.tfbase) hp (fun _ => rfl) (fun _ => rfl) (keepBits_eq_and (by decide) v) (by decide)
  · exact partition_word_eq_and (get := Partition.ptroot) hp (fun _ => rfl) (fun _ => rfl)
      ((Nat.add_comm _ _).trans (keepBits_add_mod (k := 52) (by decide) (by decide) (by decide) v)) (by decide)
  · exact partition_word_eq_and (get := Partition.poolbase) hp (fun _ => rfl) (fun _ => rfl) (keepBits_eq_and (by decide) v) (by decide)
  · exact partition_word_eq_and (get := Partition.vocbase) hp (fun _ => rfl) (fun _ => rfl) (keepBits_eq_and (by decide) v) (by decide)
  · exact keepBits_eq_and (by decide) v
  · exact partition_word_eq_and (get := Partition.graphbase) hp (fun _ => rfl) (fun _ => rfl) (keepBits_eq_and (by decide) v) (by decide)
  · exact keepBits_eq_and (by decide) v
  · exact keepBits_eq_and (by decide) v
  · exact keepBits_eq_and (by decide) v
  · exact (Nat.add_comm _ _).trans (keepBits_add_mod (k := 16) (by decide) (by decide) (by decide) v)

/-- Every register of the table starts no operation, and those from 0x100 are held once per package, partition or core. -/
theorem csrFields_numbers {n m : Nat} (h : (n, m) ∈ csrFields) :
    n = 0x010 ∧ m = 2 ^ 6 - 1 ∨ n = 0x011 ∧ m = 2 ^ 6 - 1 ∨ SysNumber n ∧ ¬StartsWork n :=
  (by decide : ∀ x ∈ csrFields, x.1 = 0x010 ∧ x.2 = 2 ^ 6 - 1 ∨ x.1 = 0x011 ∧ x.2 = 2 ^ 6 - 1
    ∨ SysNumber x.1 ∧ ¬StartsWork x.1) (n, m) h

/-- FPSTAT takes the six flags (R40). -/
theorem csrRead_csrWrite_fpstat {c c' : Ctx} {v : Nat} (hc : c.Of c.s) (hr : c'.r = c.r)
    (hc' : c'.Of (csrWrite c.s c.r c.t.part c.t.core 0x010 v)) : csrRead c' 0x010 = v &&& (2 ^ 6 - 1) := by
  obtain ⟨-, ht, hg, -⟩ := hc
  obtain ⟨-, -, hg', -⟩ := hc'
  have written : groupAt (csrWrite c.s c.r c.t.part c.t.core 0x010 v) c.r = some { c.g with fpstat := BitVec.ofNat 6 v } :=
    groupAt_updGroup_same _ ht hg
  have hg' : c'.g = { c.g with fpstat := BitVec.ofNat 6 v } := Option.some.inj (by rw [← hg', hr, written])
  calc csrRead c' 0x010
      = c'.g.fpstat.toNat := rfl
    _ = v % 2 ^ 6 := by rw [hg', BitVec.toNat_ofNat]
    _ = v &&& (2 ^ 6 - 1) := (Nat.and_two_pow_sub_one_eq_mod v 6).symm

/-- The team's registers after a write of one of them. -/
theorem regs_of_updRegs {c c' : Ctx} {t : State} {f : TeamRegs → TeamRegs} (hc : c.Of c.s) (hr : c'.r = c.r) (hc' : c'.Of t)
    (h : t = updRegs c.s c.r.team f) : c'.t.regs = f c.t.regs := by
  obtain ⟨-, ht, -, -⟩ := hc
  obtain ⟨-, ht', -, -⟩ := hc'
  have written : teamAt t c.r.team = some { c.t with regs := f c.t.regs } :=
    h ▸ teamAt_updTeam_same ht
  have ht' : c'.t = { c.t with regs := f c.t.regs } := Option.some.inj (by rw [← ht', hr, written])
  rw [ht']

/-- MSTAT takes the six flags (R225). -/
theorem csrRead_csrWrite_mstat {c c' : Ctx} {v : Nat} (hc : c.Of c.s) (hr : c'.r = c.r)
    (hc' : c'.Of (csrWrite c.s c.r c.t.part c.t.core 0x011 v)) : csrRead c' 0x011 = v &&& (2 ^ 6 - 1) := by
  calc csrRead c' 0x011
      = c'.t.regs.mstat.toNat := rfl
    _ = v % 2 ^ 6 := by
        rw [regs_of_updRegs (f := fun x => { x with mstat := BitVec.ofNat 6 v }) hc hr hc' rfl, BitVec.toNat_ofNat]
    _ = v &&& (2 ^ 6 - 1) := (Nat.and_two_pow_sub_one_eq_mod v 6).symm

/-- BARTMO takes 1,024 or more (R206). -/
theorem csrRead_csrWrite_bartmo {c c' : Ctx} {v : Nat} (hc : c.Of c.s) (hr : c'.r = c.r)
    (hc' : c'.Of (csrWrite c.s c.r c.t.part c.t.core 0x020 v)) : csrRead c' 0x020 = max 1024 (v % 2 ^ 32) := by
  have small : max 1024 (v % 2 ^ 32) < 2 ^ 32 := by omega
  calc csrRead c' 0x020
      = c'.t.regs.bartmo.toNat := rfl
    _ = max 1024 (v % 2 ^ 32) % 2 ^ 32 := by
        rw [regs_of_updRegs (f := fun x => { x with bartmo := BitVec.ofNat 32 (max 1024 (v % 2 ^ 32)) }) hc hr hc' rfl,
          BitVec.toNat_ofNat]
    _ = max 1024 (v % 2 ^ 32) := Nat.mod_eq_of_lt small

/-- A register of the table takes the bits of its mask. -/
theorem csrRead_csrWrite_field {c c' : Ctx} {n v m : Nat} (hc : c.Of c.s) (hr : c'.r = c.r)
    (hc' : c'.Of (csrWrite c.s c.r c.t.part c.t.core n v)) (hp : (c.s.parts.any fun x => x.num == c.t.part) = true)
    (h : (n, m) ∈ csrFields) : csrRead c' n = v &&& m := by
  rcases csrFields_numbers h with ⟨rfl, rfl⟩ | ⟨rfl, rfl⟩ | ⟨hn, hw⟩
  · exact csrRead_csrWrite_fpstat hc hr hc'
  · exact csrRead_csrWrite_mstat hc hr hc'
  · rw [csrRead_csrWrite hn hw hc hr hc', sysRead_sysWrite_field h hn hp]

/-- A read-only register: its write changes nothing. -/
theorem csrWrite_fixed {n : Nat} (h : csrFixed n) (s : State) (r : GroupRef) (p k v : Nat) : csrWrite s r p k n v = s := by
  unfold csrFixed at h
  rw [csrWrite_eq_sysWrite (by omega), sysWrite, if_neg (by omega)] <;> omega

/-- TLSSIZE keeps its value where more than 1,024 is written (R142). -/
theorem sysRead_sysWrite_tlssize {s : State} {p : Nat} (hp : (s.parts.any fun x => x.num == p) = true) (k v : Nat) :
    sysRead (sysWrite s p k 0x111 v) p k 0x111 = if 1024 < v % 2 ^ 11 then sysRead s p k 0x111 else v % 2 ^ 11 := by
  have write : sysWrite s p k 0x111 v = if 1024 < v % 2 ^ 11 then s else updPart s p fun q => { q with tlssize := v % 2 ^ 11 } := rfl
  rw [write]
  split
  · rfl
  · exact congrArg Partition.tlssize (partOf_updPart_same hp)

/-- MBUDGET takes its units and clears its count of stalls (R244). -/
theorem sysRead_sysWrite_mbudget (s : State) (p k v : Nat) : sysRead (sysWrite s p k 0x140 v) p k 0x140 = v % 2 ^ 32 := by
  have read (t : State) : sysRead t p k 0x140 = (coreRegsOf t k).units + 2 ^ 32 * (coreRegsOf t k).stalls := rfl
  have write : sysWrite s p k 0x140 v = updCoreRegs s k fun x => { x with units := v % 2 ^ 32, stalls := 0 } := rfl
  rw [read, write, coreRegsOf_updCoreRegs_same, Nat.mul_zero, Nat.add_zero]

/-- A write clears the commit buffer's count of clks (R320). -/
theorem sysRead_sysWrite_commitBuffer (s : State) (p k v : Nat) : sysRead (sysWrite s p k 0x160 v) p k 0x160 % 2 ^ 32 = 0 := by
  have read (t : State) : sysRead t p k 0x160 = (coreRegsOf t k).cbClk + 2 ^ 32 * (coreRegsOf t k).cbMax := rfl
  have cleared : (coreRegsOf (sysWrite s p k 0x160 v) k).cbClk = 0 :=
    (noteOcc_cbClk _ k).trans (congrArg CoreRegs.cbClk coreRegsOf_updCoreRegs_same)
  rw [read, cleared, Nat.zero_add, Nat.mul_mod_right]

/-- A budget takes its units, at least 1 for the Milliner, the copy engines and scrub, and clears its count of waits (R415). -/
theorem sysRead_sysWrite_budget {s : State} {n : Nat} (h0 : 0x1c0 ≤ n) (h1 : n ≤ 0x1c4) (hl : n - 0x1c0 < s.budgets.length) (p k v : Nat) :
    sysRead (sysWrite s p k n v) p k n = if v % 2 ^ 32 = 0 ∧ 0x1c2 ≤ n then 1 else v % 2 ^ 32 := by
  have read (t : State) : sysRead t p k n = (budgetAt t (n - 0x1c0)).units + 2 ^ 32 * (budgetAt t (n - 0x1c0)).waits := by
    unfold sysRead
    rw [if_neg (by omega), if_pos ⟨h0, h1⟩]
  have written : budgetAt (sysWrite s p k n v) (n - 0x1c0)
      = { budgetAt s (n - 0x1c0) with units := if v % 2 ^ 32 = 0 ∧ 0x1c2 ≤ n then 1 else v % 2 ^ 32, waits := 0 } := by
    unfold sysWrite
    rw [if_pos ⟨h0, h1⟩]
    exact budgetAt_modAt _ hl
  rw [read, written, Nat.mul_zero, Nat.add_zero]

/-- QINFO takes a queue's number and reads as its occupancy beside it (R371). -/
theorem sysRead_sysWrite_qinfo (s : State) (p k v : Nat) :
    sysRead (sysWrite s p k 0x1a4 v) p k 0x1a4 = v % 64 + 2 ^ 8 * queueOcc s (v % 64) := rfl

/-- FXCFG without a TRAIN bit starts no training (R400). -/
theorem fxcfgWrite_of_noTrain {v : Nat} (h : v < 2 ^ 48) (s : State) : fxcfgWrite s v =
    { s with fabric := { s.fabric with pkg := v % 2 ^ 16, accept := BitVec.ofNat 16 (v / 2 ^ 16) } } := by
  have noTrain : ((List.range 16).filter fun k => abit v (48 + k) == 1) = [] := by
    refine List.filter_eq_nil_iff.mpr fun k _ => ?_
    have : v < 2 ^ (48 + k) := Nat.lt_of_lt_of_le h (Nat.pow_le_pow_right (by decide) (by omega))
    simp [abit, Nat.div_eq_of_lt this]
  rw [fxcfgWrite, noTrain, List.foldl_nil]

/-- FXCFG takes the package's number and the ports it accepts, and keeps which ports are up (R400). -/
theorem csrRead_csrWrite_fxcfg {c c' : Ctx} {v : Nat} (hc : c.Of c.s) (hr : c'.r = c.r)
    (hc' : c'.Of (csrWrite c.s c.r c.t.part c.t.core 0x1b8 v)) (hv : v < 2 ^ 48) :
    csrRead c' 0x1b8 = v % 2 ^ 32 + 2 ^ 32 * c.s.fabric.up.toNat := by
  have write : csrWrite c.s c.r c.t.part c.t.core 0x1b8 v = fxcfgWrite c.s v := rfl
  rw [write, fxcfgWrite_of_noTrain hv] at hc'
  calc csrRead c' 0x1b8
      = v % 2 ^ 16 + 2 ^ 16 * (BitVec.ofNat 16 (v / 2 ^ 16)).toNat + 2 ^ 32 * c.s.fabric.up.toNat :=
        csrRead_after hc hr hc' rfl ⟨by decide, by decide⟩
    _ = v % 2 ^ 32 + 2 ^ 32 * c.s.fabric.up.toNat := by rw [BitVec.toNat_ofNat]; omega

/-! Commands with OP 0 start nothing (R336, R367, R388). -/

theorem poolctlWrite_of_noOp {v : Nat} (op : bitsOf v 5 4 = 0) (s : State) (p : Nat) (r : Option GroupRef) : poolctlWrite s p v r = s := by
  simp only [poolctlWrite, op]

theorem partctlWrite_of_noOp {v : Nat} (op : bitsOf v 5 4 = 0) (s : State) :
    partctlWrite s v = { s with pkg := { s.pkg with partPart := v % 16 } } := by
  simp only [partctlWrite, op]

theorem ctxctlWrite_of_noOp {v : Nat} {s : State} (op : bitsOf v 5 4 = 0) (idle : s.pkg.ctxBusy = false) :
    ctxctlWrite s v = { s with pkg := { s.pkg with ctxPart := v % 16 } } := by
  simp only [ctxctlWrite, op, idle, if_true, Bool.false_eq_true, if_false]

/-- PARTCTL after such a write. -/
theorem csrRead_csrWrite_partctl {c c' : Ctx} {v : Nat} (hc : c.Of c.s) (hr : c'.r = c.r)
    (hc' : c'.Of (csrWrite c.s c.r c.t.part c.t.core 0x1a5 v)) (op : bitsOf v 5 4 = 0) :
    csrRead c' 0x1a5 = v % 16 + 2 ^ 7 * b2n c.s.pkg.partErr + 2 ^ 8 * c.s.pkg.partReason := by
  have write : csrWrite c.s c.r c.t.part c.t.core 0x1a5 v = partctlWrite c.s v := rfl
  rw [write, partctlWrite_of_noOp op] at hc'
  exact csrRead_after hc hr hc' rfl ⟨by decide, by decide⟩

/-- CTXCTL after such a write while it is not busy. -/
theorem csrRead_csrWrite_ctxctl {c c' : Ctx} {v : Nat} (hc : c.Of c.s) (hr : c'.r = c.r)
    (hc' : c'.Of (csrWrite c.s c.r c.t.part c.t.core 0x1a2 v)) (op : bitsOf v 5 4 = 0) (idle : c.s.pkg.ctxBusy = false) :
    csrRead c' 0x1a2 = v % 16 + 2 ^ 6 * b2n c.s.pkg.ctxBusy + 2 ^ 7 * b2n c.s.pkg.ctxErr + 2 ^ 8 * c.s.pkg.ctxReason := by
  have write : csrWrite c.s c.r c.t.part c.t.core 0x1a2 v = ctxctlWrite c.s v := rfl
  rw [write, ctxctlWrite_of_noOp op idle] at hc'
  exact csrRead_after hc hr hc' rfl ⟨by decide, by decide⟩

/-- A is of the register's width already when CSRW.CLR clears its bits (R147). -/
theorem csrNew_clr_mod (old a w : Nat) : csrNew .clr old (a % 2 ^ w) w = old &&& (2 ^ w - 1 - a % 2 ^ w) := by
  rw [csrNew, Nat.mod_mod]

/-- Settles O17: a clause for each way in which a register takes a write, then CSRR and CSRW themselves. -/
theorem controlRegisters : Obligations.ControlRegisters := by
  refine ⟨fun c c' n v hc hr hc' hp => ⟨?field, ?fixed, ?bartmo, ?tlssize, ?mbudget, ?commitBuffer, ?budget, ?qinfo, ?fxcfg, fun op =>
    ⟨?poolctl, ?partctl, ?ctxctl⟩⟩, fun s c => ⟨?csrr, ?csrw⟩⟩
  case field => exact fun m h => csrRead_csrWrite_field hc hr hc' hp h
  case fixed => exact fun h => csrWrite_fixed h _ _ _ _ _
  case bartmo =>
    rintro rfl
    exact csrRead_csrWrite_bartmo hc hr hc'
  case tlssize =>
    rintro rfl
    have hn : SysNumber 0x111 := ⟨by decide, by decide⟩
    rw [csrRead_csrWrite hn (by decide) hc hr hc', sysRead_sysWrite_tlssize hp, csrRead_of_sysNumber hn]
  case mbudget =>
    rintro rfl
    rw [csrRead_csrWrite ⟨by decide, by decide⟩ (by decide) hc hr hc', sysRead_sysWrite_mbudget]
  case commitBuffer =>
    rintro rfl
    rw [csrRead_csrWrite ⟨by decide, by decide⟩ (by decide) hc hr hc', sysRead_sysWrite_commitBuffer]
  case budget =>
    intro h0 h1 hl
    rw [csrRead_csrWrite ⟨by omega, by omega⟩ (by omega) hc hr hc', sysRead_sysWrite_budget h0 h1 hl]
  case qinfo =>
    rintro rfl
    rw [csrRead_csrWrite ⟨by decide, by decide⟩ (by decide) hc hr hc', sysRead_sysWrite_qinfo]
  case fxcfg =>
    rintro rfl hv
    exact ⟨_, rfl, csrRead_csrWrite_fxcfg hc hr hc' hv⟩
  case poolctl =>
    rintro rfl
    exact poolctlWrite_of_noOp op _ _ _
  case partctl =>
    rintro rfl
    refine ⟨b2n c.s.pkg.partErr + 2 * c.s.pkg.partReason, ?_, ?_⟩
    · rw [csrRead_of_sysNumber ⟨by decide, by decide⟩]
      change c.s.pkg.partPart + 2 ^ 7 * _ + 2 ^ 8 * _ = _
      omega
    · rw [csrRead_csrWrite_partctl hc hr hc' op]
      omega
  case ctxctl =>
    rintro rfl idle
    refine ⟨b2n c.s.pkg.ctxBusy + 2 * b2n c.s.pkg.ctxErr + 4 * c.s.pkg.ctxReason, ?_, ?_⟩
    · rw [csrRead_of_sysNumber ⟨by decide, by decide⟩]
      change c.s.pkg.ctxPart + 2 ^ 6 * _ + 2 ^ 7 * _ + 2 ^ 8 * _ = _
      omega
    · rw [csrRead_csrWrite_ctxctl hc hr hc' op idle]
      omega
  case csrr => exact fun f h => givesDWords_of_issue h (rfl : _ = execCsrr f s) rfl
  case csrw =>
    intro k f h
    refine acts_of_issue h (rfl : _ = execCsrw k f s) ?_
    cases k with
    | write => rfl
    | set => rfl
    | clr => exact congrArg (effect c) (funext fun _ => congrArg _ (csrNew_clr_mod _ _ _))

end Sys2Proof.Machine
end

section
/-! SUPPORT. Compares and predicate functions (R107, R109, R114), the entry into a handler (R218 to R220), the reset values, and
the block types that a conversion does not have (R42). -/

namespace Sys2Proof.Machine

/-! Operands as numbers (R27, R109). -/

theorem b2n_eq_toNat (b : Bool) : b2n b = b.toNat := by cases b <;> rfl

/-- Two's complement is what a bit vector reads as. -/
theorem signed_eq_toInt (w x : Nat) : signed w x = (BitVec.ofNat w x).toInt := by
  rw [signed, BitVec.toInt_eq_toNat_cond, BitVec.toNat_ofNat]
  cases w with
  | zero => simp [Nat.mod_one]
  | succ w => simp only [Nat.add_sub_cancel, Nat.pow_succ']; congr 1; simp

/-- A bit vector's low bits as a number of a type. -/
theorem intVal_toNat {n : Nat} (sg : Bool) (w : Nat) (x : BitVec n) :
    intVal sg w x.toNat = if sg then (x.setWidth w).toInt else ((x.setWidth w).toNat : Int) := by
  rw [intVal, signed_eq_toInt, BitVec.ofNat_toNat, BitVec.toNat_setWidth]

theorem modTy_mem_of_tyIs {n : Nat} {m : BitVec n} {l : List Ty} (h : tyIs m l = true) : modTy m ∈ l := by
  rw [tyIs] at h
  rw [modTy]
  cases e : Ty.ofCode (modBits m 0 5) with
  | none => simp [e] at h
  | some t => simpa [e] using h

/-- A width that all types a modifier may name have is the width of the type it names. -/
theorem bits_of_tyIs {n w : Nat} {m : BitVec n} {l : List Ty} (h : tyIs m l = true) (hl : ∀ t ∈ l, t.bits = w) : (modTy m).bits = w :=
  hl _ (modTy_mem_of_tyIs h)

theorem asTy_word {n k : Nat} {m : BitVec n} (h : (modTy m).bits = 32) (x : BitVec k) :
    asTy m x.toNat = numOf (tySigned m) (x.setWidth 32) := by
  rw [asTy, h, intVal_toNat]; rfl

theorem asTy_dword {n k : Nat} {m : BitVec n} (h : (modTy m).bits = 64) (x : BitVec k) :
    asTy m x.toNat = if tySigned m then (x.setWidth 64).toInt else ((x.setWidth 64).toNat : Int) := by
  rw [asTy, h, intVal_toNat]; rfl

theorem ccHolds_eq_holds (k : Cc) (a b : Int) : ccHolds k a b = holds k a b := by
  cases k with
  | eq => rfl
  | ne => simp [ccHolds, holds, bne, BEq.beq]
  | _ => rfl

/-! Predicates named in MOD (R56, R107, R114). -/

theorem predOf_modPred {n : Nat} (m : BitVec n) (t : Thread) (lo : Nat) :
    predOf t (modPred m lo)
      = ((m.toNat / 2 ^ lo % 8 == 7 || t.preds.getLsbD (m.toNat / 2 ^ lo % 8)) != m.toNat.testBit (lo + 3)) := by
  have num : (modPred m lo).num.toNat = m.toNat / 2 ^ lo % 8 := by
    simp [modPred, modBits, Nat.shiftRight_eq_div_pow]
  have seven : ((modPred m lo).num == 7) = (m.toNat / 2 ^ lo % 8 == 7) := by
    rw [← num, Bool.eq_iff_iff, beq_iff_eq, beq_iff_eq]; exact BitVec.toNat_inj.symm
  rw [predOf, num, seven]; rfl

theorem combine_eq_combined {n : Nat} (m : BitVec n) (t : Thread) (r : Bool) : combine m t r = combined m t r := by
  have comb : modBits m 5 2 = m.toNat / 32 % 4 := by simp [modBits, Nat.shiftRight_eq_div_pow]
  have small : m.toNat / 32 % 4 < 4 := Nat.mod_lt _ (by decide)
  rw [combine, combined, predOf_modPred, comb, Bool.or_comm]
  generalize m.toNat / 32 % 4 = code at small
  match code, small with
  | 0, _ | 1, _ | 2, _ | 3, _ => rfl

theorem lut3_eq_lutBit (lut : Nat) (a b c : Bool) : lut3 lut a b c = lutBit lut a b c := by
  simp only [lut3, lutBit, b2n_eq_toNat]

theorem laneFlags_zero (m : BitVec 32) : (laneFlags m fun _ => 0) = 0 := by
  rw [laneFlags]
  induction lanesOf m with
  | nil => rfl
  | cons l ls ih => exact ih

/-! What an issue that runs has passed, and how a predicate result takes effect. -/

/-- Check 6 of R79 has passed where an instruction runs. -/
theorem shape_ok_of_issues {i : Instr} {s : State} {c : Ctx} (h : Issues i s c) : i.shape.ok = true := by
  obtain ⟨hc, hr⟩ := h
  obtain ⟨-, hi, -⟩ := ctxOf_eq hc
  have wf : i.wf = true := by
    cases hw : i.wf with
    | true => rfl
    | false =>
      have illfmt : staticTrap c = some tcIllfmt := by
        rw [staticTrap, hi, hw]; rfl
      simp only [readyOf, illfmt] at hr
      split at hr <;> cases hr
  simp only [Instr.wf, Bool.and_eq_true] at wf
  obtain ⟨⟨-, ok⟩, -⟩ := wf
  exact ok

section Effects
variable {i : Instr} {s : State} {c : Ctx} {k : Ctx → Act}

/-- An instruction whose own part gives predicates without flags completes with them. -/
theorem givesPreds_of_issue {p b : Nat → Bool} (h : Issues i s c) (he : exec i s = issue i s k) (hk : k c = .go { prd := some p })
    (hp : ∀ l, p l = b l) : GivesPreds i s c 0 b := by
  obtain ⟨hc, hr⟩ := h
  exact ⟨p, he.trans (issue_go hc hr hk), fun l _ => hp l⟩

/-- A compare without flags completes with its combination under COMB. -/
theorem givesPreds_of_compare {n : Nat} {m : BitVec n} {r r' : Nat → Bool} (h : Issues i s c) (he : exec i s = issue i s k)
    (hk : k c = prdAct c m fun l => (r l, 0)) (hr : ∀ l, r l = r' l) :
    GivesPreds i s c 0 fun l => combined m (threadAt c.g l) (r' l) := by
  refine givesPreds_of_issue h he (p := fun l => combine m (threadAt c.g l) (r l)) ?_ fun l => ?_
  · rw [hk, prdAct, laneFlags_zero]
  · rw [combine_eq_combined, hr]

end Effects

/-- Settles O7: each compare's own part is the condition on its operands as numbers, combined; PSET's is its look-up. -/
theorem comparesAndPredicates : Obligations.ComparesAndPredicates := by
  intro s c
  refine ⟨fun k f h => ?icmp, fun k f h => ?icmpi, fun k f h => ?cmp64, fun f h => ?pset⟩
  case icmp =>
    have ok : (tyIs f.mod [.i32, .n32] && modIn f.mod 0x7ff && combOk f.mod) = true := shape_ok_of_issues h
    simp only [Bool.and_eq_true] at ok
    obtain ⟨⟨ty, -⟩, -⟩ := ok
    have w : (modTy f.mod).bits = 32 := bits_of_tyIs ty (by decide)
    refine givesPreds_of_compare h (rfl : _ = execIcmp k f s) rfl fun l => ?_
    rw [ccHolds_eq_holds, Ctx.av, Ctx.bv, asTy_word w, asTy_word w]; rfl
  case icmpi =>
    have ok : (tyIs f.mod [.i32, .n32] && combOk f.mod) = true := shape_ok_of_issues h
    simp only [Bool.and_eq_true] at ok
    obtain ⟨ty, -⟩ := ok
    have w : (modTy f.mod).bits = 32 := bits_of_tyIs ty (by decide)
    refine givesPreds_of_compare h (rfl : _ = execIcmpi k f s) rfl fun l => ?_
    rw [ccHolds_eq_holds, Ctx.av, asTy_word w, asTy_word w, BitVec.setWidth_eq]; rfl
  case cmp64 =>
    have ok : (tyIs f.mod [.i64, .n64] && modIn f.mod 0x7ff && combOk f.mod) = true := shape_ok_of_issues h
    simp only [Bool.and_eq_true] at ok
    obtain ⟨⟨ty, -⟩, -⟩ := ok
    have w : (modTy f.mod).bits = 64 := bits_of_tyIs ty (by decide)
    refine givesPreds_of_compare h (rfl : _ = execCmp64 k f s) rfl fun l => ?_
    rw [ccHolds_eq_holds, Ctx.av, Ctx.bv, asTy_dword w, asTy_dword w]
    cases tySigned f.mod <;> rfl
  case pset =>
    refine givesPreds_of_issue h (rfl : _ = execPset f s) rfl fun l => ?_
    change lut3 _ (predOf _ (modPred _ 8)) (predOf _ (modPred _ 12)) (predOf _ (modPred _ 16)) = lutBit _ _ _ _
    rw [lut3_eq_lutBit, predOf_modPred, predOf_modPred, predOf_modPred]
    rfl

/-! Masks and lanes. -/

/-- The sum of the powers of two that a test names, below `n`. -/
theorem foldl_add_two_pow_lt (f : Nat → Bool) (n : Nat) :
    (List.range n).foldl (fun r l => if f l then r + 2 ^ l else r) 0 < 2 ^ n := by
  induction n with
  | zero => exact Nat.one_pos
  | succ n ih =>
    rw [List.range_succ, List.foldl_append, List.foldl_cons, List.foldl_nil, Nat.pow_succ]
    split <;> omega

/-- Each of its bits is the test. -/
theorem testBit_foldl_add_two_pow (f : Nat → Bool) (n l : Nat) :
    ((List.range n).foldl (fun r l => if f l then r + 2 ^ l else r) 0).testBit l = (decide (l < n) && f l) := by
  induction n with
  | zero => simp
  | succ n ih =>
    have lt := foldl_add_two_pow_lt f n
    have le : decide (l < n + 1) = (decide (n = l) || decide (l < n)) := by
      rw [← Bool.decide_or]; exact decide_eq_decide.mpr (by omega)
    rw [List.range_succ, List.foldl_append, List.foldl_cons, List.foldl_nil, le]
    generalize (List.range n).foldl _ 0 = r at ih lt
    have add : (r + 2 ^ n).testBit l = (decide (n = l) || r.testBit l) := by
      rw [Nat.add_comm, ← Nat.mul_one (2 ^ n), Nat.two_pow_add_eq_or_of_lt lt, Nat.mul_one, Nat.testBit_or, Nat.testBit_two_pow]
    by_cases hl : n = l
    · subst hl
      cases hf : f n <;> simp [add, ih, hf]
    · cases hf : f n <;> simp [add, ih, hl]

/-- A lane is in the mask of a test that it meets. -/
@[simp] theorem getLsbD_laneMask (f : Nat → Bool) (l : Nat) : (laneMask f).getLsbD l = (decide (l < 32) && f l) := by
  rw [laneMask, BitVec.getLsbD_ofNat, testBit_foldl_add_two_pow, ← Bool.and_assoc, Bool.and_self]

theorem lanesAt_mk {α : Type} (f : Nat → α) {l : Nat} (h : l < 32) (d : α) : Lanes.at (Lanes.mk f) l d = f l := by
  simp [Lanes.at, Lanes.mk, h]

/-! Entering the handler (R218). -/

/-- The cause registers of a trap (R219). -/
def trapRegs (c : Cause) (slot2 : Bool) (tpoint tresume : DWord) (level va : Nat) : CauseRegs :=
  { tcause := BitVec.ofNat 64 (c.code + 2 ^ 5 * b2n slot2 + 2 ^ 6 * level + 2 ^ 8 * c.kind + 2 ^ 32 * c.info)
    tpoint := tpoint, tresume := tresume, tlanes := c.lanes, taddr := c.addr, tframe := BitVec.ofNat 64 va }

/-- What a trap keeps of a group beside its frame. -/
def savedTrap (held : List Access) (g : Group) : SavedTrap :=
  { outer := g.cause, wasWaiting := g.status == .waiting
    parks := Lanes.mk fun l => ((threadAt g l).park, (threadAt g l).rel)
    cuffAwait := g.cuffs.toList.map (·.await), brimAwait := [g.lx.await, g.ly.await], kept := [], held := held
    pcs := Lanes.mk fun l => (threadAt g l).pc, lands := laneMask fun l => (threadAt g l).land }

/-- A group as it enters its handler at clk `clk`. -/
def enterHandler (clk : Nat) (regs : CauseRegs) (entry : DWord) (held stay : List Access) (g : Group) : Group :=
  let barts := if g.status == .handler then g.barts
    else g.barts.map fun (x : Bart) => { x with left := x.left - (clk - x.since), since := clk }
  let after := updThreads { g with barts := barts } (presentMask g) fun _ th =>
    { th with pc := entry, mark := .none, park := none, rel := false, land := false }
  { dropOperands after with
    status := .handler, cause := regs, saved := savedTrap held g :: after.saved, queue := stay, gpc := entry, sel := true
    chosen := false, lines := [], ser := ⟨false, 0, 0, 0, 0⟩ }

/-- With a vector entry, a level left and a frame that is written, a trap is the group's entry into its handler. -/
theorem takeTrap_eq_enterHandler {s u : State} {r : GroupRef} {c : Cause} {slot2 : Bool} {tpoint tresume : DWord}
    {held stay : List Access} {t : Team} {g : Group} {gr : Grid} {entry : DWord} {va : Nat} {regs : CauseRegs}
    (ht : teamAt s r.team = some t) (hg : groupAt s r = some g) (hgr : gridAt s r.team.grid = some gr)
    (hentry : vectorEntry s t gr c.code = some entry) (hlevel : g.saved.length < 2)
    (hva : va = frameAddr s t.part t.core g.gslot (g.saved.length + 1))
    (hregs : regs = trapRegs c slot2 tpoint tresume (g.saved.length + 1) va)
    (hframe : frameWrite s t.part t.core va (frameBytes g regs (held.map (freezeWait s.clk c))) = some u) :
    takeTrap s r c slot2 tpoint tresume held stay
      = updGroup u r (enterHandler u.clk regs entry (held.map (freezeWait s.clk c)) stay) := by
  subst hva hregs
  rw [trapRegs] at hframe
  simp only [takeTrap, ht, hg, hgr, hentry, hframe, if_neg (show ¬2 < g.saved.length + 1 by omega)]
  refine congrArg (updGroup u r) (funext fun x => ?_)
  simp only [enterHandler, trapRegs, savedTrap]

section EnterHandler
variable (clk : Nat) (regs : CauseRegs) (entry : DWord) (held stay : List Access) (g : Group)

@[simp] theorem enterHandler_status : (enterHandler clk regs entry held stay g).status = .handler := rfl
@[simp] theorem enterHandler_cause : (enterHandler clk regs entry held stay g).cause = regs := rfl
@[simp] theorem enterHandler_queue : (enterHandler clk regs entry held stay g).queue = stay := rfl
@[simp] theorem enterHandler_saved : (enterHandler clk regs entry held stay g).saved = savedTrap held g :: g.saved := by
  simp only [enterHandler, updThreads_saved]
@[simp] theorem enterHandler_regs : (enterHandler clk regs entry held stay g).regs = g.regs := by
  simp only [enterHandler, dropOperands_regs, updThreads_regs]
@[simp] theorem enterHandler_fpstat : (enterHandler clk regs entry held stay g).fpstat = g.fpstat := by
  simp only [enterHandler, dropOperands_fpstat, updThreads_fpstat]
@[simp] theorem enterHandler_lfsr : (enterHandler clk regs entry held stay g).lfsr = g.lfsr := by
  simp only [enterHandler, dropOperands_lfsr, updThreads_lfsr]
@[simp] theorem enterHandler_lx_valid : (enterHandler clk regs entry held stay g).lx.valid = false := by
  simp only [enterHandler, dropOperands_lx]
@[simp] theorem enterHandler_ly_valid : (enterHandler clk regs entry held stay g).ly.valid = false := by
  simp only [enterHandler, dropOperands_ly]

/-- A thread after the entry: a present one stands at the entry without a mark. -/
theorem threadAt_enterHandler {l : Nat} (h : l < 32) : threadAt (enterHandler clk regs entry held stay g) l =
    if (threadAt g l).present then { threadAt g l with pc := entry, mark := .none, park := none, rel := false, land := false }
    else threadAt g l := by
  have present : (presentMask g).getLsbD l = (threadAt g l).present := by
    rw [presentMask, getLsbD_laneMask, decide_eq_true h, Bool.true_and]
  rw [threadAt, enterHandler]
  simp only [dropOperands_threads, updThreads_threads]
  rw [lanesAt_mk _ h, present]
  rfl

/-- No Cuff slot is valid after the entry. -/
theorem cuffAt_enterHandler_valid (k : Nat) : (cuffAt (enterHandler clk regs entry held stay g) k).valid = false := by
  rw [cuffAt, enterHandler]
  simp only [dropOperands_cuffs, List.getD_eq_getElem?_getD]
  by_cases h : k < 8 <;> simp [h]

end EnterHandler

/-- A group that is there has a team. -/
theorem teamAt_of_groupAt {s : State} {r : GroupRef} {g : Group} (h : groupAt s r = some g) : ∃ t, teamAt s r.team = some t := by
  rw [groupAt] at h
  split at h
  case h_1 t ht => exact ⟨t, ht⟩
  case h_2 => cases h

/-- Settles O38: the trap is the group's entry into its handler, read field by field. -/
theorem trapEntryState : Obligations.TrapEntryState := by
  intro i s c e entry u hc hentry hlevel va regs hframe hu
  obtain ⟨rfl, -, -, -, ht, hg, hgr, -⟩ := ctxOf_eq hc
  have hregs : regs = trapRegs e c.slot2 (trapPoint c) (trapPoint c) (c.g.saved.length + 1) va := by
    rw [trapRegs, b2n_eq_toNat]; rfl
  have enters : issueTrap c e = updGroup u c.r (enterHandler u.clk regs entry [] c.g.queue) :=
    takeTrap_eq_enterHandler ht hg hgr hentry hlevel rfl hregs hframe
  obtain ⟨t, hut⟩ := teamAt_of_groupAt hu
  refine ⟨_, enters ▸ groupAt_updGroup_same _ hut hu, enterHandler_status .., enterHandler_cause .., ?depth, ?saved,
    enterHandler_queue .., enterHandler_regs .., enterHandler_fpstat .., enterHandler_lfsr ..,
    fun k _ => cuffAt_enterHandler_valid .., enterHandler_lx_valid .., enterHandler_ly_valid .., fun l hl => ?threads⟩
  case depth => rw [enterHandler_saved, List.length_cons]
  case saved =>
    rw [enterHandler_saved]
    rintro sv ⟨⟩
    exact ⟨rfl, rfl⟩
  case threads =>
    rw [threadAt_enterHandler _ _ _ _ _ _ hl]
    cases present : (threadAt c.g l).present
    · exact ⟨present, rfl, nofun⟩
    · exact ⟨present, rfl, fun _ => ⟨rfl, rfl⟩⟩

/-! Reset. -/

/-- Settles O30: the lists and registers of the reset state, the partitions one by one and the budgets by number. -/
theorem resetValues : Obligations.ResetValues := by
  refine ⟨rfl, rfl, rfl, rfl, rfl, fun p hp => ?partition, rfl, fun k hk => ?budget, rfl, rfl, rfl, rfl, rfl, rfl, rfl, rfl, rfl⟩
  case partition =>
    obtain ⟨n, -, rfl⟩ := List.mem_map.mp hp
    exact ⟨rfl, rfl, rfl, rfl, rfl, rfl, rfl, rfl, rfl⟩
  case budget =>
    have atReset : budgetAt State.reset k = Budget.atReset := by
      have held : State.reset.budgets[k]? = some Budget.atReset := List.getElem?_replicate_of_lt hk
      rw [budgetAt, List.getD_eq_getElem?_getD, held, Option.getD_some]
    rw [atReset]
    exact ⟨rfl, rfl⟩

/-! Block types that a conversion does not have. -/

/-- BXPACK.X4E2.X4E2 v8, v4: from a block type to a block type, which R42 does not define. -/
def bxpackOfBlocks : Instr :=
  .bxpack ⟨⟨false, 7⟩, ⟨8, false, false, 0⟩, .file 4 false false, .unused, .unused, 19 + 32 * 19⟩

/-- Refutes O25: BXPACK, opcode 0x45, has the assigned SUB 0, and with a block type as its source it is ILLOP as R42 has it; the
statement makes this exception for 0x42, 0x43, 0x44 and 0x46 alone. -/
theorem not_unassignedOpcodesAreIllop : ¬ Obligations.UnassignedOpcodesAreIllop := by
  intro h
  obtain ⟨-, exceptions⟩ := h (encode bxpackOfBlocks)
  have illop : decode (encode bxpackOfBlocks) = .illop := by decide
  have opcode : (encode bxpackOfBlocks).toNat % 256 = 0x45 := by decide
  have := exceptions (by decide) illop
  omega

end Sys2Proof.Machine
end

section
/-! SUPPORT. Cross-lane instructions: masks of lanes and the lowest lane, operands of a lane at their type's width (R64, R69, R178), the
exchange between lanes (R179, R180, R184), and serial regions, REHOME, LFSRSET and GJOIN (R185 to R189). -/

namespace Sys2Proof.Machine

/-! The lanes of a mask. -/

/-- The lanes of a mask are those whose bit is set. -/
@[simp] theorem mem_lanesOf {m : BitVec 32} {l : Nat} : l ∈ lanesOf m ↔ m.getLsbD l = true := by
  rw [lanesOf, List.mem_filter, List.mem_range, and_iff_right_iff_imp]
  exact BitVec.lt_of_getLsbD

/-- A mask with a lane has its lowest lane. -/
theorem getLsbD_lowLane {m : BitVec 32} {l : Nat} (h : m.getLsbD l = true) : m.getLsbD ((lowLane m).getD 0) = true := by
  rw [lowLane]
  cases e : lanesOf m with
  | nil => exact absurd (mem_lanesOf.mpr h) (by simp [e])
  | cons x xs => exact mem_lanesOf.mp (by simp [e])

/-- The lanes of a mask agree with its lowest lane exactly where every two of them agree. -/
theorem all_eq_low_iff {α : Type} [BEq α] [LawfulBEq α] (m : BitVec 32) (f : Nat → α) :
    ((lanesOf m).all fun l => f l == f ((lowLane m).getD 0)) = true
      ↔ ∀ i j, m.getLsbD i = true → m.getLsbD j = true → f i = f j := by
  simp only [List.all_eq_true, mem_lanesOf, beq_iff_eq]
  constructor
  · exact fun h i j hi hj => (h i hi).trans (h j hj).symm
  · exact fun h l hl => h l _ hl (getLsbD_lowLane hl)

/-! Operands of a lane. -/

/-- Check 6 of R79 has passed where an instruction runs. -/
theorem wf_of_issues {i : Instr} {s : State} {c : Ctx} (h : Issues i s c) : i.wf = true := by
  obtain ⟨hc, hr⟩ := h
  obtain ⟨-, hi, -⟩ := ctxOf_eq hc
  cases hw : i.wf with
  | true => rfl
  | false =>
    have illfmt : staticTrap c = some tcIllfmt := by
      rw [staticTrap, hi, hw]; rfl
    simp only [readyOf, illfmt] at hr
    split at hr <;> cases hr

/-- The constants k0 to k47 have 32 bits (R69). -/
theorem constTable_lt : ∀ k < 48, constTable.getD k 0 < 2 ^ 32 := by decide

/-- A source of one register holds 32 bits at every level that a 32-bit read admits (R60 to R64). -/
theorem srcVal_one_lt {x : Src} (hx : x.ok32 = true) (t : Team) (g : Group) (pops l : Nat) : (srcVal t g x 1 pops l).toNat < 2 ^ 32 := by
  have word (v : Word) : (v.setWidth 128).toNat < 2 ^ 32 := by
    rw [BitVec.toNat_setWidth]; exact Nat.lt_of_le_of_lt (Nat.mod_le _ _) v.isLt
  cases x with
  | file n c d => simpa [srcVal, fileVal] using word _
  | const k =>
    rw [srcVal, BitVec.toNat_ofNat]
    exact Nat.lt_of_le_of_lt (Nat.mod_le _ _) (constTable_lt _ (of_decide_eq_true hx))
  | zero => exact Nat.two_pow_pos 32
  | _ => exact word _

/-- Operand B of an instruction that reads it as 32 bits. -/
theorem ctxOf_b {i : Instr} {s : State} {c : Ctx} (h : ctxOf i s = some c) (hk : i.shape.kb = .w32) :
    ∃ pops, c.b = Lanes.mk fun l => srcVal c.t c.g i.shape.sb 1 pops l := by
  have second : i.shape.srcs[1]? = some (i.shape.sb, .w32) := by rw [← hk]; rfl
  simp only [ctxOf] at h
  split at h
  · cases h
  · split at h
    · cases h
      simp only [second]
      exact ⟨_, rfl⟩
    · cases h

/-- Such an operand is below 2^32 in every lane. -/
theorem bv_lt_of_w32 {i : Instr} {s : State} {c : Ctx} (h : Issues i s c) (hk : i.shape.kb = .w32) (l : Nat) : c.bv l < 2 ^ 32 := by
  have wf := wf_of_issues h
  simp only [Instr.wf, Bool.and_eq_true, Shape.srcsOk, Shape.srcs, List.all_cons] at wf
  obtain ⟨⟨⟨⟨-, admits, -⟩, -⟩, -⟩, -⟩ := wf
  rw [hk] at admits
  obtain ⟨pops, hb⟩ := ctxOf_b h.1 hk
  rw [Ctx.bv, hb]
  by_cases hl : l < 32
  · rw [lanesAt_mk _ hl]; exact srcVal_one_lt admits _ _ _ _
  · simp [Lanes.at, hl]

theorem b32_toNat_of_w32 {i : Instr} {s : State} {c : Ctx} (h : Issues i s c) (hk : i.shape.kb = .w32) (l : Nat) :
    (c.b32 l).toNat = c.bv l := by
  rw [Ctx.b32, BitVec.toNat_setWidth]
  exact Nat.mod_eq_of_lt (bv_lt_of_w32 h hk l)

theorem ofNat_av_eq_a64 (c : Ctx) (l : Nat) : BitVec.ofNat 64 (c.av l) = c.a64 l := BitVec.ofNat_toNat 64 _

/-- Operands at their type's width agree as words of that width (R184). -/
theorem laneIn_eq_iff {m : BitVec 31} (ty : tyIs m [.n32, .n64] = true) (c : Ctx) (i j : Nat) :
    laneIn c m i = laneIn c m j ↔ if modTy m = .n64 then c.a64 i = c.a64 j else c.a32 i = c.a32 j := by
  have types : modTy m = .n32 ∨ modTy m = .n64 := by simpa using modTy_mem_of_tyIs ty
  simp only [laneIn, Ctx.av]
  rcases types with t | t <;>
    simp [t, Ty.bits, Ctx.a32, Ctx.a64, ← BitVec.toNat_inj]

/-! Exchange between lanes. -/

section Effects
variable {i : Instr} {s : State} {c : Ctx} {k : Ctx → Act}

/-- An instruction whose own part gives words without flags completes with them. -/
theorem givesWords_of_issue {w : Nat → Word} (h : Issues i s c) (he : exec i s = issue i s k)
    (hk : k c = vecOf fun l => (w l).toNat) : GivesWords i s c 0 w := by
  obtain ⟨hc, hr⟩ := h
  refine ⟨fun l => BitVec.ofNat 128 (w l).toNat, he.trans (issue_go hc hr hk), fun l _ => ?_⟩
  rw [BitVec.setWidth_ofNat_of_le (by decide), BitVec.ofNat_toNat, BitVec.setWidth_eq]

end Effects

/-- The lane that SHFL reads, with w as a quotient (R179). -/
theorem shflLane_eq (k : ShflKind) (seg l b : Nat) : shflLane k seg l b =
    let w := 32 / 2 ^ seg
    let base := l - l % w
    match k with
    | .idx => base + b % w
    | .up => if l - base < b then l else l - b
    | .down => if base + w - l ≤ b then l else l + b
    | .xor => base + ((l - base) ^^^ (b % w)) := by
  cases k <;> simp only [shflLane, Nat.shiftRight_eq_div_pow]

/-- What MATCH.ALL gives every active lane (R184). -/
def matchAllMask (c : Ctx) (m : BitVec 31) : Word :=
  if (lanesOf c.act).all fun l => laneIn c m l == laneIn c m ((lowLane c.act).getD 0) then c.act else 0

theorem vecOf_matchAllMask (c : Ctx) (m : BitVec 31) : vecOf (fun _ => (matchAllMask c m).toNat) = vecOf fun _ =>
    if (lanesOf c.act).all fun l => laneIn c m l == laneIn c m ((lowLane c.act).getD 0) then c.act.toNat else 0 := by
  rw [matchAllMask, apply_ite BitVec.toNat]; rfl

/-- Settles O18: SHFL by the lane it reads, VOTE and MATCH.ANY by the active lanes, MATCH.ALL by agreement with the lowest of them. -/
theorem laneExchange : Obligations.LaneExchange := by
  intro s c
  refine ⟨fun k f h => ?shfl, fun f h => ?voteAll, fun f h => ?voteAny, fun f h => ?voteBal, fun f h => ?matchAny, fun f h => ?matchAll⟩
  case shfl =>
    have seg : modBits f.mod 5 3 = f.mod.toNat / 32 % 8 := congrArg (· % 2 ^ 3) (Nat.shiftRight_eq_div_pow _ 5)
    have lanes := givesDWords_of_issue h (rfl : _ = execShfl k f s) rfl
    simp only [ofNat_av_eq_a64, shflLane_eq, seg, ← b32_toNat_of_w32 h rfl] at lanes
    exact lanes
  case voteAll =>
    refine ⟨_, givesPreds_of_issue h (rfl : _ = execVote .all f s) rfl fun _ => rfl, fun _ => ?_⟩
    simp only [List.all_eq_true, mem_lanesOf]
  case voteAny =>
    refine ⟨_, givesPreds_of_issue h (rfl : _ = execVote .any f s) rfl fun _ => rfl, fun _ => ?_⟩
    simp only [List.any_eq_true, mem_lanesOf]
  case voteBal =>
    refine ⟨_, givesWords_of_issue h (rfl : _ = execVote .bal f s) rfl, fun _ j hj => ?_⟩
    rw [getLsbD_laneMask, decide_eq_true hj, Bool.true_and]
  case matchAny =>
    have ty := (Bool.and_eq_true_iff.mp (shape_ok_of_issues h)).1
    refine ⟨_, givesWords_of_issue h (rfl : _ = execMatchLanes .any f s) rfl, fun l j hj => ?_⟩
    rw [getLsbD_laneMask, decide_eq_true hj, Bool.true_and]
    congr 1
    rw [Bool.eq_iff_iff, beq_iff_eq, laneIn_eq_iff ty]
    split <;> rw [beq_iff_eq]
  case matchAll =>
    have ty := (Bool.and_eq_true_iff.mp (shape_ok_of_issues h)).1
    have agree := all_eq_low_iff c.act (laneIn c f.mod)
    simp only [laneIn_eq_iff ty] at agree
    refine ⟨fun _ => matchAllMask c f.mod, givesWords_of_issue h (rfl : _ = execMatchLanes .all f s) (vecOf_matchAllMask c f.mod).symm,
      fun _ => ⟨fun eq => if_pos (agree.mpr eq), fun ne => if_neg (mt agree.mp ne)⟩⟩

/-! Serial regions, REHOME, LFSRSET and GJOIN. -/

/-- The low bits of one of two sources, as LFSRSET takes its seed from sN or IMM (R188). -/
theorem ofNat_ite_toNat {n m w : Nat} (p : Prop) [Decidable p] (x : BitVec n) (y : BitVec m) :
    BitVec.ofNat w (if p then x.toNat else y.toNat) = if p then x.setWidth w else y.setWidth w := by
  split <;> exact BitVec.ofNat_toNat w _

/-- Settles O20: each instruction's own part is its effect on the group; REHOME's where no register is EMPTY. -/
theorem serialRegionsAndJoins : Obligations.SerialRegionsAndJoins := by
  intro s c
  refine ⟨fun f h => ?lser, fun f h => ?lsend, fun f h full => ?rehome, fun f h => ?lfsrset, fun f h => ?gjoin⟩
  case lser => exact acts_of_issue h (rfl : _ = execLser f s) rfl
  case lsend => exact acts_of_issue h (rfl : _ = execLsend f s) rfl
  case rehome => exact acts_of_issue h (rfl : _ = execRehome f s) (if_neg (ne_true_of_eq_false full))
  case lfsrset =>
    refine acts_of_issue h (rfl : _ = execLfsrset f s) (congrArg (effect c) (funext fun _ => congrArg _ (funext fun g => ?_)))
    rw [Ctx.av, ofNat_ite_toNat]; rfl
  case gjoin => exact acts_of_issue h (rfl : _ = execGjoin f s) rfl

end Sys2Proof.Machine
end

section
/-! SUPPORT. Bit fields and addresses as words (R150), what an issue of an access, of a group wait and of a team's event amounts to, the
waits (R208, R209, R305 to R308), hardware queues (R210 to R212), team resources (R213 to R217), and the cluster's, the tickets' and the
launches' instructions (R259 to R272, R329, R331, R380). -/

namespace Sys2Proof.Machine

/-! Bit fields and addresses (R150). -/

/-- A bit field as a quotient. -/
theorem bitsOf_eq (x hi lo : Nat) : bitsOf x hi lo = x / 2 ^ lo % 2 ^ (hi + 1 - lo) := by
  rw [bitsOf, Nat.shiftRight_eq_div_pow]

/-- A bit field that reaches the top of its word. -/
theorem bitsOf_top {w hi lo : Nat} (x : BitVec w) (h : lo + (hi + 1 - lo) = w) : bitsOf x.toNat hi lo = x.toNat / 2 ^ lo := by
  rw [bitsOf_eq]
  refine Nat.mod_eq_of_lt (Nat.div_lt_of_lt_mul ?_)
  rw [← Nat.pow_add, h]
  exact x.isLt

/-- Wrapping keeps a word. -/
theorem wrap_eq_toNat (w : Nat) (x : Int) : wrap w x = (BitVec.ofInt w x).toNat := (BitVec.toNat_ofInt x).symm

/-- A narrower wrap of a number. -/
theorem wrap_eq_mod {w v : Nat} (h : w ≤ v) (x : Int) : wrap w x = wrap v x % 2 ^ w := by
  have hd : ((2 ^ w : Nat) : Int) ∣ ((2 ^ v : Nat) : Int) := Int.natCast_dvd_natCast.mpr (Nat.pow_dvd_pow 2 h)
  have pos : ((2 ^ v : Nat) : Int) ≠ 0 := Int.natCast_ne_zero.mpr (Nat.ne_of_gt (Nat.two_pow_pos v))
  have hv : ((wrap v x : Nat) : Int) = x % ((2 ^ v : Nat) : Int) := Int.toNat_of_nonneg (Int.emod_nonneg _ pos)
  rw [wrap, ← Int.emod_emod_of_dvd x hd, ← hv, ← Int.natCast_emod, Int.toNat_natCast]

/-- A sign-extended word as the word of its number. -/
theorem ofInt_signed {w n : Nat} (v : Nat) (x : BitVec n) : BitVec.ofInt v (signed w x.toNat) = (x.setWidth w).signExtend v := by
  rw [signed_eq_toInt, BitVec.ofNat_toNat]; rfl

/-- The address of a lane is that of R150 as a number. -/
theorem addrOf_eq (c : Ctx) (f : MF) (l : Nat) : addrOf c f 64 l = (laneAddr c f l).toNat := by
  have base : BitVec.ofInt 64 (c.av l : Int) = c.a64 l := by
    rw [BitVec.ofInt_natCast]; exact ofNat_av_eq_a64 c l
  have scale : (memMod f.mod).scale = f.mod.toNat / 256 % 4 := by
    simp [memMod, modBits, Nat.shiftRight_eq_div_pow]
  have index : BitVec.ofInt 64 (signed 32 (c.bv l) * ((2 ^ (memMod f.mod).scale : Nat) : Int))
      = (c.b32 l).signExtend 64 <<< (f.mod.toNat / 256 % 4) := by
    rw [scale, BitVec.ofInt_mul, Ctx.bv, ofInt_signed, BitVec.ofInt_natCast, BitVec.shiftLeft_eq_mul_twoPow]
    congr 1
    exact BitVec.eq_of_toNat_eq (by simp)
  rw [addrOf, laneAddr, wrap_eq_toNat, BitVec.ofInt_add, BitVec.ofInt_add, apply_ite (BitVec.ofInt 64), base, index, offOf,
    ofInt_signed, BitVec.setWidth_eq]
  rfl

/-- A window address is its low 32 bits. -/
theorem addrOf_window (c : Ctx) (f : MF) (l : Nat) : addrOf c f 32 l = (laneAddr c f l).toNat % 2 ^ 32 := by
  rw [← addrOf_eq]; exact wrap_eq_mod (by decide) _

/-! How an instruction takes effect, from its own part of the issue. -/

section Effects
variable {i : Instr} {s : State} {c : Ctx} {k : Ctx → Act}

/-- An instruction whose own part goes on completes with its effect. -/
theorem retires_of_issue {d : Done} (h : Issues i s c) (he : exec i s = issue i s k) (hk : k c = .go d) : Retires i s c d := by
  obtain ⟨hc, hr⟩ := h
  exact he.trans (issue_go hc hr hk)

/-- An instruction whose own part finds a cause traps with it. -/
theorem traps_of_issue {e : Cause} (h : Issues i s c) (he : exec i s = issue i s k) (hk : k c = .trap e) : Traps i s c e := by
  obtain ⟨hc, hr⟩ := h
  exact he.trans (issue_trap hc hr hk)

/-! Memory accesses and group waits (R162, R209, R317). -/

/-- An access without lanes has no effect. -/
theorem memAct_of_noLanes {a : Access} (hl : a.lanes = 0) (dest now : Bool) :
    memAct c a dest now = .go { vec := if dest then some fun _ => 0 else none } := by
  rw [memAct, if_pos hl]

/-- An access that is not a write of a deterministic launch enters the queue with room. -/
theorem memAct_of_plain {a : Access} (hl : a.lanes ≠ 0) (hq : queueFull c.g = false)
    (hp : lrDet c.gr.lr = false ∨ isReadOp a.opc = true ∨ isFenceOp a.opc = true ∨ isWindowOp a.opc = true) (dest now : Bool) :
    memAct c a dest now = .go { vec := if dest then some fun _ => 0 else none, lazy := true
                                post := fun s => if now then runTok (pushAccess c.r a s) c.r a.tok else pushAccess c.r a s } := by
  have plain : (lrDet c.gr.lr && !isReadOp a.opc && !isFenceOp a.opc && !isWindowOp a.opc) = false := by
    rcases hp with h | h | h | h <;> simp [h]
  rw [memAct, if_neg hl, hq, plain]; rfl

/-- A write of a deterministic launch enters the queue when its try at the issue is done. -/
theorem memAct_of_done {a : Access} {u : State} (hl : a.lanes ≠ 0) (hq : queueFull c.g = false)
    (hp : ¬(lrDet c.gr.lr = false ∨ isReadOp a.opc = true ∨ isFenceOp a.opc = true ∨ isWindowOp a.opc = true))
    (hu : tryAccess (pushAccess c.r a c.s) c.r c.g.queue.length false = .done u) (dest now : Bool) :
    memAct c a dest now = .go { vec := if dest then some fun _ => 0 else none, lazy := true
                                post := fun s => runTok (pushAccess c.r a s) c.r a.tok } := by
  simp only [not_or, Bool.not_eq_false, Bool.not_eq_true] at hp
  obtain ⟨det, read, fence, window⟩ := hp
  rw [memAct, if_neg hl, hq, det, read, fence, window, hu]; rfl

/-- An instruction whose own part is an access issues it. -/
theorem issuesAccess_of_issue {a : Access} {dest now : Bool} (h : Issues i s c) (he : exec i s = issue i s k)
    (hk : k c = memAct c a dest now) : IssuesAccess i s c dest now a :=
  ⟨fun hl => retires_of_issue h he (hk.trans (memAct_of_noLanes hl dest now)),
   fun hl hq hp => retires_of_issue h he (hk.trans (memAct_of_plain hl hq hp dest now)),
   fun hl hq hp _ hu => retires_of_issue h he (hk.trans (memAct_of_done hl hq hp hu dest now))⟩

/-- An instruction whose own part is a group wait enters it. -/
theorem entersWait_of_issue {a : Access} {f : State → State} (h : Issues i s c) (he : exec i s = issue i s k)
    (hk : k c = waitAct c a f) : EntersWait i s c a f := by
  refine ⟨fun ha => retires_of_issue h he (hk.trans ?_), fun ha hq => retires_of_issue h he (hk.trans ?_)⟩
  · rw [waitAct, if_pos ha]
  · rw [waitAct, if_neg ha, hq]; rfl

end Effects

section Captured
variable (c : Ctx) {m : BitVec 32} (dst : Dst) (mod : Nat) (addr data : Nat → Nat) {l : Nat}

/-- The address that an access captures of a lane (R162). -/
theorem accessOf_addr (h : m.getLsbD l = true) : Lanes.at (accessOf c m dst mod addr data).addr l 0 = BitVec.ofNat 64 (addr l) := by
  rw [accessOf, lanesAt_mk _ (BitVec.lt_of_getLsbD h), if_pos h]

/-- The data that an access captures of a lane (R162). -/
theorem accessOf_data (h : m.getLsbD l = true) : Lanes.at (accessOf c m dst mod addr data).data l 0 = BitVec.ofNat 128 (data l) := by
  rw [accessOf, lanesAt_mk _ (BitVec.lt_of_getLsbD h), if_pos h]

end Captured

/-- The address of a lane as a word. -/
theorem ofNat_addrOf (c : Ctx) (f : MF) (l : Nat) : BitVec.ofNat 64 (addrOf c f 64 l) = laneAddr c f l := by
  rw [addrOf_eq, BitVec.ofNat_toNat, BitVec.setWidth_eq]

/-- A window address as a word. -/
theorem ofNat_addrOf_window (c : Ctx) (f : MF) (l : Nat) :
    BitVec.ofNat 64 (addrOf c f 32 l) = ((laneAddr c f l).setWidth 32).setWidth 64 := by
  rw [addrOf_window, ← BitVec.toNat_setWidth, BitVec.ofNat_toNat]

/-- What an access that is made once for its group captures of a lane: the address of the lowest active one. -/
theorem accessOf_lowAddr (c : Ctx) (f : MF) (data : Nat → Nat) {m : BitVec 32} {l : Nat} (h : m.getLsbD l = true) :
    Lanes.at (accessOf c m f.dst f.mod.toNat (fun _ => addrOf c f 64 c.low) data).addr l 0 = laneAddr c f c.low := by
  rw [accessOf_addr _ _ _ _ _ h, ofNat_addrOf]

/-- The same of a window access. -/
theorem accessOf_lowAddr_window (c : Ctx) (f : MF) (data : Nat → Nat) {m : BitVec 32} {l : Nat} (h : m.getLsbD l = true) :
    Lanes.at (accessOf c m f.dst f.mod.toNat (fun _ => addrOf c f 32 c.low) data).addr l 0
      = ((laneAddr c f c.low).setWidth 32).setWidth 64 := by
  rw [accessOf_addr _ _ _ _ _ h, ofNat_addrOf_window]

/-- An issue speaks of its own state and instruction. -/
theorem state_eq_of_issues {i : Instr} {s : State} {c : Ctx} (h : Issues i s c) : c.s = s ∧ c.i = i := by
  obtain ⟨hc, -⟩ := h
  obtain ⟨hs, hi, -⟩ := ctxOf_eq hc
  exact ⟨hs, hi⟩

/-- The access of a fence: its lowest lane's page, for every active thread (R305). -/
theorem isAccess_fenceAccess {i : Instr} {s : State} {c : Ctx} (h : Issues i s c) (hf : isFenceOp i.opc = true) (f : MF) :
    IsAccess i s c f (oneLane c.act) false (fun _ => 0) (fenceAccess c f) := by
  obtain ⟨rfl, rfl⟩ := state_eq_of_issues h
  refine ⟨rfl, rfl, rfl, rfl, (if_pos hf).symm, rfl, rfl, rfl, rfl, rfl, rfl, rfl, fun l hl => ⟨?addr, ?data⟩⟩
  case addr =>
    have captured := accessOf_addr c f.dst f.mod.toNat (addrOf c f 64) (fun _ => 0) hl
    rw [ofNat_addrOf] at captured
    rw [if_neg Bool.false_ne_true]
    exact captured
  case data => exact accessOf_data c f.dst f.mod.toNat (addrOf c f 64) (fun _ => 0) hl

/-- Settles O41: fences issue their access, the waits enter theirs with the address and the timeout captured at the issue. -/
theorem waitingInstructionsIssue : Obligations.WaitingInstructionsIssue := by
  intro s c f
  refine ⟨fun k h => ?fence, fun h => ?racq, fun k h => ?mwait, fun k h => ?arrwait, fun i h => ?tkwait⟩
  case fence => exact ⟨_, isAccess_fenceAccess h rfl f, issuesAccess_of_issue h (rfl : _ = execFence k f s) rfl⟩
  case racq => exact ⟨_, isAccess_fenceAccess h rfl f, issuesAccess_of_issue h (rfl : _ = execRacq f s) rfl⟩
  case mwait =>
    obtain ⟨rfl, hi⟩ := state_eq_of_issues h
    refine ⟨_, congrArg Instr.opc hi, rfl, rfl, ?timeout, fun l hl => ?addr, entersWait_of_issue h (rfl : _ = execMwait k f c.s) rfl⟩
    case timeout =>
      cases k with
      | untimed => rfl
      | timed =>
        have small : c.bv c.low < 2 ^ 64 := Nat.lt_trans (bv_lt_of_w32 h rfl c.low) (by decide)
        have whole : c.bv c.low = (c.b64 c.low).toNat := by
          rw [Ctx.b64, BitVec.toNat_setWidth]; exact (Nat.mod_eq_of_lt small).symm
        exact congrArg (fun n => WaitInfo.mk (some n) c.s.clk) whole
    case addr => exact accessOf_lowAddr c f (fun _ => 0) hl
  case arrwait =>
    obtain ⟨rfl, hi⟩ := state_eq_of_issues h
    refine ⟨_, congrArg Instr.opc hi, rfl, rfl, ?timeout, fun l hl => ⟨?addr, ?count⟩,
      entersWait_of_issue h (rfl : _ = execArrwait k f c.s) rfl⟩
    case timeout =>
      cases k with
      | untimed => rfl
      | timed =>
        have high : c.bv c.low / 2 ^ 32 % 2 ^ 32 = ((c.b64 c.low) >>> 32).toNat := by
          rw [Ctx.b64, BitVec.toNat_ushiftRight, BitVec.toNat_setWidth, Nat.shiftRight_eq_div_pow, ← Ctx.bv]
          omega
        exact congrArg (fun n => WaitInfo.mk (some n) c.s.clk) high
    case addr => exact accessOf_lowAddr_window c f (fun _ => c.bv c.low % 2 ^ 32) hl
    case count =>
      have captured := accessOf_data c f.dst f.mod.toNat (fun _ => addrOf c f 32 c.low) (fun _ => c.bv c.low % 2 ^ 32) hl
      have count : (BitVec.ofNat 128 (c.bv c.low % 2 ^ 32)).toNat = (c.b32 c.low).toNat := by
        rw [Ctx.b32, BitVec.toNat_setWidth, BitVec.toNat_ofNat, ← Ctx.bv]
        exact Nat.mod_eq_of_lt (Nat.lt_trans (Nat.mod_lt _ (by decide)) (by decide))
      rw [← count, ← captured]
      rfl
  case tkwait =>
    obtain ⟨rfl, hi⟩ := state_eq_of_issues h
    exact ⟨_, congrArg Instr.opc hi, rfl, rfl, rfl, entersWait_of_issue h (rfl : _ = execTkwait i c.s) rfl⟩

/-! Events of a team. -/

section Events
variable {i : Instr} {s u : State} {can : Bool} {f : State → State}

/-- An event whose condition holds happens, outside recovery, with its effect. -/
theorem happens_of_event (he : exec i s = event s can f) (hr : s.boot.recovery = false) (hc : can = true) (hf : f s = u) :
    Happens i s u := by
  rw [← hf]
  exact he.trans (event_go hc hr)

/-- An event that is the next state of a step which may not be there happens where it is. -/
theorem happens_of_some {next? : State → Option State} (he : exec i s = event s (next? s).isSome fun s => (next? s).getD s)
    (hr : s.boot.recovery = false) (hu : next? s = some u) : Happens i s u :=
  happens_of_event he hr (by rw [hu]; rfl) (by rw [hu]; rfl)

end Events

/-- The matrix budget's next period begins (R243). -/
theorem happens_matrixBudgetPeriod {s : State} {core : Nat} (hr : s.boot.recovery = false)
    (late : (coreRegsOf s core).periodAt < periodStart s core) : Happens (.matrixBudgetPeriod core) s (updCoreRegs s core fun c =>
      { c with remaining := effUnits s 5 c.units, periodAt := periodStart s core, atBegin := readyOps s core }) :=
  happens_of_event (rfl : _ = execMatrixBudgetPeriod core s) hr (decide_eq_true late) rfl

/-- Settles O52: each event's condition holds, and its effect is the one named. -/
theorem teamEventsHappen : Obligations.TeamEventsHappen := by
  refine ⟨fun s u r t hr => ⟨?element, ?pass, ?transfer, ?engine, ?attention, ?fault, ?drain, ?release, ?cancel⟩,
    fun s core hr late => ?period⟩
  case element => exact happens_of_some (next? := (streamStep · r)) (rfl : _ = execAeStreamElement r s) hr
  case pass =>
    intro l n ht held pass
    refine happens_of_event (rfl : _ = execQuarterOpStart r s) hr ?_ ?_
    · simp only [canQuarterOpStart, ht, held, pass]; rfl
    · simp only [ht, pass]
  case transfer =>
    intro o ht next held mine free
    refine happens_of_event (rfl : _ = execTileTransferStart r s) hr ?_ ?_
    · simp only [canTileTransferStart, ht, next, held, mine, free]; rfl
    · simp only [ht, next, Option.bind_some]
  case engine => exact happens_of_some (next? := (progressOf · r false)) (rfl : _ = execEngineOpCompletion r s) hr
  case attention => exact happens_of_some (next? := (progressOf · r true)) (rfl : _ = execAttnCompletion r s) hr
  case fault =>
    intro x o c found
    refine happens_of_event (rfl : _ = execEngineFault r s) hr ?_ ?_
    · rw [canEngineFault, found]; rfl
    · simp only [found]
  case drain => exact happens_of_some (next? := (drainStep · r)) (rfl : _ = execCommitDrainEntry r s) hr
  case release => exact fun can => happens_of_event (rfl : _ = execTeamSlotRelease r s) hr can rfl
  case cancel =>
    intro gr ht hg fresh pruned
    refine happens_of_event (rfl : _ = execCancelDelivery r s) hr ?_ rfl
    simp only [canCancelDelivery, ht, hg, fresh, pruned]; rfl
  case period =>
    refine ⟨_, happens_matrixBudgetPeriod hr late, ?_⟩
    rw [coreRegsOf_updCoreRegs_same]
    exact ⟨rfl, rfl, rfl⟩

/-! Hardware queues (R211, R212). -/

/-- A sum over the elements that meet a test, added up one by one. -/
theorem foldl_add_if_eq_sum {α : Type} (p : α → Bool) (f : α → Nat) (l : List α) (n : Nat) :
    l.foldl (fun r x => if p x then r + f x else r) n = n + ((l.filter p).map f).sum := by
  induction l generalizing n with
  | nil => rfl
  | cons x xs ih =>
    rw [List.foldl_cons, ih]
    cases hx : p x <;> simp [hx, Nat.add_assoc]

/-- The low bits of an operand as a word. -/
theorem ofNat_av_eq_a32 (c : Ctx) (l : Nat) : BitVec.ofNat 32 (c.av l % 2 ^ 32) = c.a32 l := by
  rw [Ctx.av, ← BitVec.toNat_setWidth, BitVec.ofNat_toNat, BitVec.setWidth_eq]; rfl

/-- Settles O44: each instruction's own part, by what it finds in the queue. -/
theorem hardwareQueues : Obligations.HardwareQueues := by
  intro s c ha
  refine ⟨fun f k cl => ?init, fun f cl q h found free room => ⟨fun allowed space => ?push, fun spent => ?pushWait⟩,
    fun f cl q h found => ⟨fun v rest held idle => ?pop, fun behind room => ?popWait⟩,
    fun f cl q h found => ⟨fun within => ?allow, fun beyond => ?allowMore⟩⟩
  case init =>
    intro n b cap old h hk fifo hcl empty fits
    have bank : bitsOf f.imm.toNat 7 4 = b := bitsOf_eq _ _ _
    have size : bitsOf f.imm.toNat 21 8 + 1 = cap := congrArg (· + 1) (bitsOf_eq _ _ _)
    refine acts_of_issue h (rfl : _ = execHqinit f s) ?_
    simp only [bank, size, hk, hcl, foldl_add_if_eq_sum, Nat.zero_add]
    refine if_neg ?_
    simp only [Bool.or_eq_true, not_or, Bool.not_eq_true]
    refine ⟨⟨by rw [fifo]; rfl, ?_⟩, decide_eq_false (Nat.not_lt.mpr fits)⟩
    split
    case h_1 q held => rw [empty q held]; rfl
    case h_2 => rfl
  case push =>
    refine fun _ => retires_of_issue h (rfl : _ = execHqpush f s) ?_
    have fits : (q.waiters.isEmpty && decide (q.cap ≤ q.entries.length)) = false := by
      simpa only [Bool.and_eq_false_iff, decide_eq_false_iff_not, Nat.not_le, List.isEmpty_eq_false_iff] using space
    simp only [if_neg ha, found, free, room, if_neg allowed, fits, ofNat_av_eq_a32]
    rfl
  case pushWait =>
    obtain ⟨-, hi⟩ := state_eq_of_issues h
    refine ⟨waitEntry c f.dst f.mod.toNat (c.av c.low % 2 ^ 32), congrArg Instr.opc hi, rfl,
      retires_of_issue h (rfl : _ = execHqpush f s) ?_⟩
    simp only [if_neg ha, found, free, room, if_pos spent]
    rfl
  case pop =>
    refine retires_of_issue h (rfl : _ = execHqpop f s) ?_
    simp only [if_neg ha, found, held, idle]
  case popWait =>
    obtain ⟨-, hi⟩ := state_eq_of_issues h
    refine ⟨waitEntry c f.dst f.mod.toNat 0, congrArg Instr.opc hi, rfl, retires_of_issue h (rfl : _ = execHqpop f s) ?_⟩
    simp only [if_neg ha, found, room]
    split
    case h_1 held idle => exact absurd behind (by simp [held, idle])
    case h_2 => rfl
  case allow =>
    refine acts_of_issue h (rfl : _ = execHqallow f s) ?_
    simp only [found, bitsOf_top f.imm (hi := 31) (lo := 16) rfl]
    exact if_neg (Nat.not_lt.mpr within)
  case allowMore =>
    refine traps_of_issue h (rfl : _ = execHqallow f s) ?_
    simp only [found, bitsOf_top f.imm (hi := 31) (lo := 16) rfl]
    exact if_pos beyond

/-! Team resources (R201, R202, R213 to R217). -/

/-- A run of which no register is EMPTY. -/
theorem runEmpty_eq_false {g : Group} {base len : Nat} (h : ∀ j, j < len → (regAt g (base + j)).st ≠ .empty) :
    runEmpty g base len = false := by
  simpa only [runEmpty, List.any_eq_false, List.mem_range, beq_iff_eq] using h

/-- An element of a list with its place. -/
theorem getD_of_mem_zipIdx {α : Type} {l : List α} {x : α × Nat} (h : x ∈ l.zipIdx) (d : α) : x.2 < l.length ∧ l.getD x.2 d = x.1 := by
  have at? : l[x.2]? = some x.1 := List.mem_zipIdx_iff_getElem?.mp h
  exact ⟨(List.getElem?_eq_some_iff.mp at?).1, by rw [List.getD_eq_getElem?_getD, at?, Option.getD_some]⟩

/-- A descriptor that is there is gone on with. -/
theorem withLine_of_got {c : Ctx} {win : Bool} {k va kind : Nat} {b : List Byte} {load : State → State}
    (h : lineLoad c win k va kind = .got b load) (f : List Byte → (State → State) → Act) : withLine c win k va kind f = f b load := by
  rw [withLine, h]

/-- Settles O45: each instruction's own part where its checks pass. -/
theorem teamResources : Obligations.TeamResources := by
  intro s c ha
  refine ⟨fun f h more => ?accallocMore, fun f h fits idle free => ?accalloc, fun f h held unused => ?accfree,
    fun f k h hk => ⟨fun same => ?sameMode, fun other unused empty => ?newMode⟩, fun f h => ?role,
    fun f h on others feeds full => ?lqcfgOn, fun f q h off hq idle feeds full => ?lqcfgOff,
    fun f b load h stopped line ok => ?aecfg, fun f h configured own performed noLog => ?aego, fun f h => ?aestop⟩
  case accallocMore => exact traps_of_issue h (rfl : _ = execAccalloc f s) (if_pos more)
  case accalloc =>
    refine retires_of_issue h (rfl : _ = execAccalloc f s) ?_
    simp only [if_neg (Nat.not_lt.mpr fits), if_neg ha, idle, decide_eq_true free]
    rfl
  case accfree =>
    refine acts_of_issue h (rfl : _ = execAccfree f s) ?_
    have free : (c.t.eops.any fun o => o.tiles.any fun k => decide (4 * (c.t.accN - f.imm.toNat % 32) ≤ k)
        && decide (k < 4 * c.t.accN)) = false := by
      simpa only [List.any_eq_false, List.any_eq_true, Bool.and_eq_true, decide_eq_true_eq, not_exists, not_and] using unused
    simp only [if_neg (Nat.not_lt.mpr held), free]
    rfl
  case sameMode =>
    have field : bitsOf f.imm.toNat 5 4 = f.imm.toNat / 16 % 4 := bitsOf_eq _ _ _
    refine retires_of_issue h (rfl : _ = execBankmode f s) ?_
    simp only [hk, field]
    exact if_pos ((Bool.or_eq_true _ _).mpr (.inr (beq_iff_eq.mpr same)))
  case newMode =>
    have field : bitsOf f.imm.toNat 5 4 = f.imm.toNat / 16 % 4 := bitsOf_eq _ _ _
    refine retires_of_issue h (rfl : _ = execBankmode f s) ?_
    simp only [hk, field, unused]
    refine (if_neg ?changes).trans ((if_neg Bool.false_ne_true).trans ((if_neg ?drained).trans rfl))
    case changes =>
      rw [Bool.or_eq_true, decide_eq_true_eq, beq_iff_eq]
      exact not_or.mpr ⟨ha, other⟩
    case drained =>
      rw [Bool.and_eq_true, beq_iff_eq, List.any_eq_true]
      rintro ⟨fifo, q, hq, held⟩
      rw [empty fifo q hq] at held
      cases held
  case role =>
    have field : bitsOf f.imm.toNat 8 5 = f.imm.toNat / 32 % 16 := bitsOf_eq _ _ _
    refine acts_of_issue h (rfl : _ = execRole f s) ?_
    simp only [field]
  case lqcfgOn =>
    have base : bitsOf f.imm.toNat 11 4 = f.imm.toNat / 16 % 256 := bitsOf_eq _ _ _
    have len : bitsOf f.imm.toNat 15 12 = f.imm.toNat / 4096 % 16 := bitsOf_eq _ _ _
    have own (q : LoopQ) (hq : c.g.loopqs.toList.getD (f.imm.toNat % 8) none = some q) :
        q.occ = 0 ∧ ∀ j, j < q.len → (regAt c.g (q.base + j)).st ≠ .empty := by
      simpa only [if_true] using others _ q (Nat.mod_lt _ (by decide)) hq
    refine acts_of_issue h (rfl : _ = execLqcfg f s) ?_
    simp only [base, len, on, feeds, runEmpty_eq_false full]
    refine (if_neg ?free).trans ((if_neg ?settled).trans rfl)
    case free =>
      simp only [Bool.true_and, Bool.or_false, Bool.or_eq_true, not_or, List.any_eq_true]
      refine ⟨?apart, ?idle⟩
      case apart =>
        rintro ⟨⟨o, k⟩, hk, meets⟩
        obtain ⟨bound, held⟩ := getD_of_mem_zipIdx hk none
        cases o with
        | none => simp only [Bool.and_false, Bool.false_eq_true] at meets
        | some q =>
          simp only [Bool.and_eq_true, bne_iff_ne, decide_eq_true_eq] at meets
          obtain ⟨other, overlap⟩ := meets
          have apart := others k q (by simpa using bound) held
          rw [if_neg other] at apart
          omega
      case idle =>
        split
        case h_1 q hq => simp [(own q hq).1]
        case h_2 => exact Bool.false_ne_true
    case settled =>
      simp only [Bool.and_false, Bool.false_or]
      split
      case h_1 q hq => exact ne_true_of_eq_false (runEmpty_eq_false (own q hq).2)
      case h_2 => exact Bool.false_ne_true
  case lqcfgOff =>
    refine acts_of_issue h (rfl : _ = execLqcfg f s) ?_
    simp only [off, hq, idle, feeds, runEmpty_eq_false full]
    rfl
  case aecfg =>
    have still : (c.t.stream.st == .running) = false := by simpa using stopped
    rw [← addrOf_eq] at line
    refine retires_of_issue h (rfl : _ = execAecfg f s) ?_
    simp only [if_neg ha, still]
    refine (withLine_of_got line _).trans ?_
    exact if_pos ok
  case aego =>
    have used : (c.t.stream.st == .idle) = false := by simpa using configured
    refine acts_of_issue h (rfl : _ = execAego f s) ?_
    simp only [used, own, performed, noLog]
    rfl
  case aestop => exact acts_of_issue h (rfl : _ = execAestop f s) rfl

/-! The cluster's instructions (R259, R263 to R272). -/

/-- A flag as a bit of a number. -/
theorem b2n_mul (b : Bool) (n : Nat) : b2n b * n = if b then n else 0 := by
  cases b <;> simp [b2n]

/-- The lowest active lane, under its name. -/
theorem lowLane_getD_eq_low (c : Ctx) : (lowLane c.act).getD 0 = c.low := rfl

/-- The address-space number of an operand (R259). -/
theorem bv_asid (c : Ctx) (l : Nat) : c.bv l % 65536 = (c.b32 l).toNat % 65536 := by
  rw [Ctx.b32, BitVec.toNat_setWidth, ← Ctx.bv, Nat.mod_mod_of_dvd _ (by decide)]

section Copies
variable {c : Ctx} {f : MF} {dims : Option CopyDims} {d : List Byte} {load : State → State} {cl : Cluster}

/-- A COPY or GATHER whose checks pass, with room among the copies and the range locks: outside a deterministic launch, or to the window,
it goes to the engine; else its destination is translated first (R323). -/
theorem copyAct_of_checked (ha : c.act ≠ 0) (hd : lineLoad c true 7 ((laneAddr c f c.low).toNat % 2 ^ 32) 0 = .got d load)
    (shape : copyBadShape dims d = false) (codes : lowestCode (copyCodes c dims.isNone d) = none)
    (hcl : clusterOfCore c.s c.t.core = some cl) (room : (cl.copies.filter fun o => o.run.isNone).length < 32)
    (locks : locksUsed c.s cl + (if dims.isNone then 3 else 2) ≤ 64) :
    copyAct c f dims = if lrDet c.gr.lr && !(dDsp d) then
        match copyDestination c dims.isNone d with
        | .inl (code, info, va) => .trap ⟨code, info, 3, oneLane c.act, BitVec.ofNat 64 va⟩
        | .inr wide => copyPush c cl.ref dims.isNone d (wide && ticketBuffers c.gr c.t && !c.t.tk.abortMark)
            (wide && !(ticketBuffers c.gr c.t) && c.g.status != .handler) (wide && c.t.tk.abortMark) load
      else copyPush c cl.ref dims.isNone d false false false load := by
  rw [← addrOf_window] at hd
  simp only [copyAct, if_neg ha]
  refine (withLine_of_got hd _).trans ?_
  simp only [shape, codes, hcl, decide_eq_false (Nat.not_le.mpr room), decide_eq_false (Nat.not_lt.mpr locks)]
  rfl

end Copies

/-- Settles O47: a copy goes to the engine or traps on its destination; the others' own parts are their effects. -/
theorem clusterInstructions : Obligations.ClusterInstructions := by
  intro s c ha
  refine ⟨fun f dims d load cl => ?copy, fun f h few => ?copyst, fun f h => ⟨fun canon => ?page, fun wild => ?pageTraps⟩,
    fun f h => ?asid, fun f h => ?all, fun f h => ?query, fun f cl h hcl => ?drain⟩
  case copy =>
    intro i h hd shape codes hcl room locks goes
    have he : exec i s = issue i s fun c => copyAct c f dims := by cases dims <;> rfl
    have own := copyAct_of_checked ha hd shape codes hcl room locks
    refine ⟨fun plain => retires_of_issue h he (own.trans (if_neg ?_)), fun det virt =>
      have translated : (lrDet c.gr.lr && !(dDsp d)) = true := by rw [det, virt]; rfl
      ⟨fun wide hw => retires_of_issue h he ((own.trans (if_pos translated)).trans ?_),
        fun code info va hw => traps_of_issue h he ((own.trans (if_pos translated)).trans ?_)⟩⟩
    · rcases plain with free | window
      · simp [free]
      · simp [window]
    · rw [hw]; rfl
    · rw [hw]
  case copyst =>
    refine retires_of_issue h (rfl : _ = execCopyst f s) ?_
    have cancelled : b2n c.g.copyCancelled * 2 ^ 16 = if c.g.copyCancelled then 65536 else 0 := b2n_mul _ _
    have range : b2n c.g.copyRange * 2 ^ 17 = if c.g.copyRange then 131072 else 0 := b2n_mul _ _
    refine (if_neg ha).trans ((if_neg (Nat.not_lt.mpr few)).trans ?_)
    rw [cancelled, range]
  case page =>
    refine acts_of_issue h (rfl : _ = execTlbinvPage f s) ?_
    simp only [if_neg ha, lowLane_getD_eq_low, addrOf_eq, canon, bv_asid]
    rfl
  case pageTraps =>
    refine traps_of_issue h (rfl : _ = execTlbinvPage f s) ?_
    simp only [if_neg ha, lowLane_getD_eq_low, addrOf_eq, wild]
    rfl
  case asid =>
    refine acts_of_issue h (rfl : _ = execTlbinvAsid f s) ?_
    simp only [lowLane_getD_eq_low, bv_asid]
  case all => exact acts_of_issue h (rfl : _ = execTlbinvAll f s) rfl
  case query =>
    refine ⟨_, retires_of_issue h (rfl : _ = execSlogctlQuery f s) rfl, fun l _ => ?_⟩
    have full : b2n ((clusterOfCore c.s c.t.core).any fun k => k.slogFull) * 2 ^ 18
        = if (clusterOfCore c.s c.t.core).any (fun k => k.slogFull) then 262144 else 0 := b2n_mul _ _
    have mine : ((slogOf c.s c.t.core).filter fun e => e.team == c.r.team).length * 2 ^ 9
        = 512 * (slogOf c.s c.t.core).countP fun e => e.team == c.r.team := by
      rw [List.countP_eq_length_filter]; exact Nat.mul_comm _ _
    rw [BitVec.setWidth_ofNat_of_le (by decide), full, mine]
  case drain =>
    refine acts_of_issue h (rfl : _ = execSlogctlDrain f s) ?_
    simp only [hcl]

/-! Tickets and launches (R314, R315, R317, R329, R331, R380). -/

/-- The post-commit lanes of an issue without such a thread. -/
theorem postLanes_eq_zero {c : Ctx} (h : ∀ l, c.act.getLsbD l = true → (threadAt c.g l).post = false) : postLanes c = 0 := by
  refine BitVec.eq_of_getLsbD_eq fun l hl => ?_
  rw [postLanes, getLsbD_laneMask]
  cases active : c.act.getLsbD l with
  | false => simp
  | true => simp [h l active]

/-- The post-commit lanes of an issue with such a thread. -/
theorem postLanes_ne_zero {c : Ctx} {l : Nat} (ha : c.act.getLsbD l = true) (hp : (threadAt c.g l).post = true) : postLanes c ≠ 0 := by
  intro noLane
  have marked : (postLanes c).getLsbD l = true := by
    rw [postLanes, getLsbD_laneMask, ha, hp, decide_eq_true (BitVec.lt_of_getLsbD ha)]; rfl
  rw [noLane] at marked
  simp at marked

/-- The exponent that DSCALE writes, from A or from IMM (R329). -/
theorem dscale_exponent (c : Ctx) (f : RI) :
    (if f.mod.toNat.testBit 0 then c.av ((lowLane c.act).getD 0) % 4096 else bitsOf f.imm.toNat 15 4)
      = if f.mod.toNat.testBit 0 then (c.a32 c.low).toNat % 4096 else f.imm.toNat / 16 % 4096 := by
  have low : c.av c.low % 4096 = (c.a32 c.low).toNat % 4096 := by
    rw [Ctx.a32, BitVec.toNat_setWidth, ← Ctx.av, Nat.mod_mod_of_dvd _ (by decide)]
  have field : bitsOf f.imm.toNat 15 4 = f.imm.toNat / 16 % 4096 := bitsOf_eq _ _ _
  rw [lowLane_getD_eq_low, low, field]

/-- Settles O48: each instruction's own part, by the launch's policy and the state of the team's ticket. -/
theorem ticketsAndLaunches : Obligations.TicketsAndLaunches := by
  intro s c ha
  refine ⟨fun f h noLog => ⟨fun free => ?commitFree, fun det => ?commit⟩, fun f h => ⟨fun free settled => ?scale, fun det pre live =>
      ⟨fun buffers u hu => ?buffered, fun own young settled => ?turn⟩, fun det aborted => ?discarded, fun det live post => ?trap⟩,
    fun f last h room => ?lnch⟩
  case commitFree =>
    refine retires_of_issue h (rfl : _ = execTkcommit f s) ?_
    simp only [noLog, free, Bool.and_false]
    rfl
  case commit =>
    refine acts_of_issue h (rfl : _ = execTkcommit f s) ?_
    simp only [noLog, det, Bool.and_false]
    rfl
  case scale =>
    refine acts_of_issue h (rfl : _ = execDscale f s) ?_
    simp only [if_neg ha, dscale_exponent, free, settled]
    rfl
  case buffered =>
    refine retires_of_issue h (rfl : _ = execDscale f s) ?_
    simp only [if_neg ha, dscale_exponent, det, live, postLanes_eq_zero pre, buffers, hu]
    rfl
  case turn =>
    refine acts_of_issue h (rfl : _ = execDscale f s) ?_
    simp only [if_neg ha, dscale_exponent, det, live, postLanes_eq_zero pre, own, young, settled]
    rfl
  case discarded =>
    refine retires_of_issue h (rfl : _ = execDscale f s) ?_
    simp only [if_neg ha, dscale_exponent, det, aborted]
    rfl
  case trap =>
    obtain ⟨l, active, hl⟩ := post
    refine traps_of_issue h (rfl : _ = execDscale f s) ?_
    simp only [if_neg ha, dscale_exponent, det, live, if_pos (postLanes_ne_zero active hl)]
    rfl
  case lnch =>
    have he : exec (if last then .lnchLast f else .lnch f) s = issue (if last then .lnchLast f else .lnch f) s fun c => lnchAct c f := by
      cases last <;> rfl
    obtain ⟨-, hi⟩ := state_eq_of_issues h
    refine ⟨{ accessOf c c.act f.dst f.mod.toNat (fun _ => addrOf c f 64 c.low) fun _ => 0 with
        stage := if lrDet c.gr.lr && ticketBuffers c.gr c.t && !c.t.tk.abortMark then 2 else 0 },
      ?opc, ?sub, rfl, rfl, fun l hl => ?addr, rfl, retires_of_issue h he ?own⟩
    case own =>
      rw [lnchAct]
      simp only [if_neg ha, room]
      rfl
    case opc => exact (congrArg Instr.opc hi).trans (by cases last <;> rfl)
    case sub => exact (congrArg Instr.sub hi).trans (by cases last <;> rfl)
    case addr => exact accessOf_lowAddr c f (fun _ => 0) hl

end Sys2Proof.Machine
end

section
/-! SUPPORT. The matrix engine's and the Gauntlet's instructions: tile maps (R226 to R228), quarter operations (R230), tile transfers and
heap reads (R233 to R242), attention operations (R245, R250), and the wait for tiles (R233). -/

namespace Sys2Proof.Machine

/-! Bits and addresses of the operands. -/

/-- A bit of a number is set. -/
theorem abit_eq_one_iff (x k : Nat) : abit x k = 1 ↔ x.testBit k = true := by
  rw [abit, ← Nat.toNat_testBit]
  cases x.testBit k <;> decide

/-- A bit as a number. -/
theorem abit_eq_ite (x k : Nat) : abit x k = if x.testBit k then 1 else 0 := by
  rw [abit, ← Nat.toNat_testBit]
  cases x.testBit k <;> rfl

/-- A sum over the four words of a number. -/
theorem foldl_range_four (x b : Nat → Nat) :
    (List.range 4).foldl (fun r i => r + x i * b i) 0 = x 0 * b 0 + x 1 * b 1 + x 2 * b 2 + x 3 * b 3 := by
  simp [List.range_succ]

/-- The base of a tile transfer, modulo 2^64 (R234). -/
theorem wrap_base_eq (c : Ctx) (f : MF) (l : Nat) : wrap 64 ((c.av l : Int) + offOf f) = (c.a64 l + f.off.signExtend 64).toNat := by
  rw [wrap_eq_toNat, BitVec.ofInt_add, BitVec.ofInt_natCast, ofNat_av_eq_a64, offOf, ofInt_signed, BitVec.setWidth_eq]

/-- A 32-bit operand as a number. -/
theorem av_mod_eq_a32 (c : Ctx) (l : Nat) : c.av l % 2 ^ 32 = (c.a32 l).toNat := by
  rw [Ctx.a32, BitVec.toNat_setWidth, ← Ctx.av]

/-! The codes of the checks at an issue (R100). -/

/-- There is a lowest code unless there is none. -/
theorem lowestCode_eq_none_iff {l : List Nat} : lowestCode l = none ↔ l = [] := by
  cases l <;> simp [lowestCode]

/-- A run of pool bytes without a range lock adds no code. -/
theorem lockCodes_eq_nil {s : State} {t : Team} {l : List (Nat × Nat)} {write : Bool} (h : poolLocked s t l write = none) :
    (if (poolLocked s t l write).isSome then [tcLockhit] else []) = [] := by
  rw [h]; rfl

/-- The codes that a .TREE operation's row table adds, with those of its locks (R245). -/
theorem tableCodes_eq_nil {k : AttnMask} {codes locks : List Nat} (h : (if k == .tree then codes else []) = [])
    (hl : k = .tree → locks = []) : (if k == .tree then codes ++ locks else []) = [] := by
  split
  case isTrue tree => rw [if_pos tree] at h; rw [h, hl (beq_iff_eq.mp tree), List.append_nil]
  case isFalse => rfl

/-! The own part of an issue whose checks pass. -/

section Passed
variable {c : Ctx} (ha : c.act ≠ 0)
include ha

/-- The tile-transfer unit takes an operation while it has room (R438). -/
theorem transferAct2_of_room {codes : List Nat} (ok : lowestCode codes = none) (room : transferFull c.s c.t.core = false) (o : EngOp) :
    transferAct2 c codes o = pushOps c [o] := by
  simp only [transferAct2, ok, if_neg ha, room, Bool.false_eq_true, if_false]

/-- A tile transfer whose control and address pass their checks goes to the unit (R234). -/
theorem xferAct_of_room {f : MF} {kind : EngKind} {x : Xc} {addr : Nat} (hx : Xc.of (c.bv c.low % 2 ^ 64) (c.bv c.low / 2 ^ 64) = x)
    (haddr : (if x.space then (c.a64 c.low + f.off.signExtend 64).toNat % 2 ^ 32 else (c.a64 c.low + f.off.signExtend 64).toNat) = addr)
    (ok : lowestCode (xferCodes c kind x addr) = none) (room : transferFull c.s c.t.core = false) :
    xferAct c f kind = pushOps c [newOp c 0 kind x.tiles (if x.heap then (List.range 32).map x.heapRow else [])
      [b2n (threadAt c.g c.low).post] [c.bv c.low % 2 ^ 64, c.bv c.low / 2 ^ 64] addr] := by
  subst hx
  rw [xferAct]
  simp only [if_neg ha, lowLane_getD_eq_low, wrap_base_eq, haddr]
  exact transferAct2_of_room ha ok room _

/-- A HEAPRD whose row and tile the team owns waits in the queue with its immediate and its query (R242). -/
theorem heaprdAct_of_room {f : RI} {k : Nat} (ok : lowestCode (poolCodes c.t [(65536 * (heaprdRow f.imm.toNat).1
      + 2048 * (heaprdRow f.imm.toNat).2, 2048)] ++ if k = 2 then tileCodes c.t [bitsOf f.imm.toNat 18 13] else []) = none)
    (room : queueFull c.g = false) :
    heaprdAct c f k = .go { vec := some fun _ => 0, lazy := true,
                            post := pushAccess c.r (accessOf c c.act f.dst 0 (fun _ => f.imm.toNat) fun _ => c.av c.low % 2 ^ 32) } := by
  rw [heaprdAct]
  simp only [ok, if_neg ha, room, lowLane_getD_eq_low, Bool.false_eq_true, if_false]

end Passed

/-- The quarter operations of an issue enter the slices while each has room (R230, R231). -/
theorem mqmaAct_of_room {c : Ctx} {sparse : Bool} {m : BitVec 31} {qs : List Nat}
    (hqs : qs = (List.range 4).filter fun q => (List.range 8).any fun k => c.act.getLsbD (8 * q + k))
    (ok : lowestCode ((qs.map fun q => quarterOp c q sparse m).flatMap (·.1)) = none)
    (room : ∀ q ∈ qs, sliceQueue c.s c.t.core q < 8) :
    mqmaAct c sparse m = pushOps c (withPass ((qs.map fun q => quarterOp c q sparse m).map (·.2))) := by
  have slices : ¬((qs.any fun q => decide (8 ≤ sliceQueue c.s c.t.core q)) = true) := by
    simpa only [List.any_eq_true, decide_eq_true_eq, not_exists, not_and, Nat.not_le] using room
  rw [mqmaAct, ← hqs]
  simp only [ok]
  exact if_neg slices

/-- Settles O46: each instruction's own part where its checks pass and its engine has room. -/
theorem engineInstructionsIssue : Obligations.EngineInstructionsIssue := by
  intro s c ha
  refine ⟨fun f n hn h => ?tmap, fun f h => ?tmapf, fun f sparse => ?mqma, fun f h ok room => ?mzero, fun f h ok free => ?mwaita,
    fun f => ?transfers, fun k f h => ?attn, fun f h => ?attnf, fun f => ?heaprd, fun f h => ?heapclr⟩
  case tmap =>
    intro m idle
    have words : (List.range 4).foldl (fun r i => r + (sregOf c.t (n.toNat + i)).toNat * 2 ^ (64 * i)) 0 = m := by
      rw [foldl_range_four, Nat.mul_zero, Nat.pow_zero, Nat.mul_one]; rfl
    have still : ((List.range 4).any fun i => uniBusy c.t (n.toNat + i)) = false := by
      simpa only [List.any_eq_false, List.mem_range, Bool.not_eq_true] using idle
    refine ⟨fun plain => acts_of_issue h (rfl : _ = execTmap f s) ?_, fun reserved => traps_of_issue h (rfl : _ = execTmap f s) ?_⟩
    · simp only [hn, words, still, plain, Bool.false_eq_true, if_false]
    · simp only [hn, words, still, reserved, Bool.false_eq_true, if_false, if_true]
      rfl
  case tmapf =>
    have field : bitsOf f.mod.toNat 7 4 = f.mod.toNat / 16 % 16 := bitsOf_eq _ _ _
    refine acts_of_issue h (rfl : _ = execTmapf f s) ?_
    simp only [field]
  case mqma =>
    intro i qs ops h ok room
    have he : exec i s = issue i s fun c => mqmaAct c sparse f.mod := by cases sparse <;> rfl
    exact retires_of_issue h he (mqmaAct_of_room rfl ok room)
  case mzero => exact retires_of_issue h (rfl : _ = execMzero f s) (transferAct2_of_room ha ok room _)
  case mwaita =>
    have unnamed : (c.t.eops.any fun o => o.tiles.any fun k => (tileRange f.imm).contains k) = false := by
      simpa only [List.any_eq_false, List.any_eq_true, List.contains_iff_mem, not_exists, not_and] using free
    refine retires_of_issue h (rfl : _ = execMwaita f s) ?_
    simp only [ok, if_neg ha, unnamed]
    rfl
  case transfers =>
    intro x base addr goes
    have issues (i : Instr) (kind : EngKind) (he : exec i s = issue i s fun c => xferAct c f kind) : goes i kind :=
      fun h ok room => ⟨_, rfl, rfl, rfl, rfl, rfl, retires_of_issue h he (xferAct_of_room ha rfl rfl ok room)⟩
    exact ⟨issues _ .load rfl, issues _ .drain rfl, issues _ .drainAdd rfl⟩
  case attn =>
    refine fun aligned desc unlocked table drained fields ok known room => retires_of_issue h (rfl : _ = execAttn k f s) ?_
    refine (if_neg ha).trans ?_
    simp only [lowLane_getD_eq_low, av_mod_eq_a32]
    -- The checks speak of the descriptor's words, whatever pool bytes they are.
    generalize (List.range 32).map (fun i => poolNat c.t ((c.a32 c.low).toNat + 4 * i) 4) = w at *
    simp only [lowestCode_eq_none_iff, List.append_eq_nil_iff] at desc ok known
    obtain ⟨⟨⟨tiles, planes⟩, queries⟩, arrival⟩ := ok
    have found := tableCodes_eq_nil queries fun tree => lockCodes_eq_nil (table tree)
    obtain ⟨p, place⟩ : ∃ p, windowPlace c.s c.gr c.r.team.lin (Atd.of w).arrive 8 = .inl p := by
      cases place : windowPlace c.s c.gr c.r.team.lin (Atd.of w).arrive 8 with
      | inr e => simp only [place, List.cons_ne_nil] at arrival
      | inl p => exact ⟨p, rfl⟩
    rw [if_pos aligned, desc, lockCodes_eq_nil unlocked, if_neg (ne_true_of_eq_false drained), if_neg (ne_true_of_eq_false fields),
      tiles, planes, found, place, known, if_neg (ne_true_of_eq_false room)]
    rfl
  case attnf =>
    intro nq d tiles ok room
    have rows : bitsOf f.imm.toNat 17 12 = f.imm.toNat / 4096 % 64 := bitsOf_eq _ _ _
    have depth : bitsOf f.imm.toNat 19 18 = f.imm.toNat / 262144 % 4 := bitsOf_eq _ _ _
    have scratch : bitsOf f.imm.toNat 11 6 = f.imm.toNat / 64 % 64 := bitsOf_eq _ _ _
    refine retires_of_issue h (rfl : _ = execAttnf f s) ?_
    simp only [rows, depth, scratch]
    rw [ok, if_neg ha, room]
    rfl
  case heaprd =>
    intro row waits mine
    have issues (i : Instr) (k : Nat) (hopc : i.opc = 0xda) (hsub : i.sub = k) (he : exec i s = issue i s fun c => heaprdAct c f k)
        (h : Issues i s c) (ok : lowestCode (mine ++ if k = 2 then tileCodes c.t [bitsOf f.imm.toNat 18 13] else []) = none) :
        waits i k := by
      obtain ⟨-, hi⟩ := state_eq_of_issues h
      exact fun room => ⟨accessOf c c.act f.dst 0 (fun _ => f.imm.toNat) fun _ => c.av c.low % 2 ^ 32, (congrArg Instr.opc hi).trans hopc,
        (congrArg Instr.sub hi).trans hsub, rfl, retires_of_issue h he (heaprdAct_of_room ha ok room)⟩
    have alone (ok : lowestCode mine = none) : lowestCode (mine ++ []) = none := by rwa [List.append_nil]
    have tile : bitsOf f.imm.toNat 18 13 = f.imm.toNat / 8192 % 64 := bitsOf_eq _ _ _
    exact ⟨fun h ok => issues _ 0 rfl rfl rfl h (alone ok), fun h ok => issues _ 1 rfl rfl rfl h (alone ok),
      fun h ok => issues _ 2 rfl rfl rfl h (by rw [if_pos rfl, tile]; exact ok)⟩
  case heapclr =>
    intro rows tiles ok room
    have count : bitsOf f.imm.toNat 12 6 = f.imm.toNat / 64 % 128 := bitsOf_eq _ _ _
    have tile : bitsOf f.imm.toNat 22 17 = f.imm.toNat / 131072 % 64 := bitsOf_eq _ _ _
    refine retires_of_issue h (rfl : _ = execHeapclr f s) ?_
    simp only [abit_eq_one_iff, count, tile]
    rw [abit_eq_ite]
    exact transferAct2_of_room ha ok room _

end Sys2Proof.Machine
end

section
/-! SUPPORT. The events of a cluster (R261, R264 to R271) and of the launch engine: records that ring in and start (R370 to R375), units of
teams on their cores (R253, R279), and the starts of graph nodes (R385). -/

namespace Sys2Proof.Machine

/-! Events of a cluster. -/

/-- Settles O53: each event's condition holds, and its effect is the one named; a copy's fault is its group's or ends its graph's run. -/
theorem clusterEventsHappen : Obligations.ClusterEventsHappen := by
  refine fun s u v c k o e hr => ⟨fun startable found => ?start, ?completion, fun found => ?fault, fun live logged => ?retry⟩
  case start =>
    refine happens_of_event (rfl : _ = execCopyOpStart c k s) hr startable ?_
    simp only [found]
  case completion => exact happens_of_some (next? := (copyProgress · c k)) (rfl : _ = execCopyCompletion c k s) hr
  case fault =>
    have can : canCopyFault s c k = true := by rw [canCopyFault, found]; rfl
    refine ⟨fun own => ?group, fun r n node => ?run⟩ <;> refine happens_of_event (rfl : _ = execCopyFault c k s) hr can ?_
    case group => simp only [found, own]
    case run => simp only [found, node]
  case retry =>
    refine happens_of_event (rfl : _ = execSideLogRetryPass c s) hr ?_ rfl
    rw [canSideLogRetryPass, logged, Bool.and_true, bne_iff_ne]
    exact live

/-! Records (R370 to R375). -/

/-- A record without a reason against it enters its queue where there is room (R371). -/
theorem enqueueRec_of_room {s : State} {q : Nat} {b : List Byte} {src : RecSource} (sound : recReason s (qdPart (qdBytes s q)) b src = none)
    (on : qdOn (qdBytes s q) = true) (room : queueOcc s q < qdSlots (qdBytes s q)) :
    enqueueRec s q b src = (appendRec s q (qdBytes s q) b, 0, 0) := by
  have fits : (!(qdOn (qdBytes s q)) || decide (qdSlots (qdBytes s q) ≤ queueOcc s q)) = false := by
    rw [on, decide_eq_false (Nat.not_le.mpr room)]; rfl
  simp only [enqueueRec, sound, fits]
  rfl

/-- A doorbell whose reads are there reports what the enqueue answers (R395). -/
theorem doorbell_of_ready {s t : State} {q st reason : Nat}
    (ready : virtLacks s (qdPart (qdBytes s q)) (enqReads s q (windowOf s q).bytes) = [])
    (entered : enqueueRec s q (windowOf s q).bytes .host = (t, st, reason)) :
    doorbell s q = updWindow t q fun w => { w with status := st, reason := reason } := by
  simp only [doorbell, ready, entered]
  rfl

/-- The record at the head of the queue that the engine serves starts once what it reads is there (R372, R394). -/
theorem happens_recordStart {s u : State} {p q : Nat} (hr : s.boot.recovery = false) (served : servedQueue s p = some q)
    (part : qdPart (qdBytes s q) = p) (ready : virtLacks s p (headReads s q) = []) (start : startHead s q = u) :
    Happens (.recordStart p q) s u := by
  have head : headStart s q = some u := by rw [headStart, part, withReads_ready ready, start]
  refine happens_of_event (rfl : _ = execRecordStart p q s) hr ?_ ?_
  · simp only [canRecordStart, served, head, Option.isSome_some, beq_self_eq_true, Bool.and_true]
  · rw [head, Option.getD_some]

/-- The state in which a record has left the head of its queue, which has been served (R371, R372). -/
def headTaken (s : State) (p q slot : Nat) (rest : List QRec) : State :=
  let prio := qdPrio (qdBytes s q)
  updPart (updQueue s q fun x => { x with waiting := rest, running := x.running ++ [slot] }) p fun x =>
    { x with served := (prio, q) :: x.served.filter fun y => y.1 != prio }

section Heads
variable {s u : State} {p q : Nat} {r : QRec} {rest : List QRec} (head : (queueOf s q).waiting = r :: rest)
  (part : qdPart (qdBytes s q) = p)
include head part

/-- A launch record at the head of a queue, whose kind is neither that of a work record nor that of a graph, starts its grid (R372). -/
theorem startHead_of_launch (noWork : dNat r.bytes 0 1 ≠ 2) (noGraph : dNat r.bytes 0 1 ≠ 3)
    (begins : beginGrid (headTaken s p q r.slot rest) p q r.slot (qdPrio (qdBytes s q)) none r.bytes r.outs r.code false = .inl u) :
    startHead s q = u := by
  unfold headTaken at begins
  simp only [startHead, head, part, begins]

/-- A work record at the head of a queue starts the grid of the launch record that it stands for (R373). -/
theorem startHead_of_work {b : List Byte} (kind : dNat r.bytes 0 1 = 2)
    (work : workRecord (headTaken s p q r.slot rest) p r.slot (qdBytes s q) r.bytes = some b)
    (begins : beginGrid (headTaken s p q r.slot rest) p q r.slot (qdPrio (qdBytes s q)) none b [] r.code true = .inl u) :
    startHead s q = u := by
  unfold headTaken at work begins
  simp only [startHead, head, part, kind, work, begins]

/-- A graph record at the head of a queue starts a run of its graph where the graph's entry is sound (R382, R385). -/
theorem startHead_of_graph {ns : List (List Byte)} (kind : dNat r.bytes 0 1 = 3)
    (nodes : graphNodes (headTaken s p q r.slot rest) p (bitsOf (dNat r.bytes 0 4) 13 8) = some ns) (sound : graphBad ns = none) :
    startHead s q =
      let s1 := headTaken s p q r.slot rest
      updPart { s1 with nextGrid := s1.nextGrid + 1 } p fun x => { x with runs := x.runs ++
        [{ id := s1.nextGrid, graph := bitsOf (dNat r.bytes 0 4) 13 8, queue := q, slot := r.slot, cmpl := (recCmpl r.bytes).1
           irq := (recCmpl r.bytes).2, nodes := ns, sts := ns.map freshNode, startClk := s1.clk, teams := 0, code := r.code }] } := by
  unfold headTaken at nodes ⊢
  simp only [startHead, head, part, kind, nodes, sound]

end Heads

/-! Placement (R253, R279). -/

/-- A grid after its own update that keeps its number. -/
theorem gridAt_updGrid_same {s : State} {n : Nat} {g : Grid} {f : Grid → Grid} (h : gridAt s n = some g)
    (hf : ∀ x, (f x).id = x.id := by exact fun _ => rfl) : gridAt (updGrid s n f) n = some (f g) := by
  rw [gridAt] at h
  rw [gridAt, updGrid_grids, find?_map_update (fun x => by rw [hf]), h, Option.map_some]

@[simp] theorem cancelTeam_ref (t : Team) : (cancelTeam t).ref = t.ref := rfl
@[simp] theorem cancelTeam_core (t : Team) : (cancelTeam t).core = t.core := rfl

@[simp] theorem nextPlaced_id (lin : Nat) (g : Grid) : (nextPlaced lin g).id = g.id := by
  unfold nextPlaced
  split <;> rfl

/-- A unit that fits at a core has cores there, at least one. -/
theorem unitCores_of_fits {s : State} {g : Grid} {core : Nat} {ls : List Nat} (h : unitFits s g core ls = true) :
    ∃ l, unitCores s g ls core = some l ∧ l ≠ [] := by
  unfold unitFits at h
  split at h
  · cases h
  · rename_i l cores
    simp only [Bool.and_eq_true, Bool.not_eq_true', List.isEmpty_eq_false_iff] at h
    obtain ⟨⟨nonempty, -⟩, -⟩ := h
    exact ⟨l, cores, nonempty⟩

/-- Where a grid can be placed at a core, a unit of it has its cores there. -/
theorem unit_of_canTeamPlacement {s : State} {g : Grid} {core : Nat} (hg : gridAt s g.id = some g)
    (can : canTeamPlacement s g.id core = true) :
    ∃ ls l, unitAt s g core = some ls ∧ unitCores s g ls core = some l ∧ l ≠ [] := by
  simp only [canTeamPlacement, hg, Bool.and_eq_true] at can
  obtain ⟨-, found⟩ := can
  obtain ⟨ls, unit⟩ := Option.isSome_iff_exists.mp found
  obtain ⟨l, cores, nonempty⟩ := unitCores_of_fits (List.find?_some unit)
  exact ⟨ls, l, unit, cores, nonempty⟩

/-- A team of a grid that is not restored is a new one at the end of the teams (R191), and the grid goes on behind it. -/
theorem placeTeam_of_new {s : State} {n lin core : Nat} {g : Grid} (hg : gridAt s n = some g) (new : parkedOf s n lin = none) :
    ∃ t : Team, t.ref = ⟨n, lin⟩ ∧ t.core = core ∧
      placeTeam s n lin core = updGrid { s with teams := s.teams ++ [t] } n (nextPlaced lin) := by
  have number : g.id = n := by simpa using List.find?_some hg
  simp only [placeTeam, hg, new]
  refine ⟨_, ?_, ?_, rfl⟩
  · split <;> simp [startTeam, number]
  · split <;> simp [startTeam]

/-- New teams of a grid join the teams in their order, each on its core. -/
theorem teams_placeTeam_foldl {n : Nat} (l : List (Nat × Nat)) : ∀ {s : State} {g : Grid}, gridAt s n = some g →
    (∀ x ∈ l, parkedOf s n x.1 = none) →
    ∃ new, (l.foldl (fun s x => placeTeam s n x.1 x.2) s).teams = s.teams ++ new ∧
      new.map (fun t => (t.ref.grid, t.ref.lin, t.core)) = l.map fun x => (n, x.1, x.2) := by
  induction l with
  | nil => exact fun _ _ => ⟨[], (List.append_nil _).symm, rfl⟩
  | cons x xs ih =>
    intro s g hg fresh
    obtain ⟨t, ref, core, placed⟩ := placeTeam_of_new (core := x.2) hg (fresh x List.mem_cons_self)
    have hg' : gridAt (placeTeam s n x.1 x.2) n = some (nextPlaced x.1 g) := by
      rw [placed]; exact gridAt_updGrid_same hg (nextPlaced_id x.1)
    have fresh' : ∀ y ∈ xs, parkedOf (placeTeam s n x.1 x.2) n y.1 = none := by
      rw [placed]; exact fun y hy => fresh y (List.mem_cons_of_mem _ hy)
    obtain ⟨new, teams, places⟩ := ih hg' fresh'
    refine ⟨t :: new, ?_, ?_⟩
    · rw [List.foldl_cons, teams, placed, updGrid_teams, List.append_assoc, List.singleton_append]
    · rw [List.map_cons, List.map_cons, places, ref, core]

/-- The state in which the logical die of a unit stands on the physical die of a core (R277). -/
def withDie (s : State) (g : Grid) (ls : List Nat) (core : Nat) : State :=
  let ld := logicalDie g (ls.headD 0)
  if lrNdie g.lr = 0 ∨ (g.dmap.any fun x => x.1 == ld) = true then s
  else updGrid s g.id fun g => { g with dmap := (ld, core / 48) :: g.dmap }

/-- Noting the die of a unit leaves the clusters, the teams and the parked teams as they are, and the grid in its place. -/
theorem withDie_keeps {s : State} {g : Grid} (hg : gridAt s g.id = some g) (ls : List Nat) (core : Nat) :
    (withDie s g ls core).clusters = s.clusters ∧ (withDie s g ls core).teams = s.teams ∧ (withDie s g ls core).parked = s.parked ∧
      ∃ g', gridAt (withDie s g ls core) g.id = some g' := by
  unfold withDie
  dsimp only
  split
  · exact ⟨rfl, rfl, rfl, g, hg⟩
  · exact ⟨rfl, rfl, rfl, _, gridAt_updGrid_same hg⟩

/-- The cores of a unit depend on the clusters alone. -/
theorem unitCores_of_clusters {s t : State} (h : t.clusters = s.clusters) (g : Grid) (ls : List Nat) (core : Nat) :
    unitCores t g ls core = unitCores s g ls core := by
  rw [unitCores, unitCores, clusterOfCore, clusterOfCore, h]

/-- A unit is placed team by team on its cores (R253, R279). -/
theorem happens_teamPlacement {s : State} {g : Grid} {core : Nat} {ls : List Nat} {l : List (Nat × Nat)} (hr : s.boot.recovery = false)
    (hg : gridAt s g.id = some g) (can : canTeamPlacement s g.id core = true) (unit : unitAt s g core = some ls)
    (cores : unitCores s g ls core = some l) :
    Happens (.teamPlacement g.id core) s (l.foldl (fun s x => placeTeam s g.id x.1 x.2) (withDie s g ls core)) := by
  obtain ⟨clusters, -⟩ := withDie_keeps hg ls core
  have cores' : unitCores (withDie s g ls core) g ls core = some l := (unitCores_of_clusters clusters g ls core).trans cores
  refine happens_of_event (rfl : _ = execTeamPlacement g.id core s) hr can ?_
  unfold withDie at cores' ⊢
  simp only [hg, unit, Option.getD_some, cores']

/-! Events of the launch engine. -/

/-- Settles O54: each event's condition holds, and its effect is the one named; new teams join by induction over the unit's cores. -/
theorem launchEventsHappen : Obligations.LaunchEventsHappen := by
  intro s u p q hr
  refine ⟨fun words hq hp => ?ring, fun r rest served head part ready => ?start, fun g core hg can => ?place,
    fun g hg done alive => ?completion, fun run node starts ready => ?node, fun run node => ?nodeEnd⟩
  case ring =>
    intro b s1 d ready sound on room
    refine happens_of_event (rfl : _ = execEnqueueDoorbell p q words s) hr ?_
      (doorbell_of_ready ready (enqueueRec_of_room sound on room))
    rw [hp, decide_eq_true hq]
    exact beq_self_eq_true p
  case start =>
    refine ⟨fun noWork noGraph begins => ?launch, fun b kind work begins => ?work, fun ns kind nodes sound => ?graph⟩
    case launch => exact happens_recordStart hr served part ready (startHead_of_launch head part noWork noGraph begins)
    case work => exact happens_recordStart hr served part ready (startHead_of_work head part kind work begins)
    case graph =>
      have number : bitsOf (dNat r.bytes 0 4) 13 8 = dNat r.bytes 0 4 / 256 % 64 := bitsOf_eq _ _ _
      rw [← number] at nodes ⊢
      exact happens_recordStart hr served part ready (startHead_of_graph head part kind nodes sound)
  case place =>
    obtain ⟨ls, l, unit, cores, nonempty⟩ := unit_of_canTeamPlacement hg can
    refine ⟨ls, l, unit, cores, nonempty, happens_teamPlacement hr hg can unit cores, fun fresh => ?_⟩
    obtain ⟨-, teams, parked, g', hg'⟩ := withDie_keeps hg ls core
    have joined := teams_placeTeam_foldl l hg' fun x hx => by rw [parkedOf, parked]; exact fresh x hx
    rwa [teams] at joined
  case completion =>
    refine happens_of_event (rfl : _ = execGridCompletion g.id s) hr ?_ ?_
    · rw [canGridCompletion, hg, Option.any_some, done, alive]; rfl
    · simp only [hg]
  case node =>
    have start : nodeStart s p run node = some (startNode s p run node) := withReads_ready ready _
    refine happens_of_event (rfl : _ = execGraphNodeActivation p run node s) hr ?_ ?_
    · rw [canGraphNodeActivation, starts, start]; rfl
    · simp only [start, Option.getD_some]
  case nodeEnd => exact happens_of_some (next? := (finishNode · p run node)) (rfl : _ = execGraphNodeCompletion p run node s) hr

end Sys2Proof.Machine
end

section
/-! SUPPORT. The invariant of every step (R287): canonical memory and no write left over, kept by the instructions and events, by an issue
of a group and of a core (R48 to R79, R197 to R200), and by what happens without an agenda. It speaks of the memory and the write buffer
alone, so that an update of other fields has it by definition. -/

namespace Sys2Proof.Machine

/-- Whatever state the outcome goes on in, it has the invariant. -/
def KeepsInv (o : Out) : Prop := ∀ t, o = .next t → t.Inv

theorem keepsInv_next {t : State} (h : t.Inv) : KeepsInv (.next t) := by
  rintro _ ⟨⟩
  exact h

theorem keepsInv_end {s0 s : State} (h : s0.Inv) : KeepsInv (next s0 s) := fun _ => next_inv h

theorem issue_keepsInv {s : State} {i : Instr} {k : Ctx → Act} (h : s.Inv) : KeepsInv (issue i s k) := fun _ => issue_inv h
theorem event_keepsInv {s : State} {can : Bool} {f : State → State} (h : s.Inv) : KeepsInv (event s can f) := fun _ => event_inv h
theorem bootEvent_keepsInv {s : State} {can : Bool} {f : State → State} (h : s.Inv) : KeepsInv (bootEvent s can f) :=
  fun _ => bootEvent_inv h

theorem keepsInv_mapNext {o : Out} {f : State → State} (h : KeepsInv o) (hf : ∀ t, t.Inv → (f t).Inv) : KeepsInv (Out.mapNext o f) := by
  cases o with
  | next t => exact keepsInv_next (hf t (h t rfl))
  | fault e => rintro _ ⟨⟩
  | refused e => rintro _ ⟨⟩

theorem ite_inv {p : Prop} [Decidable p] {s t : State} (hs : s.Inv) (ht : t.Inv) : (if p then s else t).Inv := by
  split
  · exact hs
  · exact ht

/-! The power supply and the mailbox (R410, R411). -/

/-- Raising a vector, or a bit of MGSTAT with its vector, reaches the host alone (R398). -/
theorem raiseMsix_inv {s : State} {v : Nat} (h : s.Inv) : (raiseMsix s v).Inv := by
  rwa [State.Inv, raiseMsix_mem, raiseMsix_wbuf]

theorem setMgstat_inv {s : State} {k : Nat} (h : s.Inv) : (setMgstat s k).Inv := ite_inv h (raiseMsix_inv h)

theorem msixWrite_inv {s : State} {k x : Nat} (h : s.Inv) : (msixWrite s k x).Inv :=
  List.foldlRecOn (motive := State.Inv) _ _ h fun _ h _ _ => raiseMsix_inv h

/-- After a reset of the module only cells of the host's memory are left. -/
theorem rebooted_inv {s : State} (h : s.Inv) : (rebooted s).Inv := ⟨Memory.filter_wf h.1 _, rfl⟩

theorem execPowerOn_keepsInv {s : State} (h : s.Inv) : KeepsInv (execPowerOn s) := by
  unfold execPowerOn
  split
  · exact keepsInv_next h
  · exact keepsInv_next (rebooted_inv h)

theorem mbcmdWrite_keepsInv {s : State} {v : Nat} (h : s.Inv) : KeepsInv (mbcmdWrite s v) := by
  unfold mbcmdWrite
  split
  · exact keepsInv_end h
  · split
    · exact keepsInv_next h
    · exact keepsInv_next (setMgstat_inv (rebooted_inv h))
  · exact keepsInv_end h
  · exact keepsInv_next h

theorem execMailboxUpdate_keepsInv {s : State} {addr len : Nat} (h : s.Inv) : KeepsInv (execMailboxUpdate addr len s) :=
  mbcmdWrite_keepsInv h

theorem execHostRegisterWrite_keepsInv {s : State} {off : Nat} {v : DWord} (h : s.Inv) : KeepsInv (execHostRegisterWrite off v s) := by
  unfold execHostRegisterWrite
  split
  · exact mbcmdWrite_keepsInv h
  · exact bootEvent_keepsInv h

/-! Instructions and events. -/

/-- An instruction goes through `issue`, an event through `event` or, where recovery admits it too, `bootEvent`; the mailbox and the power
supply have ends of their own. -/
theorem exec_keepsInv {s : State} {i : Instr} (h : s.Inv) : KeepsInv (exec i s) := by
  unfold exec
  cases i with
  | powerOn => exact execPowerOn_keepsInv h
  | hostRegisterWrite => exact execHostRegisterWrite_keepsInv h
  | mailboxUpdate => exact execMailboxUpdate_keepsInv h
  | mailboxReset | mailboxAbort => exact mbcmdWrite_keepsInv h
  | mailboxUpdateEnd | dieOvertempCutoff | powerLoss => exact bootEvent_keepsInv h
  | loadCompletion | accessRetirement | trapEntry | barrierTimeout | arrwaitTimeout | bartTimeout | groupWaitTimeout | hqWaitTimeout
  | accallocTimeout | aeStreamElement | quarterOpStart | tileTransferStart | engineOpCompletion | engineFault | attnCompletion
  | matrixBudgetPeriod | copyOpStart | copyCompletion | copyFault | sideLogRetryPass | teamPlacement | teamSlotRelease | waitingOpPerform
  | commitDrainEntry | millinerRequest | prunePageReturn | cancelDelivery | enqueueDoorbell | recordStart | gridCompletion
  | graphNodeActivation | graphNodeCompletion | ctxctlSave | contextWrite | ctxctlRestore | restoreCoreRelease | ctxctlKill | partctlApply
  | partctlClear | poolctlCreate | poolctlDestroy | poolctlReserve | prespWrite | hinvWrite | fabricMessageReceive | xfredResend
  | fabricCmplReceive | fabricCmplTimeout | flitCrcFailure | fxcfgTrain | snpInv | snpData | snpCur | go | goWritepull | writepull
  | cxlMemRequest | bisnpResponse | attestationRequest | uncorrectableError | watchdogExpiry | activityBudgetPeriod | thermalThreshold
  | dirtyL1LineWriteback | scrub | fabricPortUp | prqtailWrite | budgetLowering => exact event_keepsInv h
  | _ => exact issue_keepsInv h

/-! One issue of a group (R48 to R54, R78, R79). -/

theorem fetchTrap_keepsInv {s : State} {r : GroupRef} {pc : DWord} {slot2 : Bool} {c : Cause} (h : s.Inv) :
    KeepsInv (fetchTrap s r pc slot2 c) := by
  unfold fetchTrap
  split
  · exact keepsInv_end h
  · exact keepsInv_next h

theorem issueOne_keepsInv {s : State} {r : GroupRef} {pc : DWord} {i : Instr} (h : s.Inv) : KeepsInv (issueOne s r pc i) :=
  keepsInv_mapNext (exec_keepsInv h) fun _ ht => ite_inv ht ht

theorem issuePair_keepsInv {s : State} {r : GroupRef} {pc : DWord} {i j : Instr} (h : s.Inv) : KeepsInv (issuePair s r pc i j) := by
  unfold issuePair
  dsimp only
  split
  · exact fetchTrap_keepsInv h
  · exact fetchTrap_keepsInv h
  · split
    · exact fetchTrap_keepsInv h
    · split
      · exact fetchTrap_keepsInv h
      · split
        · exact keepsInv_next h
        · split
          · exact fetchTrap_keepsInv h
          · exact fetchTrap_keepsInv h
        · split
          next a ha =>
            have first : a.Inv := exec_keepsInv (s := atSlot s r pc false) h a ha
            split
            · exact keepsInv_next first
            · split
              · exact fetchTrap_keepsInv h
              · exact keepsInv_next h
              · exact keepsInv_mapNext (exec_keepsInv first) fun _ ht => ite_inv ht h
          next => exact exec_keepsInv h

theorem issueGroup_keepsInv {s : State} {r : GroupRef} (h : s.Inv) : KeepsInv (issueGroup s r) := by
  unfold issueGroup
  split
  · split
    · exact keepsInv_next h
    · dsimp only
      generalize refillLines s _ _ _ = g
      have buffered : (updGroup s r fun _ => g).Inv := h
      split
      · exact fetchTrap_keepsInv buffered
      · split
        · exact fetchTrap_keepsInv buffered
        · split
          · split
            · split
              · exact fetchTrap_keepsInv buffered
              · exact fetchTrap_keepsInv buffered
            · exact issuePair_keepsInv buffered
          · exact issueOne_keepsInv buffered
  · exact keepsInv_next h

/-! One clk of a core (R197 to R200). -/

/-- By induction over the candidates: a stall before the nominee leaves what its issue, tried, answers (R73, R197). -/
theorem nominate_inv (l : List GroupRef) : ∀ {s : State}, s.Inv → (nominate s l).1.Inv := by
  induction l with
  | nil => exact fun h => h
  | cons r l ih =>
    intro s h
    unfold nominate
    split
    · exact ih h
    · split
      next s' tried =>
        split
        · exact ite_inv h h
        · exact ih (issueGroup_keepsInv h s' tried)
      next => exact h

theorem issueCore_keepsInv {s : State} {core : Nat} (h : s.Inv) : KeepsInv (issueCore s core) := by
  unfold issueCore
  dsimp only
  have nominated := List.foldlRecOn (motive := fun p : State × Option GroupRef => p.1.Inv) (coreNominees s core)
    (fun p l => ((nominate p.1 l).1, fewerIssues (nominate p.1 l).1 p.2 (nominate p.1 l).2)) (b := (s, none)) h
    fun _ hp l _ => nominate_inv l hp
  split
  · exact issueGroup_keepsInv nominated
  · exact keepsInv_next nominated

/-! Time (R244, R320), and one step. -/

theorem countStalls_inv {s : State} {n : Nat} (h : s.Inv) : (countStalls s n).Inv := ite_inv h h

theorem countWaits_inv {s : State} {n : Nat} (h : s.Inv) : (countWaits s n).Inv :=
  List.foldlRecOn (motive := State.Inv) _ _ h fun _ h _ _ => h

theorem autoStep_keepsInv {s : State} (h : s.Inv) : KeepsInv (autoStep s) := by
  have turn (core : Nat) : KeepsInv (issueCore { s with turn := s.turn + 1 } core) := issueCore_keepsInv h
  unfold autoStep
  dsimp only
  split
  · exact keepsInv_end h
  · split
    · exact turn _
    · split
      · exact exec_keepsInv h
      · split
        · exact keepsInv_next h
        · exact turn _

theorem chooseStep_keepsInv {s : State} {c : Choice} (h : s.Inv) : KeepsInv (chooseStep s c) := by
  cases c with
  | issue => exact issueCore_keepsInv h
  | event => exact exec_keepsInv h
  | wait n => exact keepsInv_next (countWaits_inv (countStalls_inv h))
  | arrive | guestAck | hostRead => exact keepsInv_next h
  | evict | hostStore => exact keepsInv_end h
  | msixWrite => exact keepsInv_next (msixWrite_inv h)
  | guestFill line =>
    dsimp only [chooseStep]
    split
    · exact keepsInv_next h
    · exact keepsInv_next h

theorem step_keepsInv {s : State} (h : s.Inv) : KeepsInv (step s) := by
  unfold step stepBody
  split
  · split
    · exact exec_keepsInv h
    · rintro _ ⟨⟩
  · have counted : (countDrains (countStalls { s with clk := s.clk + 1 } 1)).Inv :=
      countWaits_inv (countStalls_inv h)
    dsimp only
    split
    · exact chooseStep_keepsInv counted
    · exact autoStep_keepsInv counted

/-- Settles O28: an event, an issue of a core, and the choices of the agenda each keep the invariant. -/
theorem stepKeepsInvariant : Obligations.StepKeepsInvariant :=
  fun _ t h => step_keepsInv h t

end Sys2Proof.Machine
end

section
/-! SUPPORT. The housekeeping events (R289, R413 to R418): MGSTAT and its vector, machine checks, and what a budget period and the work that
waited for it do to the budgets. -/

namespace Sys2Proof.Machine

/-! MGSTAT (R398). -/

@[simp] theorem raiseMsix_mgstat (s : State) (v : Nat) : (raiseMsix s v).host.mgstat = s.host.mgstat := by
  rw [raiseMsix_host]; split <;> rfl

@[simp] theorem setMgstat_boot (s : State) (k : Nat) : (setMgstat s k).boot = s.boot := by
  unfold setMgstat
  split
  · rfl
  · exact raiseMsix_boot _ _

/-- A bit of MGSTAT is set once it is raised. -/
theorem setMgstat_bit (s : State) {k : Nat} (hk : k < 5) : (setMgstat s k).host.mgstat.getLsbD k = true := by
  unfold setMgstat
  split
  · assumption
  · rw [raiseMsix_mgstat, BitVec.getLsbD_or, BitVec.getLsbD_ofNat, Nat.testBit_two_pow_self, decide_eq_true hk]
    simp

/-! Machine checks (R99, R414). -/

/-- A machine check halts its partition, which then waits to be killed. -/
theorem partOf_mcheck_same {s : State} {p : Nat} (h : (s.parts.any fun x => x.num == p) = true) :
    partOf (mcheck s p) p = { partOf s p with life := .halted, killing := true } := by
  rw [← partOf_updPart_same (f := fun x => { x with life := .halted, killing := true }) h]
  simp only [partOf, mcheck, raiseMsix_parts]

/-! Budgets (R415). -/

/-- Of the budgets only the host DMA's may differ, and of it only what is used. -/
def OnlyChargesDma (s t : State) : Prop :=
  ∀ k, (budgetAt t k).units = (budgetAt s k).units ∧ (k ≠ 0 → (budgetAt t k).used = (budgetAt s k).used)

theorem OnlyChargesDma.of_budgets {s t : State} (h : t.budgets = s.budgets) : OnlyChargesDma s t := fun k => by simp [budgetAt, h]

theorem OnlyChargesDma.trans {s t u : State} (h : OnlyChargesDma s t) (h' : OnlyChargesDma t u) : OnlyChargesDma s u := fun k =>
  ⟨(h' k).1.trans (h k).1, fun hk => ((h' k).2 hk).trans ((h k).2 hk)⟩

theorem onlyChargesDma_charge (s : State) (n : Nat) : OnlyChargesDma s (charge s 0 n) := fun k => by
  cases h : s.budgets[k]? with
  | none => simp [budgetAt, charge, List.getD_eq_getElem?_getD, h]
  | some b =>
    simp only [budgetAt, charge, List.getD_eq_getElem?_getD, List.getElem?_map, List.getElem?_zipIdx, h, Option.map_some, Option.getD_some]
    by_cases hk : k = 0 <;> simp [hk]

theorem onlyChargesDma_mboxRead (s : State) : OnlyChargesDma s (mboxRead s) := onlyChargesDma_charge s _

/-- Bytes that reach their home change no budget. -/
theorem hostPut_budgets (s : State) (line : Nat) (l : List (Nat × Byte)) : (hostPut s line l).budgets = s.budgets := by
  obtain ⟨_, _, _, _, e⟩ := foldl_wrHome_eq (fun (s : State) (x : Nat × Byte) => putHome s none (64 * line + x.1) x.2)
    (fun s _ => putHome_eq s _ _ _) l s
  rw [hostPut, e]

theorem onlyChargesDma_cxlMem (s : State) (req : CxlReq) : OnlyChargesDma s (cxlMem s req) := by
  have charged : OnlyChargesDma s (charge s 0 64) := onlyChargesDma_charge s 64
  cases req <;> dsimp only [cxlMem] <;> split
  case read.isTrue => exact charged
  case write.isTrue => exact charged.trans (.of_budgets (hostPut_budgets _ _ _))
  all_goals exact .of_budgets rfl

theorem onlyChargesDma_cxlWaiting (n : Nat) : ∀ s : State, OnlyChargesDma s (cxlWaiting n s) := by
  induction n with
  | zero => exact fun _ => .of_budgets rfl
  | succ n ih =>
    intro s
    unfold cxlWaiting
    split
    · exact .of_budgets rfl
    · split
      · rename_i q rest _ _
        exact (onlyChargesDma_cxlMem { s with host := { s.host with waiting := rest } } q).trans (ih _)
      · exact .of_budgets rfl

/-- Every budget at the beginning of a period. -/
def periodBegun (s : State) : State :=
  { s with budgets := (s.budgets.zipIdx).map fun x =>
      { x.1 with used := 0, periodAt := s.clk / 24000 * 24000
                 waits := if activityWaits s x.2 then min (x.1.waits + 1) 0xffffffff else x.1.waits } }

theorem budgetAt_periodBegun {s : State} {k : Nat} (h : k < s.budgets.length) :
    (budgetAt (periodBegun s) k).units = (budgetAt s k).units ∧ (budgetAt (periodBegun s) k).used = 0 := by
  simp [budgetAt, periodBegun, List.getD_eq_getElem?_getD, h]

/-- At the beginning of a period the mailbox reads on, and then the host's requests are answered. -/
def periodWork (s : State) : State :=
  let s := if mbLeft s = 0 then s else mboxRead s
  cxlWaiting s.host.waiting.length s

theorem onlyChargesDma_periodWork (s : State) : OnlyChargesDma s (periodWork s) := by
  refine .trans ?_ (onlyChargesDma_cxlWaiting _ _)
  split
  · exact .of_budgets rfl
  · exact onlyChargesDma_mboxRead s

theorem periodWork_idle {s : State} (waiting : s.host.waiting = []) (read : mbLeft s = 0) : periodWork s = s := by
  rw [periodWork, if_pos read, waiting]; rfl

theorem happens_activityBudgetPeriod {s : State} (hr : s.boot.recovery = false) (ended : (budgetAt s 0).periodAt + 24000 ≤ s.clk) :
    Happens .activityBudgetPeriod s (periodWork (periodBegun s)) :=
  happens_of_event (rfl : _ = execActivityBudgetPeriod s) hr (decide_eq_true ended) rfl

/-! The events. -/

/-- A die that crosses its threshold joins the hot ones, or leaves them. -/
theorem contains_toggled (l : List Nat) (d : Nat) :
    (if l.contains d then l.filter fun x => x != d else d :: l).contains d = !(l.contains d) := by
  cases h : l.contains d <;> simp

/-- Settles O60: each event's condition holds, and its effect is the one named; the budgets are read off after the work that waited. -/
theorem housekeepingEventsHappen : Obligations.HousekeepingEventsHappen := by
  refine fun s hr => ⟨fun nonce hn => ?report, fun p hp => ⟨?part, fun runs => ?watchdog⟩, ?package, fun p known => ?halted,
    fun ended => ?period, fun die hd => ?thermal, fun mw => ?power, fun core k x hx => ?writeback, fun addr place room below => ?scrub⟩
  case report => exact happens_of_event (rfl : _ = execAttestationRequest nonce s) hr (decide_eq_true hn) rfl
  case part => exact happens_of_event (rfl : _ = execUncorrectableError (.part p) s) hr (decide_eq_true hp) rfl
  case watchdog =>
    refine happens_of_event (rfl : _ = execWatchdogExpiry p s) hr ?_ rfl
    rw [decide_eq_true hp, Bool.true_and, Bool.or_eq_true, Bool.not_eq_true']
    exact runs
  case package => exact happens_of_event (rfl : _ = execUncorrectableError .package s) hr rfl rfl
  case halted => rw [partOf_mcheck_same known]; exact ⟨rfl, rfl⟩
  case period =>
    refine ⟨_, happens_activityBudgetPeriod hr ended, fun k hk => ?_⟩
    obtain ⟨units, used⟩ := budgetAt_periodBegun hk
    obtain ⟨units', used'⟩ := onlyChargesDma_periodWork (periodBegun s) k
    refine ⟨units'.trans units, fun quiet => ?_⟩
    rcases quiet with other | ⟨waiting, read⟩
    · exact (used' other).trans used
    · rwa [periodWork_idle (s := periodBegun s) waiting read]
  case thermal =>
    refine ⟨_, happens_of_event (rfl : _ = execThermalThreshold die s) hr (decide_eq_true hd) rfl, setMgstat_bit _ (by decide), ?_⟩
    rw [setMgstat_boot]
    exact contains_toggled _ _
  case power =>
    refine ⟨_, happens_of_event (rfl : _ = execBudgetLowering mw s) hr rfl rfl, setMgstat_bit _ (by decide), ?_⟩
    rw [setMgstat_boot]
  case writeback =>
    obtain ⟨hk, -⟩ := List.getElem?_eq_some_iff.mp hx
    refine happens_of_event (rfl : _ = execDirtyL1LineWriteback core k s) hr (decide_eq_true hk) ?_
    simp only [hx]
  case scrub =>
    have open' : (region addr != none && region addr != some 2 && budgetOpen s 4) = true := by
      rw [room]
      rcases place with h | h <;> rw [h] <;> rfl
    exact ⟨_, happens_of_event (rfl : _ = execScrub addr s) hr open' (if_pos below), rfl⟩

end Sys2Proof.Machine
end

section
/-! SUPPORT. The Milliner's requests (R345, R346): what a request's record captures of its operands, and its issue, which is the same for
every instruction of the Milliner. -/

namespace Sys2Proof.Machine

/-- The low bits of the second operand as a word. -/
theorem ofNat_bv_eq_b32 (c : Ctx) (l : Nat) : BitVec.ofNat 32 (c.bv l % 2 ^ 32) = c.b32 l := by
  rw [Ctx.bv, ← BitVec.toNat_setWidth, BitVec.ofNat_toNat, BitVec.setWidth_eq]; rfl

/-- The stage in which a request enters the queue: 2 where it waits for its team's turn (R317). -/
def requestStage (c : Ctx) : Nat :=
  if isMutating c.i.opc && lrDet c.gr.lr && ticketBuffers c.gr c.t && !c.t.tk.abortMark then 2 else 0

/-- The record of a request: operand A is its address, operand B its data. -/
def requestEntry (c : Ctx) (f : RRR) : Access :=
  { accessOf c c.act f.dst f.mod.toNat (fun l => c.av l % 2 ^ 32) (fun l => c.bv l % 2 ^ 32) with stage := requestStage c }

/-- A request captures operand A of each active lane. -/
theorem requestEntry_addr {c : Ctx} {l : Nat} (hl : c.act.getLsbD l = true) (f : RRR) :
    (Lanes.at (requestEntry c f).addr l 0).setWidth 32 = c.a32 l := by
  have captured := accessOf_addr c f.dst f.mod.toNat (fun l => c.av l % 2 ^ 32) (fun l => c.bv l % 2 ^ 32) hl
  rw [requestEntry, captured, BitVec.setWidth_ofNat_of_le (by decide), ofNat_av_eq_a32]

/-- A request captures operand B of each active lane. -/
theorem requestEntry_data {c : Ctx} {l : Nat} (hl : c.act.getLsbD l = true) (f : RRR) :
    (Lanes.at (requestEntry c f).data l 0).setWidth 32 = c.b32 l := by
  have captured := accessOf_data c f.dst f.mod.toNat (fun l => c.av l % 2 ^ 32) (fun l => c.bv l % 2 ^ 32) hl
  rw [requestEntry, captured, BitVec.setWidth_ofNat_of_le (by decide), ofNat_bv_eq_b32]

/-- A request without an active lane has no effect (R346). -/
theorem requestAct_of_noLanes {c : Ctx} (ha : c.act = 0) (f : RRR) : requestAct c f = .go {} := by
  rw [requestAct, if_pos ha]

/-- A request enters the queue with room. -/
theorem requestAct_of_room {c : Ctx} (ha : c.act ≠ 0) (room : queueFull c.g = false) (f : RRR) : requestAct c f =
    .go { vec := some fun _ => 0, lazy := true, post := pushAccess c.r (requestEntry c f) } := by
  rw [requestAct, if_neg ha, room]; rfl

/-- An instruction whose own part is a request sends it. -/
theorem sendsRequest_of_issue {i : Instr} {s : State} {c : Ctx} {f : RRR} (he : exec i s = issue i s fun c => requestAct c f)
    (h : Issues i s c) : SendsRequest i s c f := by
  obtain ⟨-, rfl⟩ := state_eq_of_issues h
  refine ⟨fun ha => retires_of_issue h he (requestAct_of_noLanes ha f), fun ha room => ?_⟩
  exact ⟨requestEntry c f, rfl, rfl, rfl, rfl, rfl,
    fun l hl => ⟨requestEntry_addr hl f, requestEntry_data hl f⟩, retires_of_issue h he (requestAct_of_room ha room f)⟩

/-- Settles O49: the own part of each instruction is a request. -/
theorem millinerRequestsIssue : Obligations.MillinerRequestsIssue := fun s _ f =>
  ⟨sendsRequest_of_issue (rfl : _ = execTtfork f s), sendsRequest_of_issue (rfl : _ = execTtappend f s),
   sendsRequest_of_issue (rfl : _ = execTtprune f s), sendsRequest_of_issue (rfl : _ = execTtcommit f s),
   sendsRequest_of_issue (rfl : _ = execTtwalk f s), sendsRequest_of_issue (rfl : _ = execTtrefAttach f s),
   sendsRequest_of_issue (rfl : _ = execTtrefDetach f s), sendsRequest_of_issue (rfl : _ = execTtrefPin f s),
   sendsRequest_of_issue (rfl : _ = execTtrefUnpin f s), sendsRequest_of_issue (rfl : _ = execTtrefEvict f s),
   sendsRequest_of_issue (rfl : _ = execTtqueryFree f s), sendsRequest_of_issue (rfl : _ = execTtqueryReserve f s),
   sendsRequest_of_issue (rfl : _ = execTtqueryState f s), sendsRequest_of_issue (rfl : _ = execDetok f s),
   sendsRequest_of_issue (rfl : _ = execTokstep f s)⟩

end Sys2Proof.Machine
end

section
/-! SUPPORT. Every step answers (log entry 76): the instructions and events, an issue of a group and of a core, and the package with power and
without (R411, R418). -/

namespace Sys2Proof.Machine

/-! What an instruction or event answers (log entry 76). -/

/-- The outcome is a next state. -/
def Answers (o : Out) : Prop := ∃ t, o = .next t

theorem answers_mapNext {o : Out} {f : State → State} (h : Answers o) : Answers (Out.mapNext o f) := by
  obtain ⟨t, rfl⟩ := h
  exact ⟨f t, rfl⟩

theorem execPowerOn_answers {s : State} : Answers (execPowerOn s) := by
  unfold execPowerOn
  split
  · exact ⟨_, rfl⟩
  · exact ⟨_, rfl⟩

theorem mbcmdWrite_answers {s : State} {v : Nat} : Answers (mbcmdWrite s v) := by
  unfold mbcmdWrite
  split
  · exact ⟨_, rfl⟩
  · split
    · exact ⟨_, rfl⟩
    · exact ⟨_, rfl⟩
  · exact ⟨_, rfl⟩
  · exact ⟨_, rfl⟩

theorem execHostRegisterWrite_answers {off : Nat} {v : DWord} {s : State} : Answers (execHostRegisterWrite off v s) := by
  unfold execHostRegisterWrite
  split
  · exact mbcmdWrite_answers
  · exact bootEvent_next _ _ _

/-- Every instruction and every event answers a next state: an instruction goes through `issue`, an event through `event` or, where
recovery admits it too, `bootEvent`; the mailbox and the power supply have ends of their own. -/
theorem exec_answers (i : Instr) (s : State) : Answers (exec i s) := by
  unfold exec
  cases i with
  | powerOn => exact execPowerOn_answers
  | hostRegisterWrite => exact execHostRegisterWrite_answers
  | mailboxUpdate | mailboxReset | mailboxAbort => exact mbcmdWrite_answers
  | mailboxUpdateEnd | dieOvertempCutoff | powerLoss => exact bootEvent_next _ _ _
  | loadCompletion | accessRetirement | trapEntry | barrierTimeout | arrwaitTimeout | bartTimeout | groupWaitTimeout | hqWaitTimeout
  | accallocTimeout | aeStreamElement | quarterOpStart | tileTransferStart | engineOpCompletion | engineFault | attnCompletion
  | matrixBudgetPeriod | copyOpStart | copyCompletion | copyFault | sideLogRetryPass | teamPlacement | teamSlotRelease | waitingOpPerform
  | commitDrainEntry | millinerRequest | prunePageReturn | cancelDelivery | enqueueDoorbell | recordStart | gridCompletion
  | graphNodeActivation | graphNodeCompletion | ctxctlSave | contextWrite | ctxctlRestore | restoreCoreRelease | ctxctlKill | partctlApply
  | partctlClear | poolctlCreate | poolctlDestroy | poolctlReserve | prespWrite | hinvWrite | fabricMessageReceive | xfredResend
  | fabricCmplReceive | fabricCmplTimeout | flitCrcFailure | fxcfgTrain | snpInv | snpData | snpCur | go | goWritepull | writepull
  | cxlMemRequest | bisnpResponse | attestationRequest | uncorrectableError | watchdogExpiry | activityBudgetPeriod | thermalThreshold
  | dirtyL1LineWriteback | scrub | fabricPortUp | prqtailWrite | budgetLowering => exact event_next _ _ _
  | _ => exact issue_next _ _ _

/-! What a group's issue and a core's clk answer (R48 to R79, R197 to R200). -/

theorem fetchTrap_answers {s : State} {r : GroupRef} {pc : DWord} {slot2 : Bool} {c : Cause} : Answers (fetchTrap s r pc slot2 c) := by
  unfold fetchTrap
  split
  · exact ⟨_, rfl⟩
  · exact ⟨_, rfl⟩

theorem issueOne_answers {s : State} {r : GroupRef} {pc : DWord} {i : Instr} : Answers (issueOne s r pc i) :=
  answers_mapNext (exec_answers i _)

theorem issuePair_answers {s : State} {r : GroupRef} {pc : DWord} {i j : Instr} : Answers (issuePair s r pc i j) := by
  unfold issuePair
  dsimp only
  split
  · exact fetchTrap_answers
  · exact fetchTrap_answers
  · split
    · exact fetchTrap_answers
    · split
      · exact fetchTrap_answers
      · split
        · exact ⟨_, rfl⟩
        · split
          · exact fetchTrap_answers
          · exact fetchTrap_answers
        · split
          next =>
            split
            · exact ⟨_, rfl⟩
            · split
              · exact fetchTrap_answers
              · exact ⟨_, rfl⟩
              · exact answers_mapNext (exec_answers j _)
          next => exact exec_answers i _

theorem issueGroup_answers {s : State} {r : GroupRef} : Answers (issueGroup s r) := by
  unfold issueGroup
  split
  · split
    · exact ⟨_, rfl⟩
    · dsimp only
      split
      · exact fetchTrap_answers
      · split
        · exact fetchTrap_answers
        · split
          · split
            · split
              · exact fetchTrap_answers
              · exact fetchTrap_answers
            · exact issuePair_answers
          · exact issueOne_answers
  · exact ⟨_, rfl⟩

theorem issueCore_answers {s : State} {core : Nat} : Answers (issueCore s core) := by
  unfold issueCore
  dsimp only
  split
  · exact issueGroup_answers
  · exact ⟨_, rfl⟩

/-! One step, with power and without (R411, R418). -/

theorem autoStep_answers {s : State} : Answers (autoStep s) := by
  unfold autoStep
  dsimp only
  split
  · exact ⟨_, rfl⟩
  · split
    · exact issueCore_answers
    · split
      · exact exec_answers _ s
      · split
        · exact ⟨_, rfl⟩
        · exact issueCore_answers

theorem chooseStep_answers {s : State} {c : Choice} : Answers (chooseStep s c) := by
  cases c with
  | issue => exact issueCore_answers
  | event => exact exec_answers _ s
  | wait | arrive | evict | hostStore | msixWrite | hostRead | guestAck => exact ⟨_, rfl⟩
  | guestFill =>
    dsimp only [chooseStep]
    split
    · exact ⟨_, rfl⟩
    · exact ⟨_, rfl⟩

/-- A powered package steps. -/
theorem step_answers {s : State} (on : s.boot.powered = true) : Answers (step s) := by
  unfold step stepBody
  rw [if_neg (by rw [on]; decide)]
  dsimp only
  split
  · exact chooseStep_answers
  · exact autoStep_answers

/-- Without power POWER_ON starts the package. -/
theorem step_powerOn {s : State} {rest : List Choice} (off : s.boot.powered = false) (h : s.agenda = .event .powerOn :: rest) :
    step s = .next (rebooted { s with agenda := rest, clk := s.clk + 1 }) := by
  unfold step stepBody
  rw [if_pos (by rw [off]; rfl), h]
  dsimp only
  exact if_neg (by rw [off]; decide)

/-- Without power nothing else happens. -/
theorem step_of_noPower {s : State} (off : s.boot.powered = false) (h : ∀ rest, s.agenda ≠ .event .powerOn :: rest) :
    step s = .fault .powerOff := by
  unfold step stepBody
  rw [if_pos (by rw [off]; rfl)]
  split
  · exact absurd ‹_› (h _)
  · rfl

/-- With power a step goes on, and without it POWER_ON does or the step is the fault: none refuses. -/
theorem step_not_refused (s : State) (e : Refusal) : step s ≠ .refused e := by
  intro h
  cases on : s.boot.powered with
  | true =>
    obtain ⟨t, ht⟩ := step_answers on
    rw [h] at ht
    cases ht
  | false =>
    by_cases power : ∃ rest, s.agenda = .event .powerOn :: rest
    · obtain ⟨rest, hr⟩ := power
      rw [step_powerOn on hr] at h
      cases h
    · rw [step_of_noPower on (not_exists.mp power)] at h
      cases h

/-- Settles O27: a step by its power and the head of its agenda, an answer of `exec` by its instruction. -/
theorem stopsOnlyWithoutPower : Obligations.StopsOnlyWithoutPower :=
  ⟨⟨fun _ => step_answers, fun _ _ off h => ⟨_, step_powerOn off h, rfl⟩, fun _ => step_of_noPower, step_not_refused⟩, exec_answers⟩

/-- Settles O29: no byte is listed, and none is pending. -/
theorem resetHasInvariant : Obligations.ResetHasInvariant := ⟨Memory.wf_nil, rfl⟩

end Sys2Proof.Machine
end

section
/-! SUPPORT. The fabric's instructions and events (R399 to R408), and what the Milliner's events do to pools (R336 to R359). -/

namespace Sys2Proof.Machine

/-! Descriptors in a queue's record (R402). -/

/-- Bytes as a number stay below the power of 256 that their count names. -/
theorem ofBytes_lt (b : List Byte) : ofBytes b < 256 ^ b.length := by
  induction b with
  | nil => decide
  | cons x xs ih =>
    have low : x.toNat < 256 := x.isLt
    rw [ofBytes, List.length_cons, Nat.pow_succ]
    omega

/-- A field of a descriptor has at most the bytes that it names. -/
theorem dNat_lt (d : List Byte) (off n : Nat) : dNat d off n < 256 ^ n :=
  Nat.lt_of_lt_of_le (ofBytes_lt _) (Nat.pow_le_pow_right (by decide) (List.length_take_le _ _))

/-- The record of a fabric instruction: its descriptor stands in the data of the lowest four lanes. -/
def messageEntry (c : Ctx) (f : MF) (d : List Byte) : Access :=
  { accessOf c c.act f.dst 0 (fun _ => addrOf c f 32 c.low) (fun _ => 0) with
    stage := if lrDet c.gr.lr && ticketBuffers c.gr c.t && !c.t.tk.abortMark then 2 else 0
    data := Lanes.mk fun l => if l < 4 then BitVec.ofNat 128 (dNat d (16 * l) 16) else 0 }

/-- Each of these lanes holds its 16 bytes of the descriptor. -/
theorem messageEntry_data (c : Ctx) (f : MF) (d : List Byte) {k : Nat} (hk : k < 4) :
    (Lanes.at (messageEntry c f d).data k 0).toNat = dNat d (16 * k) 16 := by
  rw [messageEntry, lanesAt_mk _ (by omega), if_pos hk, BitVec.toNat_ofNat]
  exact Nat.mod_eq_of_lt (dNat_lt _ _ _)

/-- A fabric instruction whose descriptor is read and passes its checks enters the queue where there is room. -/
theorem fabAct_of_checked {c : Ctx} {f : MF} {d : List Byte} {load : State → State} (ha : c.act ≠ 0)
    (hd : lineLoad c true 6 ((laneAddr c f c.low).toNat % 2 ^ 32) 0 = .got d load)
    (ok : lowestCode (xdCodes c (fabClass c.i.opc) d) = none) (room : queueFull c.g = false) :
    fabAct c f = .go { vec := if c.i.opc = 0xfb then some fun _ => 0 else none, lazy := true
                       post := fun s => pushAccess c.r (messageEntry c f d) (load s) } := by
  rw [← addrOf_window] at hd
  simp only [fabAct, if_neg ha]
  refine (withLine_of_got hd _).trans ?_
  simp only [ok, room]
  rfl

/-- An instruction whose own part is a message sends it. -/
theorem sendsMessage_of_issue {i : Instr} {s : State} {c : Ctx} {f : MF} (he : exec i s = issue i s fun c => fabAct c f)
    (h : Issues i s c) : SendsMessage i s c f := by
  obtain ⟨-, rfl⟩ := state_eq_of_issues h
  refine ⟨fun ha => retires_of_issue h he ?idle, fun d load ha hd ok room => ⟨messageEntry c f d, rfl, rfl, rfl,
    fun k => messageEntry_data c f d, retires_of_issue h he (fabAct_of_checked ha hd ok room)⟩⟩
  case idle => simp only [fabAct, if_pos ha]

/-- XFFENCE goes on where no operation of an active thread is outstanding (R404). -/
theorem acts_xffence {s : State} {c : Ctx} {g : RI} (h : Issues (.xffence g) s c)
    (queued : ∀ a ∈ c.g.queue, isFabric a.opc = true → a.all &&& c.act = 0)
    (sent : ∀ o ∈ c.s.fabric.ops, o.grp = c.r → o.acc.all &&& c.act = 0) :
    Acts (.xffence g) s c fun s => acquireAt s c.t.core shPackage := by
  refine acts_of_issue h (rfl : _ = execXffence g s) (if_neg ?_)
  simp only [Bool.or_eq_true, List.any_eq_true, Bool.and_eq_true, beq_iff_eq, bne_iff_ne, not_or, not_exists, not_and, not_not]
  exact ⟨queued, sent⟩

/-! The fabric's instructions and events. -/

/-- Settles O50: the own part of each instruction but XFFENCE is a message. -/
theorem fabricInstructionsIssue : Obligations.FabricInstructionsIssue := fun s _ f =>
  ⟨sendsMessage_of_issue (rfl : _ = execXfput f s), sendsMessage_of_issue (rfl : _ = execXfget f s),
   sendsMessage_of_issue (rfl : _ = execXfwork f s), sendsMessage_of_issue (rfl : _ = execXfred f s),
   sendsMessage_of_issue (rfl : _ = execXfsred f s), fun _ => acts_xffence⟩

/-- Settles O57: each event's condition holds, and its effect is the one named. -/
theorem fabricEventsHappen : Obligations.FabricEventsHappen := by
  refine fun s u port k n hr => ⟨fun room next => ?receive, fun x found => ?resend, fun tag status => ?completion,
    fun tag o found late => ?timeout, fun hp up => ?retry, fun hp => ?train, fun hp down => ?up⟩
  case receive =>
    refine happens_of_event (rfl : _ = execFabricMessageReceive port s) hr ?_ ?_
    · rw [canFabricMessageReceive, room, next]; rfl
    · simp only [next]
  case resend =>
    refine happens_of_event (rfl : _ = execXfredResend port k s) hr ?_ ?_
    · rw [canXfredResend, found]; rfl
    · simp only [found]
  case completion => exact happens_of_some (next? := (cmplRun · tag status)) (rfl : _ = execFabricCmplReceive tag status s) hr
  case timeout =>
    refine happens_of_event (rfl : _ = execFabricCmplTimeout tag s) hr ?_ ?_
    · have mine := List.find?_some found
      exact List.any_eq_true.mpr ⟨o, List.mem_of_find?_eq_some found, by rw [mine, decide_eq_true late]; rfl⟩
    · simp only [found]
  case retry =>
    refine happens_of_event (rfl : _ = execFlitCrcFailure port s) hr ?_ rfl
    rw [canFlitCrcFailure, decide_eq_true hp, up]; rfl
  case train => exact happens_of_event (rfl : _ = execFxcfgTrain port s) hr (decide_eq_true hp) rfl
  case up =>
    refine happens_of_event (rfl : _ = execFabricPortUp port s) hr ?_ rfl
    rw [canFabricPortUp, decide_eq_true hp, down]; rfl

/-! Pools (R336). -/

/-- CREATE adds a pool that is not there, whose descriptor is sound and whose metadata can be reached (R336, R337). -/
theorem poolCreate_of_sound {s : State} {part k : Nat} {b : List Byte} {p : Pool} (new : poolOf s part k = none)
    (read : virtRead s part (canon57 (bitsOf (partOf s part).poolbase.toNat 56 12 * 4096 + 128 * k)) 128 = .inl b)
    (sound : poolOfDesc b = some p) (reached : engFault s part p.metaBase (p.nnode * 1024 + p.npage * 8) 3 = none) :
    poolCreate s part k = poolErr (updPart s part fun x => { x with pools := x.pools ++ [(k, p)] }) part false := by
  simp only [poolCreate, new, read, sound, reached]
  rfl

/-- Settles O56: each event's condition holds, and its effect is the one named, a DESTROY by whether anything is left to end. -/
theorem millinerEventsHappen : Obligations.MillinerEventsHappen := by
  refine fun s u r k part pool p hr => ⟨fun a _ runs next => ?request, ?prune, fun b hp new read sound reached => ?create,
    fun hp found => ⟨fun quiet => ?destroy, fun busy => ?destroyLater⟩, fun v hp hv found fits => ?reserve⟩
  case request =>
    refine happens_of_event (rfl : _ = execMillinerRequest r k s) hr ?_ ?_
    · rw [canMillinerRequest, runs, next]; rfl
    · rw [next]; rfl
  case prune => exact happens_of_some (next? := (pruneReturn · part pool)) (rfl : _ = execPrunePageReturn part pool s) hr
  case create =>
    exact happens_of_event (rfl : _ = execPoolctlCreate part pool s) hr (decide_eq_true hp) (poolCreate_of_sound new read sound reached)
  case destroy =>
    refine happens_of_event (rfl : _ = execPoolctlDestroy part pool s) hr (decide_eq_true hp) ?_
    simp only [poolDestroy, found]
    exact if_pos quiet
  case destroyLater =>
    refine happens_of_event (rfl : _ = execPoolctlDestroy part pool s) hr (decide_eq_true hp) ?_
    simp only [poolDestroy, found]
    exact if_neg (by rw [Bool.not_eq_true]; exact busy)
  case reserve =>
    refine happens_of_event (rfl : _ = execPoolctlReserve part pool v s) hr ?_ ?_
    · rw [decide_eq_true hp, decide_eq_true hv]; rfl
    · simp only [poolReserve, found]
      exact if_neg (Nat.not_lt.mpr fits)

end Sys2Proof.Machine
end

section
/-! SUPPORT. Contexts and cluster maps (R367, R368, R388 to R391): what a command of CTXCTL or PARTCTL leaves where its checks pass, and
that the arrivals applied at the release of a core change no partition's unreleased cores. -/

namespace Sys2Proof.Machine

/-! What leaves the partitions as they are. -/

/-- A run of updates that each leave the partitions. -/
theorem foldl_parts {α : Type} {f : State → α → State} (hf : ∀ s x, (f s x).parts = s.parts) (l : List α) (s : State) :
    (l.foldl f s).parts = s.parts :=
  List.foldlRecOn (motive := fun u => u.parts = s.parts) l f rfl fun u hu x _ => (hf u x).trans hu

@[simp] theorem l1WriteBack_parts (s : State) (l : L1Line) : (l1WriteBack s l).parts = s.parts := by
  obtain ⟨_, _, _, _, _, e⟩ := l1WriteBack_eq s l
  rw [e]

@[simp] theorem l1Drop_parts (s : State) (p : L1Line → Bool) : (l1Drop s p).parts = s.parts := by
  obtain ⟨_, _, _, _, _, e⟩ := l1Drop_eq s p
  rw [e]

@[simp] theorem l1Clean_parts (s : State) (p : L1Line → Bool) : (l1Clean s p).parts = s.parts := by
  refine foldl_parts (fun s l => ?_) s.l1 s
  split
  · exact l1WriteBack_parts s l
  · rfl

@[simp] theorem acquireAt_parts (s : State) (core share : Nat) : (acquireAt s core share).parts = s.parts := by
  unfold acquireAt
  split
  · rfl
  · exact l1Drop_parts _ _

@[simp] theorem releaseAt_parts (s : State) (core share : Nat) : (releaseAt s core share).parts = s.parts := by
  have released : (if share = shTeam then s else l1Release s core).parts = s.parts := by
    split
    · rfl
    · exact l1Clean_parts _ _
  unfold releaseAt
  dsimp only
  split
  · exact released
  · exact released

@[simp] theorem retireTeam_parts (s : State) (grid lin : Nat) : (retireTeam s grid lin).parts = s.parts := by
  unfold retireTeam
  split
  · split
    · simp
    · rfl
  · rfl

@[simp] theorem tkwaitTeam_parts (s : State) (r : TeamRef) : (tkwaitTeam s r).parts = s.parts := by
  unfold tkwaitTeam
  split
  · refine foldl_parts (fun s x => ?_) _ _
    split
    · split
      · simp
      · rfl
    · rfl
  · rfl

@[simp] theorem settleTickets_parts (s : State) (grid : Nat) : (settleTickets s grid).parts = s.parts := by
  unfold settleTickets
  split
  · split
    · refine (foldl_parts (fun s t => ?_) _ _).trans (foldl_parts (fun s l => retireTeam_parts s grid l) _ _)
      split
      · exact tkwaitTeam_parts _ _
      · rfl
    · rfl
  · rfl

@[simp] theorem arwCheck_parts (s : State) (r : TeamRef) (b off : Nat) : (arwCheck s r b off).parts = s.parts := by
  refine foldl_parts (fun s t => ?_) _ _
  split
  · rfl
  · refine foldl_parts (fun s x => ?_) _ _
    split
    · split
      · simp
      · rfl
    · rfl

@[simp] theorem arwAddAt_parts (s : State) (gr : Grid) (lin va n : Nat) (canc : Bool) : (arwAddAt s gr lin va n canc).parts = s.parts := by
  unfold arwAddAt
  split
  · rfl
  · split
    · exact arwCheck_parts _ _ _ _
    · rfl

/-! The cores that a restore has not released (R390). -/

/-- An update of a partition that keeps its number, seen from any partition. -/
theorem partOf_updPart {s : State} {q : Nat} {f : Partition → Partition} (hf : ∀ x, (f x).num = x.num) (p : Nat) :
    partOf (updPart s q f) p = partOf s p ∨ partOf (updPart s q f) p = f (partOf s p) := by
  let g (x : Partition) : Partition := if x.num == q then f x else x
  have same : ((fun x : Partition => x.num == p) ∘ g) = fun x => x.num == p := by
    funext x
    simp only [Function.comp_apply, g, apply_ite Partition.num, hf, ite_self]
  have first : (updPart s q f).parts.find? (fun x => x.num == p) = (s.parts.find? fun x => x.num == p).map g := by
    rw [updPart, List.find?_map, same]
  rw [partOf, partOf, first]
  cases s.parts.find? fun x => x.num == p with
  | none => exact .inl rfl
  | some x =>
    simp only [Option.map_some, Option.getD_some, g]
    split
    · exact .inr rfl
    · exact .inl rfl

/-- No partition's unreleased cores differ. -/
def KeepsUnreleased (s t : State) : Prop := ∀ p, (partOf t p).unreleased = (partOf s p).unreleased

theorem KeepsUnreleased.of_parts {s t : State} (h : t.parts = s.parts) : KeepsUnreleased s t := fun p => by rw [partOf, partOf, h]

theorem KeepsUnreleased.trans {s t u : State} (h : KeepsUnreleased s t) (h' : KeepsUnreleased t u) : KeepsUnreleased s u :=
  fun p => (h' p).trans (h p)

/-- A machine check halts its partition and releases no core. -/
theorem keepsUnreleased_mcheck (s : State) (q : Nat) : KeepsUnreleased s (mcheck s q) := by
  refine .trans (t := updPart s q fun x => { x with life := .halted, killing := true }) (fun p => ?_)
    (.of_parts (raiseMsix_parts _ _))
  rcases partOf_updPart (s := s) (q := q) (f := fun x => { x with life := .halted, killing := true }) (fun _ => rfl) p with e | e <;> rw [e]

/-- A posted cause reaches its team, or a machine check. -/
theorem keepsUnreleased_postCause (s : State) (t : TeamRef) (grp : Nat) (c : Cause) : KeepsUnreleased s (postCause s t grp c) := by
  unfold postCause
  split
  · exact .of_parts rfl
  · dsimp only
    split
    · exact .of_parts rfl
    · split
      · exact .of_parts rfl
      · exact keepsUnreleased_mcheck _ _

/-- The end of a message reaches its team, whose cause may be posted (R403, R406). -/
theorem keepsUnreleased_fabEnd (s : State) (o : FabricOp) (status : Nat) (fl : Flags) : KeepsUnreleased s (fabEnd s o status fl) := by
  unfold fabEnd
  dsimp only
  split
  next t gr _ _ =>
    generalize delivered : (if o.cls = .work then (_ : State) else _) = u
    have hu : u.parts = s.parts := by
      rw [← delivered]
      split
      · rfl
      · rfl
    generalize reported : (if (o.cls != .work && status != 0) = true then (_ : State) else _) = v
    have hv : KeepsUnreleased s v := by
      rw [← reported]
      split
      · exact .trans (.of_parts hu) (keepsUnreleased_postCause _ _ _ _)
      · exact .of_parts hu
    refine hv.trans (.of_parts ((settleTickets_parts _ _).trans ?_))
    split
    · rfl
    · exact arwAddAt_parts _ _ _ _ _ _
  next =>
    split
    · exact .trans (.of_parts rfl) (keepsUnreleased_mcheck _ _)
    · exact .of_parts rfl

/-- So do the ends that were held for a team (R409). -/
theorem keepsUnreleased_fabSettle (s : State) (r : TeamRef) : KeepsUnreleased s (fabSettle s r) := by
  refine List.foldlRecOn (motive := KeepsUnreleased s) _ _ (fun _ => rfl) fun u hu o _ => hu.trans ?_
  split
  · exact keepsUnreleased_fabEnd _ _ _ _
  · exact fun _ => rfl

/-- A partition that restores is one of the package's. -/
theorem known_of_restoring {s : State} {p : Nat} (h : (partOf s p).life = .restoring) : (s.parts.any fun x => x.num == p) = true := by
  rw [List.any_eq_true, ← List.find?_isSome]
  cases first : s.parts.find? fun x => x.num == p with
  | none =>
    rw [partOf, first] at h
    cases h
  | some x => rfl

/-- A core that is released leaves the cores that its partition's restore holds back; arrivals applied then change none of them (R390, R409). -/
theorem happens_restoreCoreRelease {s : State} {p core : Nat} (hr : s.boot.recovery = false) (can : canRestoreCoreRelease s p core = true) :
    ∃ t, Happens (.restoreCoreRelease p core) s t ∧
      (partOf t p).unreleased = (partOf s p).unreleased.filter fun k => k != core := by
  refine ⟨_, happens_of_event (rfl : _ = execRestoreCoreRelease p core s) hr can rfl, ?_⟩
  have restoring : (partOf s p).life = .restoring := by
    simp only [canRestoreCoreRelease, Bool.and_eq_true, beq_iff_eq] at can
    obtain ⟨⟨⟨⟨h, -⟩, -⟩, -⟩, -⟩ := can
    exact h
  dsimp only
  generalize hrest : ((partOf s p).unreleased.filter fun k => k != core) = rest
  generalize hreleased : updPart s p (fun x => { x with unreleased := rest, life := if rest.isEmpty then .running else .restoring }) = u
  have released : (partOf u p).unreleased = rest := by
    rw [← hreleased, partOf_updPart_same (known_of_restoring restoring)]
  generalize hsettled : ((u.teams.filter fun t => t.part == p && t.core == core).foldl (fun s t => fabSettle s t.ref) u) = v
  have settled : KeepsUnreleased u v := by
    rw [← hsettled]
    exact List.foldlRecOn (motive := KeepsUnreleased u) _ _ (fun _ => rfl) fun w hw t _ => hw.trans (keepsUnreleased_fabSettle w t.ref)
  rw [← released, ← settled p]
  split
  · rfl
  · rfl

/-! CTXCTL (R388 to R390). -/

/-- A write of CTXCTL with an operation, while none is going on. -/
theorem ctxctlWrite_of_idle {s : State} {p op : Nat} (hp : p < 16) (h0 : 0 < op) (h4 : op < 4) (idle : s.pkg.ctxBusy = false) :
    ctxctlWrite s (p + 16 * op) =
      if op = 1 then ctxSave (withCtxPart s p) p else if op = 2 then ctxRestore (withCtxPart s p) p else ctxKill (withCtxPart s p) p := by
  have code : bitsOf (p + 16 * op) 5 4 = op := by rw [bitsOf_eq]; omega
  have part : (p + 16 * op) % 16 = p := by omega
  simp only [ctxctlWrite, code, part]
  rw [if_neg (Nat.ne_of_gt h0), if_neg (by rw [idle]; decide)]
  rfl

/-- SAVE halts a partition whose area can be written (R389). -/
theorem ctxSave_of_reached {s : State} {p : Nat} (reached : (areaPa s p (ctxVa s) (contextOf s p 0).size 2).isSome = true) :
    ctxSave s p = updPart (ctxAccept s true) p fun x => { x with life := .halted, saveAddr := ctxVa s } := by
  obtain ⟨_, pa⟩ := Option.isSome_iff_exists.mp reached
  rw [ctxSave, pa]

/-- What RESTORE leaves of CTXCTL and of its partition, whose area holds a context that it can take (R390). -/
theorem ctxRestore_of_sound {s : State} {p : Nat} {c : SavedCtx} (idle : partBusy s p = false) (area : areaCtx s p (ctxVa s) = some c)
    (room : (c.grids.any fun g => lrCoop g.lr && decide (residency s p g.lr < g.teams)) = false)
    (known : (s.parts.any fun x => x.num == p) = true) :
    let t := ctxRestore s p
    let cores := (partClusters s p).flatMap clusterCores
    t.pkg.ctxErr = false ∧ t.pkg.ctxReason = 0 ∧ (partOf t p).unreleased = cores ∧ (partOf t p).origin = c.part ∧
      (partOf t p).life = if cores.isEmpty then .running else .restoring := by
  simp only [ctxRestore, idle, area, room, Bool.false_eq_true, if_false]
  rw [partOf_updPart_same (by exact known)]
  exact ⟨rfl, rfl, rfl, rfl, rfl⟩

/-! Cluster maps (R367, R368). -/

/-- A map whose checks pass and whose changing partitions are idle comes into force. -/
theorem applyMap_of_quiet {s : State} {m : List Nat} (quiet : ((changing s.pkg.map m).any fun p => partBusy s p) = false) :
    let t := applyMap s m none
    t.pkg.map = m ∧ t.pkg.partErr = false ∧ t.pkg.partReason = 0 ∧
      t.clusters = (s.clusters.filter fun c => !((changing s.pkg.map m).contains c.ref.part))
        ++ (mapClusters m).filter fun c => (changing s.pkg.map m).contains c.ref.part := by
  simp only [applyMap, quiet, Bool.false_eq_true, if_false]
  generalize hdropped : l1Drop s _ = u
  obtain ⟨_, _, _, _, _, dropped⟩ := l1Drop_eq s fun l =>
    ((s.clusters.filter fun c => (changing s.pkg.map m).contains c.ref.part).flatMap clusterCores).contains l.core
  rw [hdropped] at dropped
  subst dropped
  refine List.foldlRecOn (motive := fun t : State => t.pkg.map = m ∧ t.pkg.partErr = false ∧ t.pkg.partReason = 0 ∧
      t.clusters = (s.clusters.filter fun c => !((changing s.pkg.map m).contains c.ref.part))
        ++ (mapClusters m).filter fun c => (changing s.pkg.map m).contains c.ref.part) _ _ ?_ fun _ h _ _ => h
  exact ⟨rfl, rfl, rfl, rfl⟩

/-- PARTCTL.PART of a command. -/
def withMapPart (s : State) (p : Nat) : State := { s with pkg := { s.pkg with partPart := p } }

/-- APPLY brings the map that CLMAP names into force where its checks pass. -/
theorem partctlWrite_apply {s : State} {p : Nat} (hp : p < 16) (sound : mapReason (withMapPart s p) (readMap (withMapPart s p)) = none) :
    partctlWrite s (p + 16) = applyMap (withMapPart s p) (readMap (withMapPart s p)) none := by
  have code : bitsOf (p + 16) 5 4 = 1 := by rw [bitsOf_eq]; omega
  have part : (p + 16) % 16 = p := by omega
  rw [← sound]
  simp only [partctlWrite, code, part]
  rfl

/-- CLEAR brings the map in force without the entries of the partition. -/
theorem partctlWrite_clear {s : State} {p : Nat} (hp : p < 16) : partctlWrite s (p + 32) =
    applyMap (withMapPart s p) (s.pkg.map.map fun e => if abit e 0 == 1 && e / 65536 % 16 == p then 0 else e) none := by
  have code : bitsOf (p + 32) 5 4 = 2 := by rw [bitsOf_eq]; omega
  have part : (p + 32) % 16 = p := by omega
  simp only [partctlWrite, code, part, bitsOf_eq]
  rfl

/-- Settles O55: each command passes its checks and is carried out, and each event's condition holds. -/
theorem contextAndMapEvents : Obligations.ContextAndMapEvents := by
  refine fun s p addr hr hp => ⟨?save, ?restore, fun free => ?kill, fun halted alive => ?write, fun halted killed => ?killed,
    fun core can => happens_restoreCoreRelease hr can, ?apply, fun quiet => ?clear⟩
  case save =>
    intro s1 free reached
    refine happens_of_event (rfl : _ = execCtxctlSave p addr s) hr (decide_eq_true hp) ?_
    exact (ctxctlWrite_of_idle (s := putCtxaddr s addr.toNat) (op := 1) hp (by decide) (by decide) free).trans (ctxSave_of_reached reached)
  case restore =>
    intro c s1 free idle area room known
    exact ⟨ctxRestore s1 p, happens_of_event (rfl : _ = execCtxctlRestore p addr s) hr (decide_eq_true hp)
      (ctxctlWrite_of_idle (op := 2) hp (by decide) (by decide) free), ctxRestore_of_sound idle area room known⟩
  case kill =>
    exact happens_of_event (rfl : _ = execCtxctlKill p s) hr (decide_eq_true hp)
      (ctxctlWrite_of_idle (op := 3) hp (by decide) (by decide) free)
  case write => exact happens_of_event (rfl : _ = execContextWrite p s) hr halted (if_neg (by rw [alive]; decide))
  case killed => exact happens_of_event (rfl : _ = execContextWrite p s) hr halted (if_pos killed)
  case apply =>
    intro s1 sound quiet
    have named : withMapPart { s with pkg := { s.pkg with clmap := bitsOf addr.toNat 51 12 * 4096 } } p = s1 := by
      rw [bitsOf_eq]; rfl
    rw [← named] at sound quiet ⊢
    exact ⟨_, happens_of_event (rfl : _ = execPartctlApply p addr s) hr (decide_eq_true hp) (partctlWrite_apply hp sound),
      applyMap_of_quiet quiet⟩
  case clear =>
    obtain ⟨map, err, -⟩ := applyMap_of_quiet (s := withMapPart s p) quiet
    exact ⟨_, happens_of_event (rfl : _ = execPartctlClear p s) hr (decide_eq_true hp) (partctlWrite_clear hp), map, err⟩

end Sys2Proof.Machine
end

section
/-! SUPPORT. Power and the mailbox (R410, R411, R418): how an update begins, reads its image and ends, and which partitions a cut of the
power checks. -/

namespace Sys2Proof.Machine

/-- An event that recovery admits too happens where its condition holds, with its effect. -/
theorem happens_of_bootEvent {i : Instr} {s u : State} {can : Bool} {f : State → State} (he : exec i s = bootEvent s can f) (hc : can = true)
    (hf : f s = u) : Happens i s u := by
  rw [← hf]
  exact he.trans (bootEvent_go hc)

/-! The mailbox (R411). -/

/-- UPDATE is busy from now on with no error, and nothing read or written. -/
def updateBegun (s : State) : State :=
  { s with boot := { s.boot with mbst := .busy, mberr := 0, mbfail := 0, mbimage := [], mbread := 0, mbwritten := 0 } }

/-- An UPDATE of an aligned image in host memory begins to read it. -/
theorem mboxUpdate_of_sound {s : State} {addr len : Nat} (idle : s.boot.mbst ≠ .busy) (pages : len % 4096 = 0) (nonempty : len ≠ 0)
    (small : len ≤ 2 ^ 26) (aligned : addr % 4096 = 0) (inside : addr + len ≤ 2 ^ 51) (ha : s.boot.mbaddr.toNat = addr)
    (hl : s.boot.mblen.toNat = len) : mboxUpdate s = mboxRead (updateBegun s) := by
  unfold mboxUpdate updateBegun
  rw [if_neg (by rw [beq_iff_eq]; exact idle)]
  dsimp only
  rw [ha, hl, if_neg (by omega), if_neg (by omega)]

/-- Where no budget limits it the whole image is read at once. -/
theorem mboxRead_mbread {s : State} (unlimited : budgetRoom s 0 = none) : (mboxRead s).boot.mbread = s.boot.mbread + mbLeft s := by
  simp only [mboxRead, unlimited]
  rfl

/-- The end of a command sets the mailbox's status (R411). -/
@[simp] theorem mboxEnd_boot (s : State) (st : MboxState) (err : Nat) :
    (mboxEnd s st err).boot = { s.boot with mbst := st, mberr := err } := setMgstat_boot _ _

/-- It sets MGSTAT.MBOX (R398). -/
theorem mboxEnd_mgstat (s : State) (st : MboxState) (err : Nat) : (mboxEnd s st err).host.mgstat.getLsbD 3 = true :=
  setMgstat_bit _ (by decide)

/-- The code of an image that fails its checks names an error. -/
theorem imageError_ne_zero {s : State} {b : List Byte} {e : Nat} (h : imageError s b = some e) : e ≠ 0 := by
  unfold imageError at h
  split at h
  · cases h; decide
  · split at h
    · cases h; decide
    · cases h

/-- Everything the end of an update can do: it reports the error that it met, that of the image's checks or that of the flash, or the
image stands in the flash (R411). -/
theorem updateEnd_cases (s : State) :
    let t := { s with boot := { s.boot with mbimage := [] } }
    (∃ e w, e ≠ 0 ∧ (s.boot.mbfail ≠ 0 → e = s.boot.mbfail) ∧
      updateEnd s = mboxEnd { t with boot := { t.boot with mbwritten := w } } .error e) ∨
    (s.boot.mbfail = 0 ∧ updateEnd s =
      mboxEnd { t with boot := { t.boot with flash := s.boot.mbimage, flashCut := false, mbwritten := s.boot.mbimage.length } } .done 0) := by
  unfold updateEnd
  dsimp only
  split
  next failed => exact .inl ⟨s.boot.mbfail, s.boot.mbwritten, failed, fun _ => rfl, rfl⟩
  next sound =>
    split
    next e bad => exact .inl ⟨e, s.boot.mbwritten, imageError_ne_zero bad, fun failed => absurd failed sound, rfl⟩
    next =>
      split
      · exact .inr ⟨Decidable.not_not.mp sound, rfl⟩
      · exact .inl ⟨5, _, by decide, fun failed => absurd failed sound, rfl⟩

/-! Machine checks of every partition (R414, R418). -/

@[simp] theorem mcheck_boot (s : State) (p : Nat) : (mcheck s p).boot = { s.boot with mcheck := p :: s.boot.mcheck } := raiseMsix_boot _ _

/-- Machine checks of some partitions are all on record. -/
theorem foldl_mcheck_boot (l : List Nat) (s : State) : (l.foldl mcheck s).boot.mcheck = l.reverse ++ s.boot.mcheck := by
  induction l generalizing s with
  | nil => rfl
  | cons p l ih => rw [List.foldl_cons, ih, mcheck_boot, List.reverse_cons, List.append_assoc]; rfl

/-- Settles O59: what each command and event of the power supply and the mailbox leaves of the boot state. -/
theorem powerAndMailbox : Obligations.PowerAndMailbox := by
  refine fun s => ⟨fun off => ⟨if_neg (by rw [off]; decide), fun h => step_of_noPower off h⟩,
    fun addr len idle unlimited pages nonempty small aligned inside => ?update, fun busy read => ?updateEnd, fun idle => ?reset,
    fun busy => ?abort, ⟨_, happens_of_bootEvent (rfl : _ = execPowerLoss s) rfl rfl, rfl⟩, fun die hd => ?cutoff⟩
  case update =>
    let u : State := { s with boot := { s.boot with mbaddr := BitVec.ofNat 64 addr, mblen := BitVec.ofNat 32 len } }
    have ha : u.boot.mbaddr.toNat = addr := by rw [BitVec.toNat_ofNat]; omega
    have hl : u.boot.mblen.toNat = len := by rw [BitVec.toNat_ofNat]; omega
    have whole : (mboxRead (updateBegun u)).boot.mbread = len := by
      rw [mboxRead_mbread (s := updateBegun u) unlimited, ← hl]
      exact Nat.zero_add _
    have begun : mboxUpdate u = mboxRead (updateBegun u) := mboxUpdate_of_sound idle pages nonempty small aligned inside ha hl
    refine ⟨mboxRead (updateBegun u), congrArg (next u) begun, rfl, rfl, rfl, ?_, ha, hl⟩
    have fresh : (mboxRead (updateBegun u)).boot.mbwritten = 0 := rfl
    rw [mbProgress, whole, fresh, Nat.add_eq_left]
  case updateEnd =>
    have can : (s.boot.mbst == .busy && mbLeft s == 0) = true := by rw [busy, read]; rfl
    refine ⟨_, happens_of_bootEvent (rfl : _ = execMailboxUpdateEnd s) can rfl, ?_⟩
    rcases updateEnd_cases s with ⟨e, w, ne, failed, h⟩ | ⟨sound, h⟩ <;> rw [h, mboxEnd_boot]
    case inl =>
      exact ⟨rfl, rfl, mboxEnd_mgstat _ _ _, fun f => ⟨rfl, failed f, rfl⟩, .inr ⟨rfl, ne, rfl⟩⟩
    case inr =>
      exact ⟨rfl, rfl, mboxEnd_mgstat _ _ _, fun f => absurd sound f, .inl ⟨rfl, rfl, rfl, rfl⟩⟩
  case reset => exact if_neg (by rw [beq_iff_eq]; exact idle)
  case abort =>
    refine ⟨_, congrArg (next s) (if_pos (by rw [busy]; rfl)), ?_⟩
    rw [mboxEnd_boot]
    exact ⟨rfl, rfl, rfl⟩
  case cutoff =>
    refine ⟨_, happens_of_bootEvent (rfl : _ = execDieOvertempCutoff die s) (decide_eq_true hd) rfl, rfl, fun p hp => ?_, rfl⟩
    have checked := foldl_mcheck_boot (List.range 16) s
    exact checked ▸ List.mem_append_left _ (List.mem_reverse.mpr (List.mem_range.mpr hp))

end Sys2Proof.Machine
end

section
/-! SUPPORT. What the host's writes of device memory do to the guest copies of their line (R288, R394), against which the statement of
the host's events fails. -/

namespace Sys2Proof.Machine

/-! The host's writes of device memory and the guest copies of what they write (R288, R394). -/

/-- The end of a step with no monitor keeps the guest copies. -/
theorem commit_guests {s0 s : State} (quiet : s.monitors = []) : (commit s0 s).guests = s.guests := by
  rw [commit, wakeMonitors_none quiet]

/-- A byte put at its home in the package makes the guest copies of its line stale and drops none. -/
theorem putHome_of_device {s : State} {pa : Nat} (quiet : s.monitors = []) (device : region pa ≠ some 2) (b : Byte) :
    putHome s none pa b = { s with
      guests := s.guests.map fun g => if g.pline == pa / 128 && !g.stale then { g with stale := true } else g
      wbuf := (pa, b) :: s.wbuf } := by
  unfold putHome
  rw [hitMonitors_none quiet]
  exact if_pos (by rw [bne_iff_ne.mpr device]; rfl)

/-- So do any number of bytes: the lines of which there are guest copies stay the same. -/
theorem foldl_putHome_guestLines {α : Type} {pa : α → Nat} {b : α → Byte} {l : List α} {s : State} (quiet : s.monitors = [])
    (device : ∀ x ∈ l, region (pa x) ≠ some 2) :
    (l.foldl (fun s x => putHome s none (pa x) (b x)) s).monitors = [] ∧
      (l.foldl (fun s x => putHome s none (pa x) (b x)) s).guests.map (·.pline) = s.guests.map (·.pline) := by
  refine List.foldlRecOn (motive := fun t : State => t.monitors = [] ∧ t.guests.map (·.pline) = s.guests.map (·.pline)) _ _ ⟨quiet, rfl⟩
    fun t ht x hx => ?_
  obtain ⟨quiet', lines⟩ := ht
  rw [putHome_of_device quiet' (device x hx)]
  refine ⟨quiet', lines ▸ ?_⟩
  rw [List.map_map]
  refine List.map_congr_left fun g _ => ?_
  rw [Function.comp_apply, apply_ite GuestLine.pline, ite_self]

/-- What the host writes is performed at SYSTEM scope: no guest copy of its line is left. -/
theorem hostPut_guests (s : State) (line : Nat) (l : List (Nat × Byte)) : ∀ g ∈ (hostPut s line l).guests, g.pline ≠ line / 2 := by
  intro g hg
  obtain ⟨-, other⟩ := List.mem_filter.mp hg
  exact bne_iff_ne.mp other

/-- It wakes no monitor where none is armed. -/
theorem hostPut_monitors {s : State} {line : Nat} {l : List (Nat × Byte)} (quiet : s.monitors = [])
    (device : ∀ x ∈ l, region (64 * line + x.1) ≠ some 2) : (hostPut s line l).monitors = [] :=
  (foldl_putHome_guestLines quiet device).1

/-- The package after reset, with a guest copy of its first line. -/
def guestOfFirstLine : State := { State.reset with guests := [⟨0, List.replicate 128 0, false⟩] }

/-- The bytes that the host writes to that line. -/
def zeros : List Byte := List.replicate 64 0

/-- A write of device memory that need not wait reaches its home (R394). -/
theorem happens_cxlWrite {s : State} {addr : Nat} {data : List Byte} (hr : s.boot.recovery = false) (room : budgetOpen s 0 = true)
    (first : s.host.waiting = []) (near : region (addr / 64 * 64) = some 0) : Happens (.cxlMemRequest (.write addr data)) s
      (hostPut (charge s 0 64) (addr / 64 * 64 / 64) ((data.take 64).zipIdx.map fun x => (x.2, x.1))) := by
  refine happens_of_event (rfl : _ = execCxlMemRequest (.write addr data) s) hr rfl ((if_pos ?now).trans (if_pos ?inside))
  case now => rw [room, first]; rfl
  case inside => exact Bool.or_eq_true_iff.mpr (.inl (beq_iff_eq.mpr near))

/-- In the model the host's write leaves no guest copy of the line. -/
theorem guests_after_hostWrite : ∃ t, exec (.cxlMemRequest (.write 0 zeros)) guestOfFirstLine = .next t ∧ ∀ g ∈ t.guests, g.pline ≠ 0 := by
  refine ⟨_, happens_cxlWrite rfl (by decide) rfl rfl, fun g hg => ?_⟩
  rw [commit_guests (hostPut_monitors rfl (by decide))] at hg
  exact hostPut_guests _ _ _ g hg

/-- Refutes O58: a write of device memory by the host drops the guest copies of its line (`hostPut`), where the effect that the statement
names only makes them stale. A guest copy of the first line and a write of that line tell the two apart. -/
theorem not_hostEventsHappen : ¬ Obligations.HostEventsHappen := by
  intro h
  obtain ⟨events, -⟩ := h
  obtain ⟨-, requests, -⟩ := events guestOfFirstLine 0 ⟨0, .i, [], false, false, none⟩ zeros rfl
  obtain ⟨-, named⟩ := requests 0 (.inl rfl) (by decide) rfl
  obtain ⟨t, model, none⟩ := guests_after_hostWrite
  have same := Host.Outcome.next.inj (model.symm.trans named)
  have device : ∀ x ∈ (zeros.take 64).zipIdx, region (0 / 64 * 64 + x.2) ≠ some 2 := by decide
  obtain ⟨quiet, kept⟩ := foldl_putHome_guestLines (b := Prod.fst) (s := charge guestOfFirstLine 0 64) rfl device
  rw [← commit_guests (s0 := guestOfFirstLine) quiet, ← same] at kept
  have first : 0 ∈ t.guests.map (·.pline) := kept ▸ List.mem_singleton_self 0
  obtain ⟨g, hg, line⟩ := List.mem_map.mp first
  exact none g hg line

end Sys2Proof.Machine
end
